-- ==== Sys2Proof/Word.lean ====
section
/-! DEFINITION. The word types of the Utvia 3216 and their plainest arithmetic (spec 00_scope.md: 32-bit little-endian
registers, bit ranges [msb:lsb]). -/

namespace Sys2Proof

/-- One byte. -/
abbrev Byte := BitVec 8
/-- A register or lane word. -/
abbrev W32 := BitVec 32
/-- A tessera instruction word (R136). -/
abbrev W128 := BitVec 128

/-- Bits [hi:lo] of a number, bit 0 least significant. -/
def bits (w hi lo : Nat) : Nat := (w >>> lo) % 2 ^ (hi + 1 - lo)

/-- One bit of a number. -/
def bit (w n : Nat) : Bool := bits w n n = 1

/-- A Boolean as a bit. -/
def b2n (b : Bool) : Nat := if b then 1 else 0

end Sys2Proof
end

