-- ==== Sys2Proof/Syntax.lean ====
section
/-! DEFINITION. The commands of the block: one constructor per row of spec/opcode_table.json. The table gives no operands
(its rows have no fields), so the operands are the model's: what the outside supplies with the event. -/

namespace Sys2Proof

/-- The name of an accepted command: context, queue and SEQ position (R78, before reduction modulo 65,536). -/
structure CmdId where
  ctx : Nat
  q   : Nat
  pos : Nat
deriving DecidableEq, Repr

/-- A crossing of R66: the block instance (by its BAR0 base) and the crossing index. -/
structure Crossing where
  base  : Nat
  index : Nat
deriving DecidableEq, Repr

/-- What physics and the caches do to memory before a step: DRAM granules (32 B index) that an error now strikes, with
true for an uncorrectable and false for a correctable error (R487, R488); die-cache lines that are replaced (R388), as
pairs of compute die and line number; the location code of an uncorrectable word of the fatal class that the step reads (R492);
that of an uncorrectable word of another on-die SRAM that this step's command reads (R490, R493); those of words corrected in
the step (R488); those of uncorrectable words in a tessera's SRAMs, which its next instruction reads; the logic dies that a beat
was retried into (R487, R508); and crossings whose receiver missed pulses or increments (R64). -/
structure Env where
  faults : List (Nat × Bool) := []
  evict  : List (Nat × Nat) := []
  fatal  : Option Nat := none
  sram   : Option Nat := none
  fixed  : List Nat := []
  hits   : List Nat := []
  retries : List Nat := []
  missed : List Crossing := []
deriving DecidableEq, Repr

/-- What a read of host memory brings back (R453, R456): its bytes, or that request number k failed. -/
inductive HostReply where
  | ok (bytes : List Byte)
  | failed (k : Nat)
deriving DecidableEq, Repr

/-- The engines that choose commands on their own (R362). -/
inductive EngineId where
  | tessGroup (die : Nat)
  | pinned (die tess : Nat)
  | attn (die : Nat)
  | dma (die : Nat)
  | registrar (stack : Nat)
  | courier (ld : Nat)
  | hostCopy (port : Nat)
  | hostCtl (port : Nat)
deriving DecidableEq, Repr

/-- A courier frame (R357); a field the type does not use is 0. -/
structure Frame where
  type    : Nat
  reason  : Nat := 0
  omod    : Nat
  old     : Nat
  ledger  : Nat
  gen     : Nat
  expert  : Nat := 0
  rrow    : Nat := 0
  step    : Nat := 0
  binref  : Nat := 0
  fmt     : Nat := 0
  reserved : Nat := 0
  payload : List Byte := []
deriving DecidableEq, Repr

/-- A packet (R419): header fields and payload bytes. -/
structure Packet where
  ptype   : Nat
  dmod    : Nat
  smod    : Nat
  hops    : Nat
  pepoch  : Nat
  tag     : Nat := 0
  lenw    : Nat := 0
  status  : Nat := 0
  addr    : Nat := 0
  reserved : Nat := 0
  payload : List Byte := []
deriving DecidableEq, Repr

/-- A flit on the wire (R410): its 252 covered bytes as header fields and payload, the stored CRC, whether the FEC could correct
every codeword it lies in, and how many codewords it corrected and how many it could not. -/
structure Flit where
  ftype   : Nat
  vc      : Nat := 0
  seq     : Nat := 0
  ackseq  : Nat := 0
  ackv    : Bool := false
  nak     : Bool := false
  crvc    : Nat := 0
  credits : Nat := 0
  lepoch  : Nat := 0
  sop     : Bool := false
  eop     : Bool := false
  vlen    : Nat := 0
  reserved : Nat := 0
  payload : List Byte := []
  crc     : Nat := 0
  fecOk   : Bool := true
  fecCorrected : Nat := 0
  fecFailed : Nat := 0
deriving DecidableEq, Repr

/-- What the carrier board supplies at power-on: the levels of the strap lands (R460) and the contents of the flash
device (R463; an unlisted byte is erased), whether it enters 8D-8D-8D mode (R462), the slots whose header cannot be read (check 0x1 of
R466) and the slots it cannot erase or write (FLASH_ERROR of R483). -/
structure Board where
  straps : Nat
  flash  : List (Nat × Byte)
  flashFast : Bool := true
  flashErr : List Nat := []
  flashWorn : List Nat := []
deriving DecidableEq, Repr

/-- What the host writes in configuration space beside Bus Master Enable (R437, R440): the completion-timeout range of Device
Control 2, log2 of Max Payload Size and of Max Read Request Size, ATS Enable, and log2 of the size of BAR4. -/
structure HostCfg where
  cto  : Nat := 0
  mps  : Nat := 7
  mrrs : Nat := 9
  ats  : Bool := false
  bar4 : Nat := 30
deriving DecidableEq, Repr

/-- A write of configuration space: Bus Master Enable and the other fields. -/
structure HostCfgWrite where
  busMaster : Bool
  rest : HostCfg := {}
deriving DecidableEq, Repr

inductive Instr where
  -- registers (chapter 00, 16)
  | registerWrite (fn off size value : Nat)
  | rcRead (fn off size : Nat)
  | bar0BadsizeAccess (fn off size : Nat) (write : Bool)
  | pairLowRead (fn off : Nat)
  | pairHighRead (fn off : Nat)
  | pairLowWrite (fn off value : Nat)
  | pairHighWrite (fn off value : Nat)
  -- contexts, queues and commands (chapters 03, 13, 16)
  | hiCtxCfgWrite (fn ctx value : Nat)
  | ctxOpen (fn ctx : Nat)
  | ctxTeardown (fn ctx : Nat)
  | ctxRelease (fn ctx : Nat)
  | drainComplete (ctx : Nat)
  | qEnable (fn ctx q value : Nat)
  | qDisable (fn ctx q value : Nat)
  | qDisableComplete (ctx q : Nat)
  | tailDoorbell (fn off size value : Nat)
  | headDoorbell (fn off size value : Nat)
  | commandAccept (ctx q : Nat) (entry : HostReply) (env : Env)
  | engineChoose (e : EngineId) (env : Env)
  | killComplete (id : CmdId)
  | waitTimeout (id : CmdId)
  | commandCommit (ctx q : Nat) (env : Env)
  | semWrite (id : CmdId)
  | allocSet (id : CmdId)
  | descCreate (id : CmdId) (env : Env)
  | descClear (id : CmdId)
  | cacheInvalidate (id : CmdId)
  | remoteSignal (id : CmdId)
  | scrub (id : CmdId) (env : Env)
  -- work items and tessera instructions (chapters 03 to 08)
  | runGrid (id : CmdId) (env : Env)
  | itemClaim (die tess : Nat) (env : Env)
  | itemFinish (die tess : Nat)
  | nop (die tess : Nat) (x : Bool)
  | endI (die tess : Nat) (x : Bool)
  | trap (die tess : Nat) (x : Bool)
  | br (die tess : Nat) (x : Bool)
  | push (die tess : Nat) (x : Bool)
  | pop (die tess : Nat) (x : Bool)
  | salu (die tess : Nat)
  | aalu (die tess : Nat)
  | smul (die tess : Nat)
  | vint (die tess : Nat)
  | vcmp (die tess : Nat)
  | vsel (die tess : Nat)
  | vfp (die tess : Nat)
  | vcvt (die tess : Nat)
  | vred (die tess : Nat)
  | vsfu (die tess : Nat)
  | topk (die tess : Nat)
  | vsplat (die tess : Nat)
  | vext (die tess : Nat)
  | vld (die tess : Nat)
  | vst (die tess : Nat)
  | xpose (die tess : Nat)
  | ldtile (die tess : Nat)
  | matmul (die tess : Nat)
  | drain (die tess : Nat)
  | load (die tess : Nat)
  | store (die tess : Nat)
  | fence (die tess : Nat)
  | transferComplete (die tess k : Nat) (env : Env)
  | queueWaitWatchdog (die tess : Nat) (x : Bool)
  | instructionBudget (die tess : Nat) (x : Bool)
  | tdSparseCtlClear (fn die : Nat)
  -- attention pipelines (chapter 09)
  | attnFwd (die pipe : Nat) (env : Env)
  | attnMerge (die pipe : Nat) (env : Env)
  | attnBwdQ (die pipe : Nat) (env : Env)
  | attnBwdKv (die pipe : Nat) (env : Env)
  | attnUnitTake (die pipe : Nat)
  | tdApCtlClear (fn die : Nat)
  -- DMA (chapter 07)
  | copy (id : CmdId) (env : Env)
  | quantize (id : CmdId) (env : Env)
  | dequantize (id : CmdId) (env : Env)
  -- docents and registrars (chapters 10, 11)
  | gemv (stack bank : Nat) (env : Env)
  | gatherReduce (stack bank : Nat) (env : Env)
  | attnPartial (stack bank : Nat) (env : Env)
  | optStep (stack bank : Nat) (env : Env)
  | convert (stack bank : Nat) (env : Env)
  | fill (stack bank : Nat) (env : Env)
  | docentTaskStart (stack arrayDie : Nat) (env : Env)
  | docentTaskComplete (stack bank : Nat)
  | broadcastSlice (stack : Nat)
  | mergePartial (stack : Nat) (env : Env)
  | tdDocCtlClear (fn stack : Nat)
  | cacheOpen (id : CmdId)
  | stepReserve (id : CmdId) (env : Env)
  | stepCommit (id : CmdId) (env : Env)
  | stepAbort (id : CmdId)
  | sbCacheFreeRead (fn stack : Nat)
  | sbCacheCtlClear (fn stack : Nat)
  -- couriers (chapter 12)
  | dispatch (id : CmdId) (env : Env)
  | combine (id : CmdId) (env : Env)
  | expertOpen (id : CmdId)
  | expertClose (id : CmdId)
  | expertGather (id : CmdId) (env : Env)
  | expertReturn (id : CmdId) (env : Env)
  | copyFrame (ld : Nat) (f : Frame)
  | verdict (ld : Nat) (f : Frame)
  | result (ld : Nat) (f : Frame)
  | resultAck (ld : Nat) (f : Frame)
  | returnF (ld : Nat) (f : Frame)
  | holdExpiry (ld k : Nat)
  | resultResend (ld binref : Nat)
  | ldCrCtlClear (fn ld : Nat)
  -- host interface (chapter 16)
  | hcopy (id : CmdId) (host : HostReply) (env : Env)
  | hiCtxRootWrite (fn ctx value : Nat)
  | bar4Read (port off len : Nat) (env : Env)
  | bar4Write (port off : Nat) (bytes : List Byte) (env : Env)
  | functionLevelReset (fn : Nat)
  | perstAssert (port : Nat)
  | dlDown (port : Nat)
  | vfEnableClear (port : Nat)
  | msixVectorUnmask (fn vector : Nat) (enable unmask : Bool)
  | d3hotEntry (port : Nat)
  | d0Return (port : Nat)
  -- Woson links (chapter 15)
  | portTrained (port nbr nport lepoch : Nat)
  | blockLockLoss (port : Nat)
  | ldWpRetrain (fn port : Nat)
  | ldWpCtlClear (fn port : Nat)
  | flitReceive (port : Nat) (f : Flit)
  | gapTimeout (group : Nat)
  | ackTimeout (group : Nat)
  | ldPkCtlClear (fn ld : Nat)
  | readReq (ld : Nat) (p : Packet) (env : Env)
  | writeReq (ld : Nat) (p : Packet) (env : Env)
  | signalReq (ld : Nat) (p : Packet)
  | readResp (ld : Nat) (p : Packet)
  | writeAck (ld : Nat) (p : Packet)
  | signalAck (ld : Nat) (p : Packet)
  | courier (ld : Nat) (p : Packet)
  | heartbeat (ld : Nat) (p : Packet)
  | heartbeatSend
  | heartbeatTimeout (m : Nat)
  | responseTimeout (m : Nat)
  | join (ld : Nat) (p : Packet)
  | joinAck (ld : Nat) (p : Packet)
  | joinRepeat (m : Nat)
  | pathLost (ld : Nat) (p : Packet)
  | fenceExpiry (ld k : Nat)
  -- start-up, resets, quiescent points, remaps, updates (chapters 02, 17, 18)
  | powerOn (board : Board)
  | railsStable
  | bootTemperatureWaitEnd
  | deviceResetRequest (fn value : Nat)
  | hd0HeartbeatTimeout
  | quiescentPoint
  | pllRelockComplete
  | overlaySwitchRequest (fn value : Nat)
  | remapRequest (fn stack value : Nat)
  | remapApply (fn value : Nat)
  | remapSaveComplete
  | persistSaveComplete
  | getInfo (fn len : Nat)
  | attest (fn len : Nat)
  | getCert (fn len : Nat)
  | updateBegin (fn len : Nat)
  | updateData (fn len : Nat)
  | updateEnd (fn len : Nat)
  | updateAbort (fn len : Nat)
  | updateHoldTimeout
  | requestUpdate (imageLen : Nat)
  | requestFirmwareData (offset : Nat) (data : List Byte)
  | verifyComplete
  | applyComplete
  | cancelUpdate
  | activateFirmware
  -- sideband and thermal, power, ageing (chapter 19)
  | setEventReceiver (eid : Nat)
  | setEndpointId (eid : Nat)
  | entdaa (addr : Nat)
  | sensorRefresh
  | sensorSample (array : Bool) (die : Nat) (readings : List Int)
  | sensorFail (array : Bool) (die sensor : Nat)
  | coolDownEnd
  | thermalAllowanceUpdate
  | powerAllowanceUpdate (die watts : Nat)
  | powerCalibration (packageW cdMaxW : Nat)
  | heldWriteExpiry (stack arrayDie : Nat)
  | docentPauseExpiry (stack bank : Nat)
  | refreshOperation (stack bank : Nat)
  | targetedRefresh (stack bank row : Nat)
  | railWarningCross (rail mv : Nat)
  | supplyRecovery
  | railResetCross (rail mv : Nat)
  | railPowerLoss (rail mv : Nat)
  | patinaMeasurement (slacks : List (Nat × Nat × Int)) (again : List (Nat × Nat × Int))
  | patinaHeaderSave
  -- low power, crossings, ticks, events (chapters 02, 20, 21)
  | g2Entry (domain : Nat)
  | g2Wake (domain : Nat)
  | scLpCtlWrite (fn value : Nat)
  | resyncRequest (x : Crossing) (far : Bool)
  | resyncAck (x : Crossing)
  | tickSnapshot (fn value : Nat)
  | snapshotMessage (die : Nat)
  | eventRecord (die code arg0 arg1 : Nat)
  | eventStore (die : Nat)
  | evtSlotRead (fn slot : Nat)
  | tdEccCtlClear (fn base : Nat)
  -- host events with rows of their own at the end of the table
  | hostLinkUp (port rate width : Nat) (flit : Bool)
  | busMasterEnableWrite (fn : Nat) (cfg : HostCfgWrite)
  | vfEnableSet (port num : Nat)
  | atsInvalidation (fn lo hi : Nat)
  | completionTimeout (ctx q : Nat) (hcopyOf : Option (CmdId × Nat))
  | railWarningReturn (rail mv : Nat)
  | shareAccountCrossing (e : EngineId) (ctx : Nat)
  | boundaryScanInstruction (ir : Nat)
deriving DecidableEq, Repr

end Sys2Proof
end

