-- ==== Sys2Proof/Config.lean ====
section
/-! DEFINITION. What a part or an implementation fixes, and the FREE VALUES: constants without a body, so that nothing
in Lean can know them (log entries 1, 2, 5 to 8). -/

namespace Sys2Proof.Config

/-- A byte that the spec calls undefined (R85, R86, R549): which undefined range it lies in, and its address. -/
opaque freeByte (stamp addr : Nat) : Byte

/-- Whether a reader in a step of this age finds a granule with what an uncommitted command wrote there (R384, R387): the
command's stamp, the age, the granule. -/
opaque landed (stamp age granule : Nat) : Bool
/-- Whether it finds bytes of a killed run of that command there (R87, R384). -/
opaque stray (stamp age granule : Nat) : Bool

/-- What a part answers for exp2 of a finite FP32 value; used only where it lies within the error R111 states, and so for the
four functions below. -/
opaque exp2 : W32 → W32
/-- log2 of a positive finite FP32 value. -/
opaque log2 : W32 → W32
/-- The reciprocal of a finite nonzero FP32 value. -/
opaque rcp : W32 → W32
/-- The reciprocal square root of a positive finite FP32 value. -/
opaque rsqrt : W32 → W32
/-- tanh of a finite nonzero FP32 value. -/
opaque tanh : W32 → W32

/-- Which of two order-free choices an arrival takes (R288, R94): a number from a fresh counter. -/
opaque freeNat (stamp : Nat) : Nat

/-- SHAKE256 with 512-bit output (R464): an external standard the spec names and does not give. -/
opaque shake256 : List Byte → List Byte
/-- Falcon-1024 verification of a signature over a digest (R466 check 0x5). -/
opaque falconVerify (key digest sig : List Byte) : Bool
/-- Falcon-1024 signature with the identity key (R482). -/
opaque falconSign (digest : List Byte) : List Byte
/-- The length of a report's signature (R482): 1 to 1,536 bytes, as 1 + this modulo 1,536. -/
opaque sigLength : List Byte → Nat
/-- The certificate of R481. -/
opaque certificate : List Byte
/-- The part's Falcon-1024 identity public key (R481). -/
opaque identityKey : List Byte
/-- DEVICE_ID (R481): the first 16 bytes of the identity public key's digest, as a number, lowest byte first. -/
def deviceId : BitVec 128 := BitVec.ofNat 128 (((shake256 identityKey).take 16).foldr (fun b n => b.toNat + 256 * n) 0)

/-- The fused key hash of each key slot (R471). -/
opaque keyHash (slot : Nat) : List Byte

/-- V_BASE (R533), per part, in units of 0.125 mV: 0.62 V to 0.74 V. -/
opaque vBase : Nat
/-- S_V (R533), per part: the gain in slack from one guardband step, in units of 1/8 ps. -/
opaque sV : Nat

/-- Which way SC_PATINA.MARGIN (R535) rounds a margin that is no whole number of ps: the spec does not say. -/
opaque roundUp : Int → Bool

end Sys2Proof.Config
end

