-- ==== Sys2Proof/Machine/Types.lean ====
section
/-! DEFINITION. The kinds of thing the state holds: formats, exact values, descriptors, statuses, commands and their work. -/

namespace Sys2Proof.Machine

/-- The sixteen number formats (R168). -/
inductive Fmt where
  | fp32 | fp16 | bf16 | e5m2 | e4m3 | e3m2 | e2m3 | e2m1
  | int32 | int16 | int8 | uint8 | int4 | uint4 | e8m0 | ue4m3
deriving DecidableEq, Repr

/-- An exact value (R17): a NaN, an infinity, or (-1)^neg * mag * 2^exp; mag = 0 keeps the sign of a zero. -/
inductive Fp where
  | nan
  | inf (neg : Bool)
  | fin (neg : Bool) (mag : Nat) (exp : Int)
deriving DecidableEq, Repr

/-- A descriptor (R198). `bank` is VIEW, `cg64` is LAYOUT (R199); SIZE and STRIDE have NDIM entries. -/
structure Desc where
  writable : Bool
  bank     : Bool
  cg64     : Bool
  fmt      : Fmt
  base     : Nat
  size     : List Nat
  stride   : List Int
  alloc    : Nat
deriving DecidableEq, Repr

/-- An allocation record (R204). -/
structure AllocRec where
  writable : Bool
  bank     : Bool
  base     : Nat
  len      : Nat
deriving DecidableEq, Repr

/-- Completion statuses (R80). -/
inductive Status where
  | ok | okScaleRerun | descriptorInvalid | noSuchEngine | formatUnsupported | commandMalformed
  | engineHalted | translationFault | eccUncorrectable | indexOutOfRange | pagesExhausted | scaleGuardFailed
  | writeHeldTimeout | remoteUnreachable | remoteIndeterminate | partialFailure | waitTimeout
  | contextTornDown | deviceReset
deriving DecidableEq, Repr

/-- The code of a status (R80). -/
def Status.code : Status → Nat
  | .ok => 0x00 | .okScaleRerun => 0x01 | .descriptorInvalid => 0x10 | .noSuchEngine => 0x11
  | .formatUnsupported => 0x12 | .commandMalformed => 0x13 | .engineHalted => 0x20 | .translationFault => 0x21
  | .eccUncorrectable => 0x30 | .indexOutOfRange => 0x31 | .pagesExhausted => 0x32 | .scaleGuardFailed => 0x33
  | .writeHeldTimeout => 0x34 | .remoteUnreachable => 0x40 | .remoteIndeterminate => 0x41
  | .partialFailure => 0x42 | .waitTimeout => 0x43 | .contextTornDown => 0x50 | .deviceReset => 0x51

/-- How a command ends: status, DETAIL and the four RESULT words (R78, R80). -/
structure Ending where
  status : Status
  detail : Nat := 0
  r0 : Nat := 0
  r1 : Nat := 0
  r2 : Nat := 0
  r3 : Nat := 0
deriving DecidableEq, Repr

/-- Context states (R68). -/
inductive CtxSt where
  | closed | opened | draining | tornDown
deriving DecidableEq, Repr

/-- Teardown causes (R68). -/
inductive Cause where
  | none | engineHalt | translationFault | hostRequest | reinitialise | queueAccess
deriving DecidableEq, Repr

def Cause.code : Cause → Nat
  | .none => 0 | .engineHalt => 1 | .translationFault => 2 | .hostRequest => 3 | .reinitialise => 4 | .queueAccess => 5

def CtxSt.code : CtxSt → Nat
  | .closed => 0 | .opened => 1 | .draining => 2 | .tornDown => 3

/-- Where an accepted command stands (R84, R87, R367): queued (not started, or killed and waiting to run again), running,
being killed, or finished with a fixed status and waiting for its place in the queue order (R83). -/
inductive Stage where
  | queued | running | killing | finished
deriving DecidableEq, Repr

/-- A cache layout (R298). -/
structure Layout where
  wbase  : Nat
  seqMax : Nat
  layers : Nat
  hkv    : Nat
  dm32   : Nat
  fmt    : Fmt
  scale  : Option (Fmt × Nat)
  maxLog : Nat
deriving DecidableEq, Repr

/-- States of a level-2 page table entry (R309). -/
inductive PageSt where
  | invalid | reserved | mapped | leaving
deriving DecidableEq, Repr

/-- A level-2 entry (R309): the page of (context, sequence, layer and head pair, page number) and its frame. -/
structure PageEntry where
  ctx   : Nat
  seq   : Nat
  pair  : Nat
  page  : Nat
  st    : PageSt
  stack : Nat
  bank  : Nat
  frame : Nat
deriving DecidableEq, Repr

/-- A frame of a page pool: stack, bank and frame within the bank's slab (R306). -/
structure FrameId where
  stack : Nat
  bank  : Nat
  frame : Nat
deriving DecidableEq, Repr

/-- A page descriptor (R322); `task` is the registrar queue entry of its command. -/
structure PageDesc where
  frame  : Nat
  fresh  : Bool
  kpos0  : Nat
  count  : Nat
  batch  : Nat
  kvhead : Nat
  task   : Nat := 0
deriving DecidableEq, Repr

/-- What one docent task has to do, piece by piece (R293). -/
inductive DocItem where
  | row (n : Nat)                 -- GEMV row
  | pick (l bag row : Nat)        -- GATHER_REDUCE: index l of a bag names a table row
  | page (pd : PageDesc)          -- ATTN_PARTIAL page
  | elems (idx : List Nat)        -- OPT_STEP, CONVERT, FILL: index tuple of a row (dimension 0 left out)
deriving DecidableEq, Repr

/-- A partial result on its way through the merge units (R288): its row or bag, the state (m, l, o) (o alone where the
operation has no soft maximum) and how many terms it holds. -/
structure Part where
  key : Nat
  m : W32
  l : W32
  o : List W32
  n : Nat := 0
deriving DecidableEq, Repr

/-- How far a docent task is (R293, R294). -/
inductive TaskSt where
  | waiting | active | computed
deriving DecidableEq, Repr

/-- A docent task: the work of one command on one bank. `buf` are the halves of the operand buffer that hold a slice, oldest
first (R287), each the encodings of every vector; `sent` counts the slices sent to it for the rows at hand, `used` those it has
worked through; `accs` are its accumulators (R276), row by row and vector by vector, each with the exact sum of a group of
products that is not complete yet. -/
structure DocTask where
  stack : Nat
  bank  : Nat
  st    : TaskSt
  items : List DocItem
  taken : Nat := 0
  paused : Bool := false
  parts : List Part := []
  buf   : List (List (List Nat)) := []
  sent  : Nat := 0
  used  : Nat := 0
  accs  : List (List (W32 × Fp)) := []
deriving DecidableEq, Repr

/-- The counts a docent command reports (R286). -/
structure DocCounts where
  c0 : Nat := 0
  c1 : Nat := 0
  c2 : Nat := 0
  c3 : Nat := 0
  c4 : Nat := 0
deriving DecidableEq, Repr

/-- The work of a docent command. `planned` are the stacks whose tasks are known; `recv` the running maxima sent back to the
docents of a stack, by row (R289). `arrived` are partials that wait at a stack's merge unit in arrival order, `merged` the
running states of each stack's merge unit, `home` the home stack's. `slice` counts broadcast slices sent per stack. -/
structure DocWork where
  planned : List Nat := []
  tasks   : List DocTask := []
  arrived : List (Nat × Part) := []
  merged  : List (Nat × Part) := []
  recv    : List (Nat × Nat × W32) := []
  slice   : List (Nat × Nat) := []
  counts  : DocCounts := {}
  failed  : List (Nat × Ending) := []
deriving DecidableEq, Repr

/-- The scale guard's command-wide totals (R190, R191). -/
structure Guard where
  gt  : Option Nat := none
  c   : Nat := 0
  t   : Nat := 0
  hi  : Option Fp := none
  lo  : Option Fp := none
  nonfinite : Bool := false
  hpos : Option Fp := none
  hneg : Option Fp := none
deriving DecidableEq, Repr

/-- A started RUN_GRID (R93 to R98): its pool, the deques of its tesserae (key 128 * die + tessera) and its counts.
`start` numbers the start, `items` are the
items it placed, `run` is 1 or 2 (R191), `factor` the override of run 2. -/
structure Grid where
  start   : Nat
  placed  : Bool := false
  items   : List Nat := []
  pool    : List Nat := []
  deques  : List (Nat × List Nat) := []
  running : List Nat := []
  ran     : List Nat := []
  itemsRun : Nat := 0
  stolen  : Nat := 0
  remote  : Nat := 0
  masked  : Nat := 0
  run     : Nat := 1
  guard   : Guard := {}
  guard1  : Guard := {}
  factor  : Option Fp := none
deriving DecidableEq, Repr

/-- A started attention command (R241): the next unit to hand out, units finished, and the counts of R251. -/
structure AttnWork where
  next  : Nat := 0
  fin   : Nat := 0
  counts : DocCounts := {}
deriving DecidableEq, Repr

/-- The page and length changes a step command derived when it ran, applied at its commit (R310, R315, R316): entries in
their new states (invalid: removed), new reserved lengths, frames to zero, sequences that shrink. -/
structure StepPlan where
  pages : List PageEntry := []
  lens  : List (Nat × Nat) := []
  zero  : List FrameId := []
  shrunk : List Nat := []
deriving DecidableEq, Repr

/-- The copies of a DISPATCH (R336): copy number q, sending courier, ledger index. -/
structure DispWork where
  copies : List (Nat × Nat × Nat) := []
  padding : Nat := 0
  unreach : Nat := 0
  sent : Bool := false
deriving DecidableEq, Repr

/-- The engine work of a started command. -/
inductive Work where
  | none
  | grid (g : Grid)
  | attn (a : AttnWork)
  | doc (d : DocWork)
  | step (p : StepPlan)
  | disp (d : DispWork)
  | returning                -- EXPERT_RETURN has sent its results (R348)
deriving DecidableEq, Repr

/-- The changes a command makes at its commit beside its memory writes (R85). -/
inductive Effect where
  | semSet (n : Nat) (v : W32)
  | allocSet (idx : Nat) (r : Option AllocRec)
  | descSet (slot : Nat) (d : Option Desc)
  | discard (dies : List Nat) (lo hi : Nat)
  | openCache (l : Layout)
  | stepReserve
  | stepCommit
  | stepAbort
  | handleOut (h : Nat)
  | handleFree (h : Nat)
  | openSlots (step first count cap brow : Nat)
  | closeSlots (first count : Nat)
  | gatherBins (step first count : Nat)
  | emptyBins (step first count : Nat)
deriving DecidableEq, Repr

/-- An accepted, uncommitted command. `raw` is its 64 bytes (R73); `descs` the descriptors its references resolved to at
acceptance, by the byte offset of the reference (R208); `places` the physical placement found then (R268), by 512-byte block;
`killedOn` the engines on which it has made another command be killed (R365). -/
structure Cmd where
  id     : CmdId
  raw    : List Byte
  descs  : List (Nat × Desc)
  places : List (Nat × Nat) := []
  engines : List EngineId
  stage  : Stage := .queued
  startedOn : List EngineId := []
  killedOn : List EngineId := []
  hasStarted : Bool := false
  waitMet : Bool := false
  limitOn : Bool := false
  readyAt : Option Nat := none
  startAt : Nat := 0
  rerun  : Bool := false
  spreadIgnored : Bool := false
  ending : Option Ending := none
  work   : Work := .none
  writes : List (Nat × Byte) := []
  effects : List Effect := []
  remote : List (Nat × Byte) := []
  unacked : Nat := 0
  acked : Bool := false
  stamp  : Nat := 0
  counted : Bool := false
deriving DecidableEq, Repr

/-- A queue pair (R448, R449). `accepted` and `written` count commands accepted and records written since it was enabled. -/
structure Queue where
  sqBase : Nat := 0
  cqBase : Nat := 0
  enable : Bool := false
  sqDev  : Bool := false
  cqDev  : Bool := false
  disabling : Bool := false
  vector : Nat := 0
  log2   : Nat := 0
  sqHead : Nat := 0
  sqTail : Nat := 0
  cqTail : Nat := 0
  cqHead : Nat := 0
  accepted : Nat := 0
  written : Nat := 0
  readFailed : Bool := false
deriving DecidableEq, Repr

/-- A context (R68, R371, R444) and what the registrars keep for it (R298, R311; `shrunk` are the sequences that shrank
within the step, R316). `flr` marks a drain of R458. -/
structure Ctx where
  port : Nat := 0
  func : Nat := 0
  share : Nat := 0
  prio : Nat := 0
  shareRefused : Bool := false
  cause : Cause := .none
  st : CtxSt := .closed
  itemCycles : Nat := 0
  kills : Nat := 0
  root : Nat := 0
  hwin : Nat := 0
  semFirst : Nat := 0
  semCount : Nat := 0
  flr : Bool := false
  layout : Option Layout := none
  stepOpen : Bool := false
  clen : List (Nat × Nat) := []
  rlen : List (Nat × Nat) := []
  shrunk : List Nat := []
deriving DecidableEq, Repr

/-- A cached translation (R446): context, first byte, length, physical base, writable. -/
structure Tlb where
  ctx  : Nat
  lo   : Nat
  len  : Nat
  pa   : Nat
  wr   : Bool
deriving DecidableEq, Repr

/-- A range of undefined memory (R85, R86, R549), half open. -/
structure Undef where
  lo : Nat
  hi : Nat
  stamp : Nat
deriving DecidableEq, Repr

/-- Who reads a byte: the stamp of its command, and its engine as R385 counts engines (0: none of them). -/
structure Seer where
  stamp : Nat := 0
  eng   : Nat := 0
deriving DecidableEq, Repr

/-- A byte that an uncommitted command has written (R384): the command's stamp, the engine that wrote, and the byte before. -/
structure Under where
  stamp : Nat
  eng   : Nat
  addr  : Nat
  old   : Byte
deriving DecidableEq, Repr

/-- Device memory. `cells` in the canonical form (addresses rising, no zero byte); a byte inside an `undef` range reads as
a free value, any other unlisted byte as 0. `veil` are the destinations of started, uncommitted commands (R85), `under` the
bytes below what those commands have written, newest first: a reader finds a granule as it is or as it was (R384, R387).
`killed` are the stamps of commands with a killed run, whose bytes may show too (R87); `age` counts steps, so that two reads
may differ. `bad` are granules that hold an uncorrectable or poisoned word, `weak` those with a correctable error (R487,
R491). -/
structure Mem where
  cells : List Host.Cell := []
  undef : List Undef := []
  veil  : List Undef := []
  under : List Under := []
  killed : List Nat := []
  age   : Nat := 0
  bad   : List Nat := []
  weak  : List Nat := []
deriving DecidableEq, Repr

end Sys2Proof.Machine
end

