-- ==== Sys2Proof/Machine/Numerics.lean ====
section
/-! DEFINITION. Number formats and their arithmetic (spec 06_numerics.md): exact values, one rounding, the conversions of
R173 to R176, and the derived scales of R195 and R196. -/

namespace Sys2Proof.Machine

/-- The code of a format (R168). -/
def Fmt.code : Fmt → Nat
  | .fp32 => 0 | .fp16 => 1 | .bf16 => 2 | .e5m2 => 3 | .e4m3 => 4 | .e3m2 => 5 | .e2m3 => 6 | .e2m1 => 7
  | .int32 => 8 | .int16 => 9 | .int8 => 10 | .uint8 => 11 | .int4 => 12 | .uint4 => 13 | .e8m0 => 14 | .ue4m3 => 15

/-- The format of a 4-bit code (R168). -/
def Fmt.ofCode : Nat → Fmt
  | 0 => .fp32 | 1 => .fp16 | 2 => .bf16 | 3 => .e5m2 | 4 => .e4m3 | 5 => .e3m2 | 6 => .e2m3 | 7 => .e2m1
  | 8 => .int32 | 9 => .int16 | 10 => .int8 | 11 => .uint8 | 12 => .int4 | 13 => .uint4 | 14 => .e8m0 | _ => .ue4m3

/-- Bits of an element's encoding (R168). -/
def Fmt.bits : Fmt → Nat
  | .fp32 | .int32 => 32
  | .fp16 | .bf16 | .int16 => 16
  | .e3m2 | .e2m3 => 6
  | .e2m1 | .int4 | .uint4 => 4
  | _ => 8

/-- Half bytes an element occupies (R171): a 6-bit element has its own byte. -/
def Fmt.nibbles : Fmt → Nat
  | .fp32 | .int32 => 8
  | .fp16 | .bf16 | .int16 => 4
  | .e2m1 | .int4 | .uint4 => 1
  | _ => 2

/-- Element size in bytes for addressing (R200); 4-bit formats count 1. -/
def Fmt.bytes (f : Fmt) : Nat := (f.nibbles + 1) / 2

def Fmt.isScale : Fmt → Bool
  | .e8m0 | .ue4m3 => true
  | _ => false

def Fmt.isInt : Fmt → Bool
  | .int32 | .int16 | .int8 | .uint8 | .int4 | .uint4 => true
  | _ => false

/-- A signed or unsigned floating element format. -/
def Fmt.isFloat (f : Fmt) : Bool := !f.isInt && !f.isScale

/-- The range of an integer format (R170). -/
def Fmt.qmin : Fmt → Int
  | .int32 => -2147483648 | .int16 => -32768 | .int8 => -128 | .int4 => -8
  | _ => 0
def Fmt.qmax : Fmt → Int
  | .int32 => 2147483647 | .int16 => 32767 | .int8 => 127 | .uint8 => 255 | .int4 => 7 | .uint4 => 15
  | _ => 0

/-- Exponent bits, mantissa bits and bias of a floating format (R169). -/
def Fmt.ebits : Fmt → Nat
  | .fp32 | .bf16 | .e8m0 => 8 | .fp16 | .e5m2 => 5 | .e4m3 | .ue4m3 => 4 | .e3m2 => 3 | .e2m3 | .e2m1 => 2 | _ => 0
def Fmt.mbits : Fmt → Nat
  | .fp32 => 23 | .fp16 => 10 | .bf16 => 7 | .e5m2 => 2 | .e4m3 | .ue4m3 => 3 | .e3m2 => 2 | .e2m3 => 3 | .e2m1 => 1
  | _ => 0
def Fmt.bias : Fmt → Int
  | .fp32 | .bf16 | .e8m0 => 127 | .fp16 | .e5m2 => 15 | .e4m3 | .ue4m3 => 7 | .e3m2 => 3 | .e2m3 | .e2m1 => 1 | _ => 0

/-- The formats whose top exponent holds infinity and NaN (R169). -/
def Fmt.ieee : Fmt → Bool
  | .fp32 | .fp16 | .bf16 | .e5m2 => true
  | _ => false

/-- The encoding of the largest finite magnitude (R169). -/
def Fmt.maxEnc : Fmt → Nat
  | .fp32 => 0x7F7FFFFF | .fp16 => 0x7BFF | .bf16 => 0x7F7F | .e5m2 => 0x7B | .e4m3 | .ue4m3 => 0x7E
  | .e3m2 | .e2m3 => 0x1F | .e2m1 => 0x7 | _ => 0

/-- The canonical NaN (R172); 0 where the format has none (R173). -/
def Fmt.nanEnc : Fmt → Nat
  | .fp32 => 0x7FC00000 | .fp16 => 0x7E00 | .bf16 => 0x7FC0 | .e5m2 => 0x7E | .e4m3 | .ue4m3 => 0x7F | .e8m0 => 0xFF
  | _ => 0

/-- A signed number of a width in two's complement. -/
def toSigned (w n : Nat) : Int := if n % 2 ^ w < 2 ^ (w - 1) then (n % 2 ^ w : Nat) else ((n % 2 ^ w : Nat) : Int) - (2 ^ w : Nat)
/-- An integer reduced to a width. -/
def ofSigned (w : Nat) (x : Int) : Nat := (x % ((2 ^ w : Nat) : Int)).toNat

/-- An integer as an exact value. -/
def Fp.ofInt (x : Int) : Fp := .fin (decide (x < 0)) x.natAbs 0

def Fp.zero : Fp := .fin false 0 0
def Fp.one : Fp := .fin false 1 0

/-- The exact value of an encoding (R169, R170, R174). -/
def Fmt.decode (f : Fmt) (w : Nat) : Fp :=
  match f with
  | .int32 | .int16 | .int8 | .int4 => Fp.ofInt (toSigned f.bits w)
  | .uint8 | .uint4 => Fp.ofInt ((w % 2 ^ f.bits : Nat))
  | .e8m0 => if w % 256 = 0xFF then .nan else .fin false 1 ((w % 256 : Nat) - 127 : Int)
  | _ =>
    if f = .ue4m3 ∧ (128 ≤ w % 256) then .nan else
    let m := w % 2 ^ f.mbits
    let e := (w >>> f.mbits) % 2 ^ f.ebits
    let neg := f != .ue4m3 && bit w (f.mbits + f.ebits)
    if f.ieee ∧ e = 2 ^ f.ebits - 1 then (if m = 0 then .inf neg else .nan)
    else if (f = .e4m3 ∨ f = .ue4m3) ∧ e = 15 ∧ m = 7 then .nan
    else if e = 0 then .fin neg m (1 - f.bias - f.mbits)
    else .fin neg (m + 2 ^ f.mbits) ((e : Int) - f.bias - f.mbits)

/-- Directions of the roundings the spec uses. -/
inductive Rnd where
  | even | up | down
deriving DecidableEq, Repr

/-- A magnitude mag * 2^sh as an integer, rounded. -/
def roundShift (r : Rnd) (mag : Nat) (sh : Int) : Nat :=
  if 0 ≤ sh then mag * 2 ^ sh.toNat
  else
    let k := (-sh).toNat
    let q := mag >>> k
    let rem := mag % 2 ^ k
    match r with
    | .down => q
    | .up => if rem = 0 then q else q + 1
    | .even => if 2 ^ k < 2 * rem ∨ (2 * rem = 2 ^ k ∧ q % 2 = 1) then q + 1 else q

/-- floor(log2) of mag * 2^exp for mag nonzero. -/
def flog2 (mag : Nat) (exp : Int) : Int := (Nat.log2 mag : Int) + exp

/-- The encoding of a finite magnitude without its sign under R173, and whether it exceeds the largest finite one. -/
def roundMag (r : Rnd) (f : Fmt) (mag : Nat) (exp : Int) : Nat × Bool :=
  if mag = 0 then (0, false) else
    let emin := 1 - f.bias
    let e := max (flog2 mag exp) emin
    let q := e - f.mbits
    let n := roundShift r mag (exp - q)
    -- n counts units of 2^q; a carry out of the mantissa moves the exponent by itself
    let enc := ((e - emin).toNat) * 2 ^ f.mbits + n
    if f.maxEnc < enc then (f.maxEnc, true) else (enc, false)

/-- The sign bit of a floating format. -/
def Fmt.signed (f : Fmt) (neg : Bool) (mag : Nat) : Nat := if neg then mag + 2 ^ (f.mbits + f.ebits) else mag

/-- The magnitude part of infinity. -/
def Fmt.infMag (f : Fmt) : Nat := (2 ^ f.ebits - 1) * 2 ^ f.mbits

/-- A converted element: encoding, clipped, flushed (R173 to R175). -/
structure Conv where
  enc : Nat
  clipped : Bool
  flushed : Bool
deriving DecidableEq, Repr

/-- An integer saturated to an integer format, with whether it had to be. -/
def satInt (f : Fmt) (x : Int) : Int × Bool :=
  if f.qmax < x then (f.qmax, true) else if x < f.qmin then (f.qmin, true) else (x, false)

/-- An exact value rounded to an integer, ties to even. -/
def Fp.rint (neg : Bool) (mag : Nat) (exp : Int) : Int :=
  let n := roundShift .even mag exp
  if neg then -(n : Int) else n

/-- Conversion of an exact value under R173 and R174, with the marks of R175. -/
def convert (f : Fmt) (e5inf : Bool) (x : Fp) : Conv :=
  match f with
  | .int32 | .int16 | .int8 | .uint8 | .int4 | .uint4 =>
    match x with
    | .nan => ⟨0, true, false⟩
    | .inf neg => ⟨ofSigned f.bits (if neg then f.qmin else f.qmax), true, false⟩
    | .fin neg mag exp =>
      let s := satInt f (Fp.rint neg mag exp)
      ⟨ofSigned f.bits s.1, s.2, decide (mag ≠ 0) && !s.2 && s.1 == 0⟩
  | .e8m0 =>
    match x with
    | .fin _ mag exp =>
      if mag = 0 then ⟨0, false, false⟩
      else ⟨(max (-127) (min 127 (flog2 mag exp)) + 127).toNat, false, false⟩
    | _ => ⟨0xFF, true, false⟩
  | .ue4m3 =>
    match x with
    | .nan => ⟨0x7F, true, false⟩
    | .inf _ => ⟨0x7E, true, false⟩
    | .fin _ mag exp =>
      let r := roundMag .even f mag exp
      ⟨r.1, r.2, decide (mag ≠ 0) && !r.2 && r.1 == 0⟩
  | _ =>
    let ovf (neg : Bool) : Nat :=
      if f = .fp32 ∨ f = .fp16 ∨ f = .bf16 ∨ (f = .e5m2 ∧ e5inf) then f.signed neg f.infMag else f.signed neg f.maxEnc
    match x with
    | .nan => ⟨f.nanEnc, true, false⟩
    | .inf neg => ⟨ovf neg, true, false⟩
    | .fin neg mag exp =>
      let r := roundMag .even f mag exp
      if r.2 then ⟨ovf neg, true, false⟩ else ⟨f.signed neg r.1, false, decide (mag ≠ 0) && r.1 == 0⟩

/-- The pairs VCVT and COPY accept (R176, R211). -/
def convPair (a d : Fmt) : Bool := (!a.isScale && !d.isScale) || (a == .fp32 && d.isScale) || (a.isScale && d == .fp32)

/- ---- exact arithmetic and FP32 ---- -/

def Fp.neg : Fp → Fp
  | .nan => .nan
  | .inf n => .inf (!n)
  | .fin n m e => .fin (!n) m e

def Fp.abs : Fp → Fp
  | .nan => .nan
  | .inf _ => .inf false
  | .fin _ m e => .fin false m e

def Fp.isNan : Fp → Bool
  | .nan => true
  | _ => false

def Fp.isFin : Fp → Bool
  | .fin _ _ _ => true
  | _ => false

def Fp.isZero : Fp → Bool
  | .fin _ 0 _ => true
  | _ => false

def Fp.sign : Fp → Bool
  | .nan => false
  | .inf n => n
  | .fin n _ _ => n

/-- A signed integer with a sign for its zero. -/
def signedMag (neg : Bool) (m : Nat) : Int := if neg then -(m : Int) else m

/-- Exact sum; a zero sum of unlike signs is +0 (IEEE 754). -/
def Fp.add : Fp → Fp → Fp
  | .nan, _ => .nan
  | _, .nan => .nan
  | .inf a, .inf b => if a = b then .inf a else .nan
  | .inf a, _ => .inf a
  | _, .inf b => .inf b
  | .fin an am ae, .fin bn bm be =>
    let e := min ae be
    let x := signedMag an (am * 2 ^ (ae - e).toNat) + signedMag bn (bm * 2 ^ (be - e).toNat)
    if x = 0 then .fin (an && bn && am == 0 && bm == 0) 0 0 else .fin (decide (x < 0)) x.natAbs e

def Fp.sub (a b : Fp) : Fp := a.add b.neg

/-- Exact product. -/
def Fp.mul : Fp → Fp → Fp
  | .nan, _ => .nan
  | _, .nan => .nan
  | .inf a, .inf b => .inf (a != b)
  | .inf a, .fin n m _ => if m = 0 then .nan else .inf (a != n)
  | .fin n m _, .inf b => if m = 0 then .nan else .inf (n != b)
  | .fin an am ae, .fin bn bm be => .fin (an != bn) (am * bm) (ae + be)

/-- A quotient to at least 80 significant bits with a sticky lowest bit: rounding it to any shorter precision gives the
rounding of the exact quotient. -/
def Fp.div : Fp → Fp → Fp
  | .nan, _ => .nan
  | _, .nan => .nan
  | .inf _, .inf _ => .nan
  | .inf a, .fin n _ _ => .inf (a != n)
  | .fin n _ _, .inf b => .fin (n != b) 0 0
  | .fin an am ae, .fin bn bm be =>
    if bm = 0 then (if am = 0 then .nan else .inf (an != bn))
    else if am = 0 then .fin (an != bn) 0 0
    else
      let k := 80 + Nat.log2 bm
      let n := am * 2 ^ k
      .fin (an != bn) (2 * (n / bm) + (if n % bm = 0 then 0 else 1)) (ae - be - k - 1)

/-- Integer square root by one bit at a time from the top (structural on the bit count). -/
def isqrtAux (n : Nat) : Nat → Nat → Nat
  | 0, r => r
  | k + 1, r => let c := r + 2 ^ k; isqrtAux n k (if c * c ≤ n then c else r)

def isqrt (n : Nat) : Nat := isqrtAux n (Nat.log2 n / 2 + 1) 0

/-- Square root with a sticky lowest bit. -/
def Fp.sqrt : Fp → Fp
  | .nan => .nan
  | .inf n => if n then .nan else .inf false
  | .fin n m e =>
    if m = 0 then .fin n 0 0
    else if n then .nan
    else
      let m' := if e % 2 = 0 then m * 2 ^ 160 else m * 2 ^ 161
      let e' := if e % 2 = 0 then e - 160 else e - 161
      let r := isqrt m'
      .fin false (2 * r + (if r * r = m' then 0 else 1)) (e' / 2 - 1)

/-- Order of two values; unordered where one is NaN. -/
def Fp.lt : Fp → Fp → Bool
  | .nan, _ => false
  | _, .nan => false
  | .inf a, .inf b => a && !b
  | .inf a, _ => a
  | _, .inf b => !b
  | .fin an am ae, .fin bn bm be =>
    let e := min ae be
    decide (signedMag an (am * 2 ^ (ae - e).toNat) < signedMag bn (bm * 2 ^ (be - e).toNat))

/-- Numeric equality; false where one is NaN. -/
def Fp.eqv (a b : Fp) : Bool := !a.isNan && !b.isNan && !a.lt b && !b.lt a
def Fp.le (a b : Fp) : Bool := a.lt b || a.eqv b

/-- An FP32 word as an exact value and back, rounding once to nearest even. -/
def ofF32 (w : W32) : Fp := Fmt.fp32.decode w.toNat
def toF32 (x : Fp) : W32 := BitVec.ofNat 32 (convert .fp32 false x).enc

def f32add (a b : W32) : W32 := toF32 ((ofF32 a).add (ofF32 b))
def f32sub (a b : W32) : W32 := toF32 ((ofF32 a).sub (ofF32 b))
def f32mul (a b : W32) : W32 := toF32 ((ofF32 a).mul (ofF32 b))
def f32div (a b : W32) : W32 := toF32 ((ofF32 a).div (ofF32 b))
def f32sqrt (a : W32) : W32 := toF32 (ofF32 a).sqrt
def f32fma (a b c : W32) : W32 := toF32 (((ofF32 a).mul (ofF32 b)).add (ofF32 c))
/-- A number as FP32. -/
def f32ofInt (x : Int) : W32 := toF32 (Fp.ofInt x)

def f32nan : W32 := 0x7FC00000
def f32negInf : W32 := 0xFF800000
def f32posInf : W32 := 0x7F800000
def f32one : W32 := 0x3F800000

/-- The larger of two values; the lower operand position wins an equality, NaN wins over numbers. -/
def Fp.max (a b : Fp) : Fp := if a.isNan then a else if b.isNan then b else if a.lt b then b else a
def Fp.min (a b : Fp) : Fp := if a.isNan then a else if b.isNan then b else if b.lt a then b else a

/- ---- elements in memory (R171) ---- -/

/-- The bytes of a number, lowest first. -/
def leBytes (n : Nat) : Nat → List Byte
  | 0 => []
  | k + 1 => BitVec.ofNat 8 n :: leBytes (n / 256) k

/-- The number that bytes hold, lowest first. -/
def ofLe : List Byte → Nat
  | [] => 0
  | b :: r => b.toNat + 256 * ofLe r

/-- The encoding of the element that starts at half byte h of a byte run (readers ignore bits [7:6] of a 6-bit element). -/
def elemAt (f : Fmt) (bs : List Byte) (h : Nat) : Nat :=
  match f.nibbles with
  | 1 => let b := (bs.getD (h / 2) 0).toNat; if h % 2 = 0 then b % 16 else b / 16
  | n => ofLe ((bs.drop (h / 2)).take (n / 2)) % 2 ^ f.bits

/-- Pack element encodings contiguously (R103): 4-bit elements two to a byte, the lower-numbered in bits [3:0]. -/
def packElems (f : Fmt) (es : List Nat) : List Byte :=
  match f.nibbles with
  | 1 => pairUp es
  | n => es.flatMap (fun e => leBytes e (n / 2))
where
  pairUp : List Nat → List Byte
    | [] => []
    | [a] => [BitVec.ofNat 8 (a % 16)]
    | a :: b :: r => BitVec.ofNat 8 (a % 16 + 16 * (b % 16)) :: pairUp r

/-- The n elements of a packed run. -/
def unpackElems (f : Fmt) (bs : List Byte) (n : Nat) : List Nat :=
  (List.range n).map fun i => elemAt f bs (i * f.nibbles)

/- ---- derived scales (R195, R196) ---- -/

/-- The largest finite value of a floating format. -/
def Fmt.fmax (f : Fmt) : Fp := f.decode f.maxEnc

/-- emax of R195. -/
def Fmt.emax : Fmt → Int
  | .e5m2 => 15 | .e4m3 => 8 | .e3m2 => 4 | _ => 2

/-- A derived scale: its encoding, its value, whether the block was degenerate or nonfinite, and the zero point. -/
structure Scale where
  enc : Nat
  val : Fp
  degenerate : Bool
  bad : Bool
  zp : Int := 0
deriving DecidableEq, Repr

/-- The UE4M3 or FP32 value at or above an exact positive value. -/
def roundUpEnc (f : Fmt) (x : Fp) : Nat :=
  match x with
  | .fin _ mag exp => (roundMag .up f mag exp).1
  | .inf _ => if f = .fp32 then f.infMag else f.maxEnc
  | .nan => f.nanEnc

/-- The symmetric scale of a block (R195, R196) for element format f and scale format sf. -/
def deriveSym (f sf : Fmt) (xs : List Fp) : Scale :=
  if xs.any (fun x => !x.isFin) then { enc := sf.nanEnc, val := .nan, degenerate := false, bad := true }
  else
    let amax := xs.foldl (fun a x => Fp.max a x.abs) Fp.zero
    if amax.isZero then
      let e := (match sf with | .e8m0 => 0x7F | .ue4m3 => 0x38 | _ => 0x3F800000)
      { enc := e, val := .one, degenerate := true, bad := false }
    else
      let e := match sf with
        | .e8m0 => (match amax with
          | .fin _ m x => (max (-127) (min 127 (flog2 m x - f.emax)) + 127).toNat
          | _ => 0xFF)
        | .ue4m3 => max 1 (roundUpEnc .ue4m3 (amax.div f.fmax))
        | _ => roundUpEnc .fp32 (amax.div (Fp.ofInt f.qmax))
      { enc := e, val := sf.decode e, degenerate := false, bad := false }

/-- The asymmetric scale of a block of an integer format (R195, R196). -/
def deriveAsym (f : Fmt) (xs : List Fp) : Scale :=
  match xs with
  | [] => { enc := 0x3F800000, val := .one, degenerate := true, bad := false }
  | x0 :: _ =>
    if xs.any (fun x => !x.isFin) then { enc := Fmt.fp32.nanEnc, val := .nan, degenerate := false, bad := true }
    else
      let hi := xs.foldl Fp.max x0
      let lo := xs.foldl Fp.min x0
      let clampZp (v : Fp) : Int := match v with
        | .fin n m e => (satInt f (Fp.rint n m e)).1
        | _ => 0
      if hi.eqv lo then
        { enc := 0x3F800000, val := .one, degenerate := true, bad := false, zp := clampZp lo.neg }
      else
        let e := roundUpEnc .fp32 ((hi.sub lo).div (Fp.ofInt (f.qmax - f.qmin)))
        let x := Fmt.fp32.decode e
        { enc := e, val := x, degenerate := false, bad := false,
          zp := clampZp ((Fp.ofInt f.qmin).sub (lo.div x)) }

/-- One element under a derived scale: x / X, or x / X + zp for an integer output (R195), marked under R175; every element
of a block with a NaN scale counts as clipped (R196). -/
def scaleElem (f : Fmt) (e5inf : Bool) (sc : Scale) (x : Fp) : Conv :=
  let q := x.div sc.val
  let c := convert f e5inf (if f.isInt then q.add (Fp.ofInt sc.zp) else q)
  if sc.bad then { c with clipped := true, flushed := false }
  else if f.isInt then
    { c with flushed := x.isFin && !x.isZero && !c.clipped && c.enc == ofSigned f.bits sc.zp }
  else { c with flushed := x.isFin && !x.isZero && !c.clipped && (c.enc % 2 ^ (f.mbits + f.ebits) == 0) }

end Sys2Proof.Machine
end

