-- ==== Sys2Proof/Machine/State.lean ====
section
/-! DEFINITION. The state of the block: every register, queue, buffer, counter and pin the spec gives the module, and the
queue of commands that wait. Sparse arrays are lists of (key, value) with rising keys and no entry equal to the default. -/

namespace Sys2Proof.Machine

/-- Why the block stops. No behaviour of the spec ends in a fault: the type has no raiser except where NOTES.md ## Stops
says so. -/
inductive Fault where
  /-- Raised by no meaning (kept so that the type is inhabited); safe. -/
  | none
deriving DecidableEq, Repr

/-- Why a command has no meaning. -/
inductive Refusal where
  /-- Raised by an arm of exec for a command not reached yet; safe. -/
  | notModelled (mnemonic : String)
  /-- Raised by the boundary-scan row for an instruction register value to which the spec gives no effect (R486 names
  Hjelros test instructions without saying what they do); safe. -/
  | testInstruction
deriving DecidableEq, Repr

/-- What the block sends outward, in order: replies to host reads, posted writes to host memory, MSI-X messages, BAR4
completions, reads of host memory, flits, frames to another courier of this module, packets that wait for no flit (VC3), sideband messages,
voltage requests and boundary-scan replies. -/
inductive Out where
  | regRead (fn off size value : Nat)
  | hostWrite (fn addr : Nat) (bytes : List Byte)
  | msix (port fn vector : Nat)
  | bar4Data (port off : Nat) (bytes : List Byte) (poisoned : Bool)
  | bar4Ur (port off : Nat)
  | hostRead (fn addr len : Nat)
  | flit (port : Nat) (f : Flit)
  | trainFlit (port module lepoch : Nat)
  | pldm (kind : Nat) (data : List Nat)
  | mctp (kind value : Nat)
  | avs (setpoint : Nat)
  | jtag (ir : Nat)
  | persistWrite (copy seq : Nat)
  | linkDrop (port : Nat)
deriving DecidableEq, Repr

/- ---- tesserae (chapters 04, 05) ---- -/

/-- What a job does with its segments: those of the X-port units (R115, R117), then those of the A port. -/
inductive JobKind where
  | vld (r : Nat)
  | vst
  | pushX (q : Nat)
  | popX
  | xpose (esize addr2 : Nat) (stride2 : Int)
  | ldtile (tile pc : Nat)
  | drain (rows : List (List W32)) (accInt : Bool) (mode : Nat) (fmt : Fmt) (paddr daddr : Nat) (dstride : Int)
      (stats : Bool) (phase : Nat)
  | pushA (q : Nat)
  | popA
  | store
  | load
deriving DecidableEq, Repr

/-- A job in progress: segments still to read (index in operand order, segment number), segments read, segments still to
write (first cycle in which it may be presented, segment number, bytes), the first cycle of presentation, and the PC of its
instruction. -/
structure Job where
  id     : Nat
  kind   : JobKind
  start  : Nat
  issue  : Nat := 0
  pc     : Nat := 0
  reads  : List (Nat × Nat) := []
  got    : List (Nat × List Byte) := []
  writes : List (Nat × Nat × List Byte) := []
deriving DecidableEq, Repr

/-- A pass in progress (R105, R106, R151): `next` is the next streamed row to read. -/
structure Pass where
  issue  : Nat
  pc     : Nat
  per    : Nat
  m      : Nat
  next   : Nat := 0
  saddr  : Nat
  sstride : Int
  row    : Nat
  bank   : Nat
  tile   : Nat
  clear  : Bool
  sfmt   : Fmt
  k      : Nat
  g      : Nat
  sscale : Option Nat
  scales : List Byte := []
deriving DecidableEq, Repr

/-- A tile buffer (R107, R149). -/
structure Tile where
  holds  : Bool := false
  fmt    : Fmt := .fp32
  sparse : Nat := 0
  tg     : Nat := 0
  data   : List Byte := []
  mdata  : List Byte := []
  scale  : List Byte := []
  loading : Bool := false
  readyAt : Nat := 0
  useThrough : Nat := 0
deriving DecidableEq, Repr

/-- An entry of a data queue (R126, R127): the jobs and transfers it waits for before it is visible, and the cycle from
which it was visible. -/
structure QEntry where
  bytes   : List Byte
  waits   : List Nat
  visible : Nat
deriving DecidableEq, Repr

/-- An outstanding A-stream transfer (R122, R124, R156). -/
structure Xfer where
  id     : Nat
  load   : Bool
  dsel   : Nat
  coord  : List Nat
  rows   : Nat
  cols   : Nat
  bytes  : Nat
  sp     : Nat
  spstride : Int
  data   : List (List Byte) := []
deriving DecidableEq, Repr

/-- Tessera states (R132). -/
inductive TessSt where
  | idle | running | halted | clearing
deriving DecidableEq, Repr

/-- The item a tessera runs. -/
structure ItemRef where
  cmd    : CmdId
  start  : Nat
  linear : Nat
deriving DecidableEq, Repr

/-- One tessera (R100, R129, R135). `aJobs` are the A-stream's accesses at the A port, in order of issue (R115); `failed` is the
command on whose item it halted, while LOADs are in flight (R164); `snapWait` are its pending bits at the halt while its state is
still to be copied (R560). -/
structure Tess where
  st      : TessSt := .idle
  context : Nat := 0
  lastCtx : Option Nat := none
  mustClear : Bool := true
  loadedFor : Option (CmdId × Nat) := none
  item    : Option ItemRef := none
  v       : List (Nat × List W32) := []
  sreg    : List (Nat × W32) := []
  areg    : List (Nat × W32) := []
  spad    : List (Nat × List Byte) := []
  acc     : List (Nat × List W32) := []
  accInt  : List (Nat × Bool) := []
  tile0   : Tile := {}
  tile1   : Tile := {}
  queues  : List (Nat × List QEntry) := []
  ximem   : List (Nat × W128) := []
  aimem   : List (Nat × W128) := []
  qdir    : Nat := 0
  xpc     : Nat := 0
  apc     : Nat := 0
  xEnded  : Bool := false
  aEnded  : Bool := false
  cycle   : Nat := 0
  xNext   : Nat := 0
  aNext   : Nat := 0
  ready   : List (Nat × Nat) := []
  vPend   : List Nat := []
  aReady  : List (Nat × Nat) := []
  sfuFree : Nat := 0
  topkFree : Nat := 0
  arrayFree : Nat := 0
  drainFree : Nat := 0
  lsuFree : Nat := 0
  loaderFree : Nat := 0
  bankBusy : List (Nat × Nat) := []
  bankDrain : List (Nat × Nat) := []
  loader  : Option Job := none
  drainJ  : Option Job := none
  lsu     : Option Job := none
  passes  : List Pass := []
  xfers   : List Xfer := []
  nextId  : Nat := 1
  xWait   : Option Nat := none
  aWait   : Option Nat := none
  xRet    : Nat := 0
  aRet    : Nat := 0
  xBudget : Option Nat := none
  aBudget : Option Nat := none
  aJobs   : List Job := []
  failed  : Option Cmd := none
  snapWait : Option (Nat × Nat) := none
deriving DecidableEq, Repr

/-- A halt record (R165). -/
structure HaltRec where
  valid   : Bool := false
  second  : Bool := false
  ovr     : Bool := false
  stream  : Bool := false
  reason  : Nat := 0
  pc      : Nat := 0
  context : Nat := 0
  queue   : Nat := 0
  seq     : Nat := 0
  oEnded  : Bool := false
  oWaiting : Bool := false
  oPc     : Nat := 0
  item    : Nat := 0
  word    : W128 := 0
  xret    : Nat := 0
  aret    : Nat := 0
  cycles  : Nat := 0
deriving DecidableEq, Repr

/-- The registers of a compute die that its chapters give (R167, R231, R259, R559). -/
structure Die where
  budEnable : Bool := false
  budCtx    : Nat := 0
  budX      : Nat := 0xFFFFFFFF
  budA      : Nat := 0xFFFFFFFF
  groups    : Nat := 0
  zgroups   : Nat := 0
  npasses   : Nat := 0
  spasses   : Nat := 0
  mrows     : Nat := 0
  mitems    : Nat := 0
  apBlocks  : Nat := 0
  apSkipped : Nat := 0
  apNan     : Nat := 0
  snapArmed : Bool := false
  snapDone  : Bool := false
  snapFailed : Bool := false
  snapCtx   : Nat := 0
  snapTess  : Nat := 0
  snapBase  : Nat := 0
  atherm    : Nat := 16
  apower    : Nat := 16
  watts     : Nat := 0
deriving DecidableEq, Repr

/-- An attention pipeline (R234, R259). -/
structure Pipe where
  running : Bool := false
  context : Nat := 0
  opcode  : Nat := 0
  cmd     : Option CmdId := none
  unit    : Nat := 0
deriving DecidableEq, Repr

/- ---- stacks (chapters 10, 11, 18, 19) ---- -/

/-- A write held in a base die (R520): a host write, or a remote write with its requester, source link die and tag. -/
inductive Holder where
  | host (port : Nat)
  | remote (ld smod tag pepoch : Nat)
deriving DecidableEq, Repr

/-- One of them; `behind` are the commands whose writes to that array die were held already as it arrived (R521). -/
structure HeldWrite where
  stack : Nat
  adie  : Nat
  pa    : Nat
  bytes : List Byte
  who   : Holder
  behind : List CmdId := []
deriving DecidableEq, Repr

/-- A remap table entry (R499). -/
structure Remap where
  spare : Nat
  bank  : Nat
  row   : Nat
  cause : Nat
deriving DecidableEq, Repr

/-- One stack: docent counters (R295), page pool (R308), remaps (R499, R500; `dirty`: one was applied after the running save began). `fatal` is SB_CACHE_STATUS.FATAL. -/
structure Stack where
  tasks   : Nat := 0
  busy    : Nat := 0
  shared  : Nat := 0
  skipped : Nat := 0
  frames  : Nat := 0
  base    : Nat := 0
  sidemax : Nat := 0
  fatal   : Bool := false
  reserved : Nat := 0
  mapped  : Nat := 0
  free    : Nat := 0
  descCnt : Nat := 0
  tblUnits : Nat := 0
  remaps  : List (Nat × Option Remap) := []
  pending : List (Nat × Nat × Nat) := []
  refuse  : Nat := 0
  saving  : Bool := false
  unsaved : Bool := false
  dirty : Bool := false
  badRows : List (Nat × Nat) := []
  program : List (Nat × Nat) := []
deriving DecidableEq, Repr

/- ---- couriers (chapter 12) ---- -/

/-- Ledger states (R339). -/
inductive LSt where
  | free | reserved | sent | accepted | doneP | doneC | doneU
deriving DecidableEq, Repr

/-- A ledger entry (R339, R341). -/
structure LEntry where
  st     : LSt := .free
  gen    : Nat := 0
  ctx    : Nat := 0
  handle : Nat := 0
  copyNo : Nat := 0
  dest   : Nat := 0
  res    : List Byte := []
deriving DecidableEq, Repr

/-- Handle states (R334). -/
inductive HSt where
  | free | sending | out | orphan
deriving DecidableEq, Repr

/-- A handle with what its DISPATCH recorded (R351). -/
structure Handle where
  st   : HSt := .free
  t    : Nat := 0
  k    : Nat := 0
  rout : Nat := 0
  rfmt : Nat := 0
  dispatched : Nat := 0
deriving DecidableEq, Repr

/-- A copy in a bin (R346, R358): its frame, its bin entry number, the format and bytes of the RESULT sent for it, whether a
RESULT_ACK came, and whether its origin was unreachable when its answer was due (R348, R354). -/
structure BinCopy where
  ref  : Nat
  frame : Frame
  sent : Option (Nat × List Byte) := none
  acked : Bool := false
  gone : Bool := false
deriving DecidableEq, Repr

/-- A bin set (R346); `used` once a step was opened on it that its EXPERT_RETURN has not ended. -/
structure BinSet where
  used   : Bool := false
  step   : Nat := 0
  gathered : Bool := false
  copies : List BinCopy := []
deriving DecidableEq, Repr

/-- A slot: its newest opened step with CAP and BROW, whether that step is open, and its two bin sets (R343, R346). -/
structure Slot where
  newest : Option (Nat × Nat × Nat) := none
  isOpen : Bool := false
  even   : BinSet := {}
  odd    : BinSet := {}
deriving DecidableEq, Repr

/-- A courier's counters, areas and held copies with their slots (R344, R360), its link die's packet counters and fences
(R428, R431) and the packets that wait for a route (R418). -/
structure Courier where
  sent : Nat := 0
  processed : Nat := 0
  capacity : Nat := 0
  unreach : Nat := 0
  orphaned : Nat := 0
  stale : Nat := 0
  received : Nat := 0
  discarded : Nat := 0
  used : Nat := 0
  resUsed : Nat := 0
  held : List (Nat × Frame) := []
  nextRef : Nat := 1
  pkStale : Nat := 0
  pkHop : Nat := 0
  pkLost : Nat := 0
  pkFenced : Nat := 0
  pkBad : Nat := 0
  fences : List (Nat × Nat × Nat) := []
  waiting : List Packet := []
deriving DecidableEq, Repr

/- ---- links (chapter 15) ---- -/

/-- Port states (R430). -/
inductive PortSt where
  | down | training | up
deriving DecidableEq, Repr

/-- A Woson port (R430); `fails` are the times of codewords the FEC could not correct in the last millisecond (R414). -/
structure Port where
  st : PortSt := .down
  nbr : Nat := 0
  nport : Nat := 0
  feccor : Nat := 0
  fecunc : Nat := 0
  crcerr : Nat := 0
  replay : Nat := 0
  stale : Nat := 0
  trains : Nat := 0
  fails : List Nat := []
deriving DecidableEq, Repr

/-- A link group (R412 to R415): link epoch, next SEQ to send, the next port in turn, the replay buffer (with the port each
flit last left on), how often it was replayed without progress, flits waiting for credit, next expected SEQ, flits held
ahead, credits held per VC, payload bytes of the packet being received per VC. -/
structure Group where
  lepoch : Nat := 0
  txSeq  : Nat := 0
  turn   : Nat := 0
  replay : List (Nat × Flit) := []
  stuck  : Nat := 0
  wait   : List Flit := []
  rxSeq  : Nat := 0
  ahead  : List Flit := []
  naking : Bool := false
  credits : List (Nat × Nat) := []
  asm    : List (Nat × List Byte) := []
deriving DecidableEq, Repr

/-- A peer module (R427, R433). -/
structure Peer where
  reachable : Bool := false
  marks : Nat := 0
  epoch : Nat := 0
  joining : Bool := false
  rst : Bool := true
deriving DecidableEq, Repr

/-- What a request sent to a peer was (R425). -/
inductive ReqKind where
  | read (pa granules : Nat) | write (pa granules : Nat) | signal
deriving DecidableEq, Repr

/-- A request awaiting its answer (R419, R422); `site` is the engine that made it (R385). -/
structure Req where
  tag  : Nat
  peer : Nat
  kind : ReqKind
  cmd  : CmdId
  site : Nat := 0
deriving DecidableEq, Repr

/- ---- host, boot, HD1 (chapters 16, 17, 19 to 21) ---- -/

/-- A function of a port (R437, R453, R454): what the host has set in its configuration space, and host addresses that the host
has translated for it (R447). -/
structure Func where
  cfg : HostCfg := {}
  busMaster : Bool := false
  msixOn : Bool := false
  unmasked : List Nat := []
  pend : List Nat := []
  d3 : Bool := false
  ats : List (Nat × Nat) := []
deriving DecidableEq, Repr

/-- A host port (R438, R439, R443, R459, R483); `mbWait` counts the steps until a busy mailbox answers. -/
structure HPort where
  linkup : Bool := false
  flitMode : Bool := false
  degraded : Bool := false
  rate : Nat := 0
  width : Nat := 0
  numVf : Nat := 0
  bar4 : Nat := 0
  badsize : Nat := 0
  dbdrop : Nat := 0
  unpop : Nat := 0
  poisoned : Nat := 0
  hosterr : Nat := 0
  msixdrop : Nat := 0
  lostrec : Nat := 0
  flrrec : Nat := 0
  qcfg : Nat := 0
  mbOp : Nat := 0
  mbLen : Nat := 0
  mbBusy : Bool := false
  mbWait : Nat := 0
  mbDone : Bool := false
  mbResult : Nat := 0
  mbRlen : Nat := 0
  mbBuf : List (Nat × Byte) := []
deriving DecidableEq, Repr

/-- An overlay (R474); sparse tables hold raw fields. -/
structure Overlay where
  namesPlan : Bool := false
  plan : Nat := 0
  split : Nat := 0
  stripeAll : Bool := false
  sidemax : Nat := 0
  base : Nat := 0
  frames : Nat := 0
  resMib : Nat := 0
  binMib : Nat := 0
  totalVf0 : Nat := 0
  totalVf1 : Nat := 0
  tblUnits : Nat := 0
  vectors : List (Nat × Nat) := []
  ctx : List (Nat × Nat × Nat × Nat × Nat) := []
  expert : List (Nat × Nat) := []
deriving DecidableEq, Repr

/-- Boot states (R470). -/
inductive BootSt where
  | rom | flash | verify | load | bringup | ready | recovery
deriving DecidableEq, Repr

/-- Why the boot waits (R518), or that a thermal shutdown holds the dies (R517). -/
inductive BootWait where
  | none | logicCold | arrayCold | coolDown | power
deriving DecidableEq, Repr

/-- Boot status (R460, R470, R472); `burning`: fuses are still to be burned (R471, R472). -/
structure Boot where
  st : BootSt := .rom
  wait : BootWait := .power
  reject : Nat := 0
  slot : Nat := 0
  otherOk : Bool := false
  slow : Bool := false
  foreign : Bool := false
  persistNew : Bool := false
  timeMs : Nat := 0
  straps : Nat := 0
  svn : Nat := 0
  counter : Nat := 0
  revoked : Nat := 0
  dbgFuse : Bool := false
  build : Nat := 0
  floor : Nat := 0
  digest : List Byte := []
  generation : Nat := 0
  burning : Bool := false
deriving DecidableEq, Repr

/-- Who holds the firmware update (R484, R485). -/
inductive Holder484 where
  | mailbox (port : Nat)
  | pldm
deriving DecidableEq, Repr

/-- A running update (R484). `verified` and `applied` serve the PLDM sequence (R485). -/
structure Update where
  who : Holder484
  len : Nat
  next : Nat := 0
  verified : Bool := false
deriving DecidableEq, Repr

/-- Sensors of one die (R513 to R515, R522, R524). Temperatures in 1/8 degree; `st` is STATE or BAND. -/
structure Therm where
  readings : List Int := []
  failed : List Nat := []
  degraded : Bool := false
  temp : Int := 200
  st : Nat := 0
deriving DecidableEq, Repr

/-- A supply rail (R531), with the lowest voltage of the dip that runs. -/
structure Rail where
  mv : Nat := 0
  warn : Bool := false
  least : Nat := 0
  low : Bool := false
  crossedReset : Bool := false
  held : Bool := false
deriving DecidableEq, Repr

/-- A record of the patina history (R536). -/
structure PatinaRec where
  hours : Nat
  kind : Nat
  g : Nat
  k : Nat
  margin : Int
  die : Nat
  monitor : Nat
  temp : Int
  vset : Nat
deriving DecidableEq, Repr

/-- The patina planner (R534 to R536): `ring` by slot, `sub` ticks of the hour that runs, `measured` since power-on. -/
structure Patina where
  g : Nat := 0
  k : Nat := 0
  exhausted : Bool := false
  pendingK : Bool := false
  margin : Int := 0
  hours : Nat := 0
  count : Nat := 0
  nextSlot : Nat := 0
  ring : List (Nat × PatinaRec) := []
  sub : Nat := 0
  measured : Bool := false
deriving DecidableEq, Repr

/-- The time and event registers of one die (R552, R553); `waiting` are records not yet sent to HD1. -/
structure EvDie where
  tick : Nat := 0
  seq : Nat := 0
  drop : Nat := 0
  snap : Nat := 0
  waiting : List (Nat × Nat × Nat × Nat × Nat) := []
deriving DecidableEq, Repr

/-- A stored event record (R554). -/
structure EvRec where
  tick : Nat
  seq : Nat
  code : Nat
  src : Nat
  arg0 : Nat
  arg1 : Nat
  boot : Nat
  num : Nat
deriving DecidableEq, Repr

/-- A crossing's status (R66) and which side of a resynchronisation has asked (R61). -/
structure Cross where
  overrun : Bool := false
  disagree : Bool := false
  near : Bool := false
  far : Bool := false
  resyncs : Nat := 0
  overruns : Nat := 0
deriving DecidableEq, Repr

/-- The ECC registers of a block (R508). -/
structure Ecc where
  corr : Nat := 0
  uncorr : Nat := 0
  poison : Nat := 0
  retry : Nat := 0
  lastValid : Bool := false
  last : Nat := 0
deriving DecidableEq, Repr

/-- Package low-power states (R548). -/
inductive Pkg where
  | active | entering | s2
deriving DecidableEq, Repr

/-- The whole state. -/
structure State where
  pending : List Instr := []
  out : List Out := []
  clock : Nat := 0
  fresh : Nat := 1
  -- the part and its configuration
  grade : Nat := 0
  longLife : Bool := false
  stepping : Nat := 0
  board : Option Board := none
  flash : List (Nat × Byte) := []
  boot : Boot := {}
  overlays : List (Nat × Option Overlay) := []
  active : Nat := 0
  ovlKept : Overlay := {}
  fallback : Bool := false
  ovlBusy : Option Nat := none
  ovlRefuse : Nat := 0
  memSplit : Nat := 0
  stripeAll : Bool := false
  resMib : Nat := 0
  binMib : Nat := 0
  totalVf : List (Nat × Nat) := []
  vectors : List (Nat × Nat) := []
  expert : List (Nat × Nat) := []
  planReq : Nat := 0
  planEff : Nat := 0
  planFromOverlay : Bool := false
  relocking : Bool := false
  quiesce : Bool := false
  applyReq : Bool := false
  groupTab : List (Nat × Nat) := []
  routeTab : List (Nat × Nat) := []
  exportTab : List (Nat × Nat) := []
  update : Option Update := none
  persistUse : Nat := 0
  persistSeq : Nat := 0
  persistBusy : Bool := false
  persistAgain : Bool := false
  resetWanted : Option Nat := none
  resetCause : Nat := 0
  resetDie : Nat := 0
  resetCount : Nat := 0
  -- BAR0 capture state per function (R15, R308, R555)
  pairRead : List (Nat × Option Nat) := []
  pairWrite : List (Nat × Option Nat) := []
  cacheCap : List (Nat × Option (Nat × Nat × Bool × Bool)) := []
  slotCap : List (Nat × Option (Nat × List Nat)) := []
  -- contexts, queues, commands
  ctxs : List (Nat × Ctx) := []
  queues : List (Nat × Queue) := []
  descs : List (Nat × Option Desc) := []
  allocs : List (Nat × Option AllocRec) := []
  sems : List (Nat × W32) := []
  cmds : List Cmd := []
  accounts : List (Nat × Int) := []
  lastCtx : List (Nat × Nat) := []
  tlb : List Tlb := []
  -- memory and die caches; writes held in base dies (R520), doorbells and BAR4 reads that wait for them (R392); SRAM words of
  -- tesserae that the next instruction finds uncorrectable (R490)
  mem : Mem := {}
  dcache : List (Nat × Option (List Byte)) := []
  held : List HeldWrite := []
  bells : List (Nat × Nat × Nat × Nat) := []
  reads4 : List (Nat × Nat × Nat) := []
  hits : List Nat := []
  -- engines
  tess : List (Nat × Tess) := []
  halts : List (Nat × HaltRec) := []
  dies : List (Nat × Die) := []
  pipes : List (Nat × Pipe) := []
  stackTab : List (Nat × Stack) := []
  pages : List PageEntry := []
  lastOwner : List (Nat × Option Nat) := []
  -- couriers and links
  ledger : List (Nat × LEntry) := []
  handles : List (Nat × Handle) := []
  slots : List (Nat × Slot) := []
  couriers : List (Nat × Courier) := []
  ports : List (Nat × Port) := []
  groups : List (Nat × Group) := []
  peers : List (Nat × Peer) := []
  reqs : List Req := []
  nextTag : Nat := 0
  inbox : List (Nat × Packet) := []
  frames : List (Nat × Nat × Frame) := []
  -- host
  funcs : List (Nat × Func) := []
  hports : List (Nat × HPort) := []
  -- HD1
  therm : List (Nat × Therm) := []
  atherm : List (Nat × Therm) := []
  thermAlert : Bool := false
  rails : List (Nat × Rail) := []
  dips : Nat := 0
  asupply : Nat := 16
  packageW : Nat := 0
  cdMaxW : Nat := 0
  refreshOp : List (Nat × Nat) := []
  acts : List (Nat × Nat) := []
  patina : Patina := {}
  vreq : Option Nat := none
  lpCtl : Nat := 7
  pkg : Pkg := .active
  s2Count : Nat := 0
  offDom : List Nat := []
  evd : List (Nat × EvDie) := []
  evlog : List (Nat × Option EvRec) := []
  evTotal : Nat := 0
  snapBusy : List Nat := []
  cross : List (Nat × Cross) := []
  ecc : List (Nat × Ecc) := []
  i3cAddr : Nat := 0
  eid : Nat := 0
  eventReceiver : Option Nat := none
  sensors : List (Nat × Int) := []
  jtagIr : Nat := 0
  stalled : Bool := false
deriving DecidableEq, Repr

/-- Memory as power-on leaves it: every byte undefined (R549). -/
def Mem.reset : Mem := { undef := [{ lo := 0, hi := 2 ^ 43, stamp := 0 }] }

/-- The state after reset: the rails are down and every die is held in power-on reset (R49), GL_BOOT.STATE is ROM, and every
register is at the Reset column of its table. Values the spec takes from straps, image or part stand at the values of
log entry 4 until POWER_ON and RAILS_STABLE bring the board's. -/
def State.reset : State := { mem := Mem.reset }

end Sys2Proof.Machine
end

