-- ==== Sys2Proof/Machine/Ops.lean ====
section
/-! DEFINITION. The named operations over the state that every family uses: sparse maps, the physical address map (spec
10, R261 to R265), memory with its error marks (14, 18), die caches (R388 to R390), events (21) and output. -/

namespace Sys2Proof.Machine

/-- What a meaning answers. -/
abbrev Ans := Host.Outcome State Fault Refusal

/- ---- sparse maps: rising keys, no entry equal to the default ---- -/

/-- The value of a key. -/
def Assoc.get {α : Type} (d : α) : List (Nat × α) → Nat → α
  | [], _ => d
  | (k, v) :: r, n => if k = n then v else Assoc.get d r n

/-- A list without a key. -/
def Assoc.erase {α : Type} : List (Nat × α) → Nat → List (Nat × α)
  | [], _ => []
  | (k, v) :: r, n => if k = n then Assoc.erase r n else (k, v) :: Assoc.erase r n

/-- A list with an entry put in its place. -/
def Assoc.put {α : Type} : List (Nat × α) → Nat → α → List (Nat × α)
  | [], n, x => [(n, x)]
  | (k, v) :: r, n, x => if n < k then (n, x) :: (k, v) :: r else (k, v) :: Assoc.put r n x

/-- A list with a key set; the default is not listed. -/
def Assoc.set {α : Type} [DecidableEq α] (d : α) (l : List (Nat × α)) (n : Nat) (x : α) : List (Nat × α) :=
  if x = d then Assoc.erase l n else Assoc.put (Assoc.erase l n) n x

/-- Keys rise. -/
def Assoc.sorted {α : Type} : List (Nat × α) → Bool
  | [] => true
  | [_] => true
  | a :: b :: r => decide (a.1 < b.1) && Assoc.sorted (b :: r)

/-- One of the contexts (R68). -/
def State.ctx (s : State) (k : Nat) : Ctx := Assoc.get {} s.ctxs k
/-- Change one of the contexts (R68). -/
def State.modCtx (s : State) (k : Nat) (f : Ctx → Ctx) : State :=
  { s with ctxs := Assoc.set {} s.ctxs k (f (Assoc.get {} s.ctxs k)) }

/-- One of the queues (R448), by 16 * context + queue. -/
def State.queue (s : State) (k : Nat) : Queue := Assoc.get {} s.queues k
/-- Change one of the queues (R448), by 16 * context + queue. -/
def State.modQueue (s : State) (k : Nat) (f : Queue → Queue) : State :=
  { s with queues := Assoc.set {} s.queues k (f (Assoc.get {} s.queues k)) }

/-- One of the descriptor slots (R198), by 4096 * context + slot. -/
def State.desc (s : State) (k : Nat) : Option Desc := Assoc.get none s.descs k
/-- Change one of the descriptor slots (R198), by 4096 * context + slot. -/
def State.modDesc (s : State) (k : Nat) (f : Option Desc → Option Desc) : State :=
  { s with descs := Assoc.set none s.descs k (f (Assoc.get none s.descs k)) }

/-- One of the allocation records (R204), by 1024 * context + index. -/
def State.alloc (s : State) (k : Nat) : Option AllocRec := Assoc.get none s.allocs k
/-- Change one of the allocation records (R204), by 1024 * context + index. -/
def State.modAlloc (s : State) (k : Nat) (f : Option AllocRec → Option AllocRec) : State :=
  { s with allocs := Assoc.set none s.allocs k (f (Assoc.get none s.allocs k)) }

/-- One of the semaphores, by module-wide number (R88). -/
def State.sem (s : State) (k : Nat) : W32 := Assoc.get 0 s.sems k
/-- Change one of the semaphores, by module-wide number (R88). -/
def State.modSem (s : State) (k : Nat) (f : W32 → W32) : State :=
  { s with sems := Assoc.set 0 s.sems k (f (Assoc.get 0 s.sems k)) }

/-- One of the share accounts (R363) in sixteenths of ns, by 256 * engine key + context. -/
def State.account (s : State) (k : Nat) : Int := Assoc.get 0 s.accounts k
/-- Change one of the share accounts (R363) in sixteenths of ns, by 256 * engine key + context. -/
def State.modAccount (s : State) (k : Nat) (f : Int → Int) : State :=
  { s with accounts := Assoc.set 0 s.accounts k (f (Assoc.get 0 s.accounts k)) }

/-- One of the tesserae, by 128 * die + logical number. -/
def State.tessera (s : State) (k : Nat) : Tess := Assoc.get {} s.tess k
/-- Change one of the tesserae, by 128 * die + logical number. -/
def State.modTessera (s : State) (k : Nat) (f : Tess → Tess) : State :=
  { s with tess := Assoc.set {} s.tess k (f (Assoc.get {} s.tess k)) }

/-- One of the halt records (R165), by 128 * die + logical number. -/
def State.halt (s : State) (k : Nat) : HaltRec := Assoc.get {} s.halts k
/-- Change one of the halt records (R165), by 128 * die + logical number. -/
def State.modHalt (s : State) (k : Nat) (f : HaltRec → HaltRec) : State :=
  { s with halts := Assoc.set {} s.halts k (f (Assoc.get {} s.halts k)) }

/-- One of the compute-die registers. -/
def State.die (s : State) (k : Nat) : Die := Assoc.get {} s.dies k
/-- Change one of the compute-die registers. -/
def State.modDie (s : State) (k : Nat) (f : Die → Die) : State :=
  { s with dies := Assoc.set {} s.dies k (f (Assoc.get {} s.dies k)) }

/-- One of the attention pipelines (R234), by 16 * die + number. -/
def State.pipe (s : State) (k : Nat) : Pipe := Assoc.get {} s.pipes k
/-- Change one of the attention pipelines (R234), by 16 * die + number. -/
def State.modPipe (s : State) (k : Nat) (f : Pipe → Pipe) : State :=
  { s with pipes := Assoc.set {} s.pipes k (f (Assoc.get {} s.pipes k)) }

/-- One of the stacks. -/
def State.stack (s : State) (k : Nat) : Stack := Assoc.get {} s.stackTab k
/-- Change one of the stacks. -/
def State.modStack (s : State) (k : Nat) (f : Stack → Stack) : State :=
  { s with stackTab := Assoc.set {} s.stackTab k (f (Assoc.get {} s.stackTab k)) }

/-- One of the ledger entries (R339), by 65,536 * link die + index. -/
def State.entry (s : State) (k : Nat) : LEntry := Assoc.get {} s.ledger k
/-- Change one of the ledger entries (R339), by 65,536 * link die + index. -/
def State.modEntry (s : State) (k : Nat) (f : LEntry → LEntry) : State :=
  { s with ledger := Assoc.set {} s.ledger k (f (Assoc.get {} s.ledger k)) }

/-- One of the handles (R334), by 64 * context + number. -/
def State.handle (s : State) (k : Nat) : Handle := Assoc.get {} s.handles k
/-- Change one of the handles (R334), by 64 * context + number. -/
def State.modHandle (s : State) (k : Nat) (f : Handle → Handle) : State :=
  { s with handles := Assoc.set {} s.handles k (f (Assoc.get {} s.handles k)) }

/-- One of the expert slots (R343). -/
def State.slot (s : State) (k : Nat) : Slot := Assoc.get {} s.slots k
/-- Change one of the expert slots (R343). -/
def State.modSlot (s : State) (k : Nat) (f : Slot → Slot) : State :=
  { s with slots := Assoc.set {} s.slots k (f (Assoc.get {} s.slots k)) }

/-- One of the couriers, by link die. -/
def State.courier (s : State) (k : Nat) : Courier := Assoc.get {} s.couriers k
/-- Change one of the couriers, by link die. -/
def State.modCourier (s : State) (k : Nat) (f : Courier → Courier) : State :=
  { s with couriers := Assoc.set {} s.couriers k (f (Assoc.get {} s.couriers k)) }

/-- One of the Woson ports (R430). -/
def State.port (s : State) (k : Nat) : Port := Assoc.get {} s.ports k
/-- Change one of the Woson ports (R430). -/
def State.modPort (s : State) (k : Nat) (f : Port → Port) : State :=
  { s with ports := Assoc.set {} s.ports k (f (Assoc.get {} s.ports k)) }

/-- One of the link groups (R412). -/
def State.group (s : State) (k : Nat) : Group := Assoc.get {} s.groups k
/-- Change one of the link groups (R412). -/
def State.modGroup (s : State) (k : Nat) (f : Group → Group) : State :=
  { s with groups := Assoc.set {} s.groups k (f (Assoc.get {} s.groups k)) }

/-- One of the peer modules (R427). -/
def State.peer (s : State) (k : Nat) : Peer := Assoc.get {} s.peers k
/-- Change one of the peer modules (R427). -/
def State.modPeer (s : State) (k : Nat) (f : Peer → Peer) : State :=
  { s with peers := Assoc.set {} s.peers k (f (Assoc.get {} s.peers k)) }

/-- One of the functions, by 64 * port + function. -/
def State.func (s : State) (k : Nat) : Func := Assoc.get {} s.funcs k
/-- Change one of the functions, by 64 * port + function. -/
def State.modFunc (s : State) (k : Nat) (f : Func → Func) : State :=
  { s with funcs := Assoc.set {} s.funcs k (f (Assoc.get {} s.funcs k)) }

/-- One of the host ports. -/
def State.hport (s : State) (k : Nat) : HPort := Assoc.get {} s.hports k
/-- Change one of the host ports. -/
def State.modHport (s : State) (k : Nat) (f : HPort → HPort) : State :=
  { s with hports := Assoc.set {} s.hports k (f (Assoc.get {} s.hports k)) }

/-- One of the logic-die sensors (R514). -/
def State.logicTherm (s : State) (k : Nat) : Therm := Assoc.get {} s.therm k
/-- Change one of the logic-die sensors (R514). -/
def State.modLogicTherm (s : State) (k : Nat) (f : Therm → Therm) : State :=
  { s with therm := Assoc.set {} s.therm k (f (Assoc.get {} s.therm k)) }

/-- One of the array-die sensors (R522), by 16 * stack + array die. -/
def State.arrayTherm (s : State) (k : Nat) : Therm := Assoc.get {} s.atherm k
/-- Change one of the array-die sensors (R522), by 16 * stack + array die. -/
def State.modArrayTherm (s : State) (k : Nat) (f : Therm → Therm) : State :=
  { s with atherm := Assoc.set {} s.atherm k (f (Assoc.get {} s.atherm k)) }

/-- One of the supply rails (R531). -/
def State.rail (s : State) (k : Nat) : Rail := Assoc.get {} s.rails k
/-- Change one of the supply rails (R531). -/
def State.modRail (s : State) (k : Nat) (f : Rail → Rail) : State :=
  { s with rails := Assoc.set {} s.rails k (f (Assoc.get {} s.rails k)) }

/-- One of the ticks and events of a die (R552). -/
def State.ev (s : State) (k : Nat) : EvDie := Assoc.get {} s.evd k
/-- Change one of the ticks and events of a die (R552). -/
def State.modEv (s : State) (k : Nat) (f : EvDie → EvDie) : State :=
  { s with evd := Assoc.set {} s.evd k (f (Assoc.get {} s.evd k)) }

/-- One of the crossings (R66), by 32 * block number + index. -/
def State.crossing (s : State) (k : Nat) : Cross := Assoc.get {} s.cross k
/-- Change one of the crossings (R66), by 32 * block number + index. -/
def State.modCrossing (s : State) (k : Nat) (f : Cross → Cross) : State :=
  { s with cross := Assoc.set {} s.cross k (f (Assoc.get {} s.cross k)) }

/-- One of the ECC registers (R508), by block base. -/
def State.eccBlock (s : State) (k : Nat) : Ecc := Assoc.get {} s.ecc k
/-- Change one of the ECC registers (R508), by block base. -/
def State.modEccBlock (s : State) (k : Nat) (f : Ecc → Ecc) : State :=
  { s with ecc := Assoc.set {} s.ecc k (f (Assoc.get {} s.ecc k)) }

/-- One of the die-cache lines (R388), by 2^36 * die + line. -/
def State.line (s : State) (k : Nat) : Option (List Byte) := Assoc.get none s.dcache k
/-- Change one of the die-cache lines (R388), by 2^36 * die + line. -/
def State.modLine (s : State) (k : Nat) (f : Option (List Byte) → Option (List Byte)) : State :=
  { s with dcache := Assoc.set none s.dcache k (f (Assoc.get none s.dcache k)) }

/-- One of the event log slots (R555). -/
def State.logSlot (s : State) (k : Nat) : Option EvRec := Assoc.get none s.evlog k
/-- Change one of the event log slots (R555). -/
def State.modLogSlot (s : State) (k : Nat) (f : Option EvRec → Option EvRec) : State :=
  { s with evlog := Assoc.set none s.evlog k (f (Assoc.get none s.evlog k)) }

/-- One of the last owner of a frame (R315), by frame key. -/
def State.owner (s : State) (k : Nat) : Option Nat := Assoc.get none s.lastOwner k
/-- Change one of the last owner of a frame (R315), by frame key. -/
def State.modOwner (s : State) (k : Nat) (f : Option Nat → Option Nat) : State :=
  { s with lastOwner := Assoc.set none s.lastOwner k (f (Assoc.get none s.lastOwner k)) }

/- ---- plain helpers ---- -/

/-- A function number (64 * port + function) is the PF of a port (R439, R442). -/
def isPf (fn : Nat) : Bool := fn == 0 || fn == 64

/-- A counter that stops at a bound. -/
def satAdd (bound a b : Nat) : Nat := min bound (a + b)
def sat32 (n : Nat) : Nat := min n 0xFFFFFFFF
def sat64 (n : Nat) : Nat := min n 0xFFFFFFFFFFFFFFFF

/-- A list without later repeats of an element already met. -/
def dedup : List Nat → List Nat
  | [] => []
  | a :: r => a :: (dedup r).filter (· != a)

/-- A rising list with a number put in its place once. -/
def insertNat (l : List Nat) (n : Nat) : List Nat := l.filter (· < n) ++ n :: l.filter (n < ·)

/-- Division that rounds up. -/
def ceilDiv (a b : Nat) : Nat := (a + b - 1) / b

/-- Send something outward. -/
def State.emit (s : State) (o : Out) : State := { s with out := s.out ++ [o] }

/-- A fresh number for a free value. -/
def State.bump (s : State) : State := { s with fresh := s.fresh + 1 }

/- ---- the map of device memory (R261 to R265) ---- -/

/-- P: bank-pool bytes of a bank (R261). -/
def State.poolBytes (s : State) : Nat :=
  match s.memSplit with
  | 0 => 64 * 1048576
  | 1 => 32 * 1048576
  | _ => 80 * 1048576

/-- S: striped bytes of a bank. -/
def State.stripedBytes (s : State) : Nat := 96 * 1048576 - s.poolBytes

/-- The region of a device physical address (R203). -/
def region (pa : Nat) : Nat := bits pa 42 41

/-- Where a populated byte of regions 0b00 and 0b01 lies: stack, bank within the stack, offset (R263, R264). -/
def State.locate (s : State) (pa : Nat) : Option (Nat × Nat × Nat) :=
  if region pa = 1 then
    if bits pa 26 0 < s.poolBytes then some (bits pa 40 37, 64 * bits pa 36 33 + bits pa 32 27, bits pa 26 0) else none
  else if region pa = 0 then
    let a := bits pa 40 0
    if a < 16384 * s.stripedBytes then
      let g := a / 2048
      let per := s.stripedBytes / 2048
      let x := if s.stripeAll then (g % 16, (g / 16) % 1024, g / 16384)
        else
          let n := g / (2048 * per)
          let h := g % (2048 * per)
          (2 * n + h % 2, (h / 2) % 1024, h / 2048)
      some (x.1, x.2.1, s.poolBytes + x.2.2 * 2048 + a % 2048)
    else none
  else none

/-- A populated device address (R265). -/
def State.populated (s : State) (pa : Nat) : Bool := (s.locate pa).isSome

/-- The bank-view address of a place (R263), used to report errors (R490). -/
def bankView (stack bank off : Nat) : Nat :=
  2 ^ 41 + stack * 2 ^ 37 + (bank / 64) * 2 ^ 33 + (bank % 64) * 2 ^ 27 + off

/-- The bank-view address of the granule of an address. -/
def State.reportAddr (s : State) (pa : Nat) : Nat :=
  match s.locate pa with
  | some (k, b, o) => bankView k b (o / 32 * 32)
  | none => pa

/-- The device physical address of a place in a bank: bank view below P, striped from P on. -/
def State.addrOf (s : State) (stack bank off : Nat) : Nat :=
  if off < s.poolBytes then bankView stack bank off
  else
    let k := (off - s.poolBytes) / 2048
    let per := s.stripedBytes / 2048
    let g := if s.stripeAll then k * 16384 + bank * 16 + stack
      else (stack / 2) * (2048 * per) + k * 2048 + bank * 2 + stack % 2
    g * 2048 + off % 2048

/-- Bytes of a side record (R308). -/
def sideBytes : Nat → Nat
  | 0 => 512
  | 1 => 1024
  | 2 => 2048
  | _ => 3072

/-- Where frame f of a bank begins (R306). -/
def State.frameOffset (s : State) (stack f : Nat) : Nat :=
  (s.stack stack).base * 65536 + f * (16384 + sideBytes (s.stack stack).sidemax)

/-- The bank-view address of a frame. -/
def State.frameAddr (s : State) (f : FrameId) : Nat := bankView f.stack f.bank (s.frameOffset f.stack f.frame)

/-- Whether a bank-pool place belongs to the registrar: the slab (R306) or the table area (R309). -/
def State.registrars (s : State) (pa : Nat) : Bool :=
  if region pa = 1 then
    let st := s.stack (bits pa 40 37)
    let off := bits pa 26 0
    (decide (0 < st.frames) && decide (st.base * 65536 ≤ off) && decide (off < s.frameOffset (bits pa 40 37) st.frames)) ||
    (decide (0 < st.tblUnits) && decide (s.poolBytes - st.tblUnits * 65536 ≤ off))
  else false

/- ---- blocks (R441) ---- -/

def tdBase (d : Nat) : Nat := 0x01000000 + d * 0x00200000
def sbBase (k : Nat) : Nat := 0x02000000 + k * 0x00100000
def ldBase (l : Nat) : Nat := 0x03000000 + l * 0x00100000
def hiBase : Nat := 0x00100000
def scBase : Nat := 0x00200000

/-- Die numbers of R514. -/
def cdDie (d : Nat) : Nat := d
def sbDie (k : Nat) : Nat := 8 + k
def ldDie (l : Nat) : Nat := 24 + l
def hd0Die : Nat := 30
def hd1Die : Nat := 31

/-- The block of a logic die. -/
def blockOfDie (d : Nat) : Nat :=
  if d < 8 then tdBase d else if d < 24 then sbBase (d - 8) else if d < 30 then ldBase (d - 24)
  else if d = 30 then hiBase else scBase

/- ---- crossings (R61 to R66) ---- -/

/-- The number of a block instance, by its base: logic dies as in R514 with HI_ 30 and SC_ 31. -/
def blockNo (base : Nat) : Option Nat := (List.range 32).find? fun d => blockOfDie d == base

/-- A compute die has the crossing: row bridges to the west and east, column bridges to row 0 and row 1, then those that every
compute die has (R41, R66). -/
def cdCrossing (d i : Nat) : Bool :=
  match i with
  | 0 => d % 4 != 0
  | 1 => d % 4 != 3
  | 2 => decide (4 ≤ d)
  | 3 => decide (d < 4)
  | _ => decide (i < 8)

/-- Crossings of a block that are FIFO crossings. -/
def fifoCrossing (d i : Nat) : Bool :=
  if d < 8 then cdCrossing d i else if d < 24 then decide (i < 2) else if d < 30 then decide (i < 10)
  else if d = 30 then decide (i < 4) else decide (i < 32)

def crossKey (x : Crossing) : Option Nat := (blockNo x.base).bind fun d => if fifoCrossing d x.index then some (32 * d + x.index) else none

/-- The crossing that carries a stack's docent counts and array-die events (R66). -/
def docentCrossing (k : Nat) : Nat := 32 * sbDie k + 2

/-- The crossings that can miss pulses or increments: those of docent counts, and every FIFO crossing beside whose FIFO event
pulses pass (R64, R66). -/
def missKey (x : Crossing) : Option Nat :=
  match crossKey x with
  | some k => some k
  | none => (blockNo x.base).bind fun d => if 8 ≤ d ∧ d < 24 ∧ x.index = 2 then some (32 * d + 2) else none

/-- A source cycle in which a crossing dropped a pulse or an increment (R64). -/
def State.missAt (s : State) (x : Crossing) : State :=
  match missKey x with
  | some k => s.modCrossing k fun c => { c with overrun := true, overruns := min 0xFFFF (c.overruns + 1) }
  | none => s

/-- Pointers are being resynchronised: no data moves through the crossing (R61). -/
def State.resyncing (s : State) (k : Nat) : Bool := (s.crossing k).near || (s.crossing k).far
/-- A handshake ends (R61 step 3). -/
def Cross.resynced (c : Cross) : Cross := { c with near := false, far := false, resyncs := satAdd 0xFF c.resyncs 1 }
/-- One side of a crossing was reset while the other ran: the handshake that follows is done within the step (log entry 84). -/
def State.resync (s : State) (k : Nat) : State := s.modCrossing k Cross.resynced

/-- The crossing of a Woson port into its link die, and that of the fabric bridge (R66). -/
def portCrossing (p : Nat) : Nat := 32 * ldDie (p / 8) + 2 + p % 8
def bridgeCrossing (ld : Nat) : Nat := 32 * ldDie ld
/-- The crossing of the system control network into a die other than HD1, and that of its return (R66). -/
def netCrossing (die : Nat) : Nat := 32 * die + (if die < 8 then 7 else 1)
def returnCrossing (die : Nat) : Nat := 32 * hd1Die + die + 1

/- ---- location codes of on-die SRAM (R493) ---- -/

def locKind (loc : Nat) : Nat := bits loc 40 37
def locDie (loc : Nat) : Nat := bits loc 36 33
def locUnit (loc : Nat) : Nat := bits loc 32 23

/-- A code names a word: its kind has the die and the unit (which dies hold words of KIND 0x7 and 0x9: log entry 75). -/
def locOk (loc : Nat) : Bool :=
  let d := locDie loc
  let u := locUnit loc
  bits loc 42 41 == 3 && decide (loc < 2 ^ 43) &&
  match locKind loc with
  | 1 | 2 | 3 => decide (d < 8) && decide (u < 128)
  | 4 => decide (d < 8) && u == 0
  | 5 => true
  | 6 => decide (d < 6) && u == 0
  | 7 => (decide (d < 14) || d == 0xE) && u == 0
  | 8 => true
  | 9 => decide (0xE ≤ d) && u == 0
  | _ => false

/-- The fatal class (R492). -/
def locFatal (loc : Nat) : Bool := decide (6 ≤ locKind loc)

/-- The die of a code, by R514. -/
def locationDie (loc : Nat) : Nat :=
  let d := locDie loc
  match locKind loc with
  | 5 | 8 => sbDie d
  | 6 => ldDie d
  | 7 => if d < 8 then cdDie d else if d = 0xE then hd0Die else sbDie d
  | 9 => if d = 0xE then hd0Die else hd1Die
  | _ => cdDie d

/-- The ECC block of a die: the SC_ set counts HD0 too (R508). -/
def eccBase (die : Nat) : Nat := if die = hd0Die then scBase else blockOfDie die

/-- A one-bit error of an SRAM word is corrected as it is read (R487, R488). -/
def State.fixWord (s : State) (loc : Nat) : State :=
  if locOk loc then s.modEccBlock (eccBase (locationDie loc)) fun e => { e with corr := sat64 (e.corr + 1) } else s

/-- A beat into a die is retried (R487, R508). -/
def State.retryBeat (s : State) (die : Nat) : State :=
  if die < 32 then s.modEccBlock (eccBase die) fun e => { e with retry := sat64 (e.retry + 1) } else s

/- ---- events (R553 to R555) ---- -/

/-- A die numbers an event and queues its record, or counts it in EVT_DROP (R553). The spec names the die for array dies alone; the
others are a DESIGN CHOICE (log entry 100). -/
def State.event (s : State) (die code a0 a1 : Nat) : State :=
  s.modEv die fun e =>
    if e.waiting.length < 16 then
      { e with waiting := e.waiting ++ [(e.tick, e.seq, code, a0 % 2 ^ 32, a1 % 2 ^ 32)], seq := (e.seq + 1) % 2 ^ 32 }
    else { e with seq := (e.seq + 1) % 2 ^ 32, drop := satAdd 0xFFFFFFFF e.drop 1 }

/- ---- a wanted device reset (R60, R504) ---- -/

/-- HD1 can capture the reset cause that a logic die sends: the double-sampled value of that die's control-network return was not
given up (R60; log entry 83). -/
def State.captures (s : State) (sender : Nat) : Bool := sender == hd1Die || !(s.crossing (returnCrossing sender)).disagree

/-- A logic die asks for a device reset with a cause and the DIE code of R504; the first cause stands (R538), and one that is not
captured is 0xF. -/
def State.wantReset (s : State) (cause code sender : Nat) : State :=
  match s.resetWanted with
  | some _ => s
  | none => { s with resetWanted := some (if s.captures sender then 16 * code + cause else 15) }

/- ---- bytes of memory ---- -/

/-- The undefined range of a byte, if it lies in one. -/
def undefAt : List Undef → Nat → Option Undef
  | [], _ => none
  | u :: r, a => if u.lo ≤ a ∧ a < u.hi then some u else undefAt r a

/-- One byte as it stands: undefined (a free value), listed, or 0. -/
def Mem.now (m : Mem) (a : Nat) : Byte :=
  match undefAt m.undef a with
  | some u => Config.freeByte u.stamp a
  | none => Assoc.get 0 m.cells a

/-- Back over the writes of uncommitted commands to a byte, newest first: the reader's own engine or command sees its write
(R385); of another's it finds the granule with or without it (R384, R387). -/
def walkBack (age a : Nat) (who : Seer) : List Under → Byte → Byte
  | [], b => b
  | u :: r, b =>
    if u.addr ≠ a then walkBack age a who r b
    else if u.stamp = who.stamp ∨ (u.eng ≠ 0 ∧ u.eng = who.eng) ∨ Config.landed u.stamp age (a / 32) = true then b
    else walkBack age a who r u.old

/-- Destinations in which a reader finds bytes of a killed run (R87). -/
def Mem.strays (m : Mem) (a : Nat) (who : Seer) : List Undef :=
  m.veil.filter fun v => v.stamp != who.stamp && m.killed.contains v.stamp && Config.stray v.stamp m.age (a / 32)

/-- One byte as a reader finds it. -/
def Mem.read (m : Mem) (a : Nat) (who : Seer := {}) : Byte :=
  match undefAt (m.strays a who) a with
  | some u => Config.freeByte u.stamp a
  | none => walkBack m.age a who m.under (m.now a)

/-- Undefined ranges with [lo, hi) taken out. -/
def cutUndef (lo hi : Nat) : List Undef → List Undef
  | [] => []
  | u :: r =>
    let left : List Undef := if u.lo < min u.hi lo then [{ u with hi := min u.hi lo }] else []
    let right : List Undef := if max u.lo hi < u.hi then [{ u with lo := max u.lo hi }] else []
    left ++ right ++ cutUndef lo hi r

/-- Undefined ranges with one put in its place. -/
def putUndef (u : Undef) : List Undef → List Undef
  | [] => [u]
  | x :: r => if u.lo < x.lo then u :: x :: r else x :: putUndef u r

/-- Write one byte for good. -/
def Mem.write (m : Mem) (a : Nat) (b : Byte) : Mem :=
  { m with cells := Assoc.set 0 m.cells a b, undef := cutUndef a (a + 1) m.undef, under := m.under.filter (·.addr != a) }

/-- Write bytes in list order. -/
def Mem.writeAll (m : Mem) : List (Nat × Byte) → Mem
  | [] => m
  | (a, b) :: r => (m.write a b).writeAll r

/-- Write one byte on behalf of an uncommitted command (stamp 0: none): what was below it is kept. -/
def Mem.writeBy (m : Mem) (who : Seer) (a : Nat) (b : Byte) : Mem :=
  if who.stamp = 0 then m.write a b else { m.write a b with under := ⟨who.stamp, who.eng, a, m.now a⟩ :: m.under }

/-- Write bytes on behalf of a command, in list order. -/
def Mem.writeAllBy (m : Mem) (who : Seer) : List (Nat × Byte) → Mem
  | [] => m
  | (a, b) :: r => (m.writeBy who a b).writeAllBy who r

/-- A commit: the command's writes stand, and so does what they covered (newest first). -/
def settleUnder (stamp : Nat) : List Under → List Under
  | [] => []
  | u :: r => if u.stamp = stamp then (settleUnder stamp r).filter (·.addr != u.addr) else u :: settleUnder stamp r

/-- Make [lo, hi) undefined (R85, R86). -/
def Mem.forget (m : Mem) (lo hi stamp : Nat) : Mem :=
  if lo < hi then
    { m with cells := m.cells.filter (fun c => decide (c.1 < lo) || decide (hi ≤ c.1)),
             undef := putUndef ⟨lo, hi, stamp⟩ (cutUndef lo hi m.undef),
             under := m.under.filter (fun u => decide (u.addr < lo) || decide (hi ≤ u.addr)) }
  else m

/-- Make every byte of [lo, hi) zero. -/
def Mem.zero (m : Mem) (lo hi : Nat) : Mem :=
  { m with cells := m.cells.filter (fun c => decide (c.1 < lo) || decide (hi ≤ c.1)), undef := cutUndef lo hi m.undef,
           under := m.under.filter (fun u => decide (u.addr < lo) || decide (hi ≤ u.addr)) }

/-- The command of a stamp is done: its writes stand (R383), or with `lost` its whole destination is undefined (R86). -/
def Mem.unveil (m : Mem) (stamp : Nat) (lost : Bool) : Mem :=
  let mine := m.veil.filter (·.stamp == stamp)
  let m1 : Mem := { m with veil := m.veil.filter (·.stamp != stamp), killed := m.killed.filter (· != stamp)
                           under := if lost then m.under.filter (·.stamp != stamp) else settleUnder stamp m.under }
  if lost then mine.foldl (fun a u => a.forget u.lo u.hi stamp) m1 else m1

/-- The canonical form: cells rise, none is 0, none lies in an undefined range; ranges are nonempty, rising and disjoint. -/
def undefSorted : List Undef → Bool
  | [] => true
  | [u] => decide (u.lo < u.hi)
  | u :: v :: r => decide (u.lo < u.hi) && decide (u.hi ≤ v.lo) && undefSorted (v :: r)

def Memory.wf (m : Mem) : Bool :=
  Assoc.sorted m.cells && m.cells.all (fun c => c.2 != 0) && undefSorted m.undef &&
  m.cells.all (fun c => (undefAt m.undef c.1).isNone)

/-- Consecutive bytes as address and byte pairs. -/
def spread (a : Nat) : List Byte → List (Nat × Byte)
  | [] => []
  | b :: r => (a, b) :: spread (a + 1) r

/- ---- error marks (R487 to R491) ---- -/

/-- The DRAM granules of addresses, in order of first appearance. -/
def granules (as : List Nat) : List Nat := dedup (as.map (· / 32))

/-- The granules of a byte range. -/
def granulesOf (a n : Nat) : List Nat := if n = 0 then [] else (List.range ((a + n - 1) / 32 - a / 32 + 1)).map (· + a / 32)

/-- The ECC block of a device address: its stack's. -/
def State.eccOf (s : State) (pa : Nat) : Nat :=
  match s.locate pa with
  | some (k, _, _) => sbBase k
  | none => sbBase 0

/-- The stack of a device address. -/
def State.stackAt (s : State) (pa : Nat) : Nat :=
  match s.locate pa with
  | some (k, _, _) => k
  | none => 0

/-- Count an uncorrectable read (R508); `asked` when it is reported to a requester of context c, which records event
0x0101 (R509). -/
def State.countUncorr (s : State) (pa : Nat) (asked : Option Nat) : State :=
  let loc := s.reportAddr pa
  let s1 := s.modEccBlock (s.eccOf pa) fun e => { e with uncorr := sat64 (e.uncorr + 1), lastValid := true, last := loc }
  match asked with
  | some c => s1.event (sbDie (s.stackAt pa)) 0x0101 (loc % 2 ^ 32) (loc / 2 ^ 32 + c * 2 ^ 24)
  | none => s1

/-- Count a corrected read. -/
def State.countCorr (s : State) (pa : Nat) : State :=
  s.modEccBlock (s.eccOf pa) fun e => { e with corr := sat64 (e.corr + 1) }

/-- A held write overlaps a granule (R520): the host's, another module's, or a command's. -/
def State.heldGranule (s : State) (g : Nat) : Bool :=
  (s.held.any fun w => decide (w.pa < g * 32 + 32) && decide (g * 32 < w.pa + w.bytes.length)) ||
  s.cmds.any fun c => c.writes.any fun w => w.1 / 32 == g

/-- A docent task runs on a bank. -/
def State.docentBusy (s : State) (k b : Nat) : Bool :=
  s.cmds.any fun c => match c.work with
    | .doc d => d.tasks.any fun t => t.stack == k && t.bank == b && t.st == .active
    | _ => false

/-- Ordinary accesses are counted in the stacks on whose banks a docent works (R290, R295), one for each granule. -/
def State.share (s : State) : List Nat → State
  | [] => s
  | g :: r =>
    (match s.locate (g * 32) with
     | some (k, b, _) => if s.docentBusy k b then s.modStack k fun x => { x with shared := sat64 (x.shared + 1) } else s
     | none => s).share r

/-- An access of an engine is an ordinary one: not a docent's, a merge unit's or a registrar's (R290, R385). -/
def Seer.ordinary (w : Seer) : Bool := decide (w.eng < 1536)

/-- Accesses of an engine to granules are counted where they are ordinary. -/
def State.shareBy (s : State) (who : Seer) (gs : List Nat) : State := if who.ordinary then s.share gs else s

/-- Read granules from memory in order: the first uncorrectable one stops the reading. A read that overlaps a held write waits:
it marks the step as stalled (R520). -/
def State.readGranules (s : State) (ctx : Nat) : List Nat → Option Nat × State
  | [] => (none, s)
  | g :: r =>
    if s.heldGranule g then (none, { s with stalled := true })
    else if g ∈ s.mem.bad then (some (s.reportAddr (g * 32)), s.countUncorr (g * 32) (some ctx))
    else if g ∈ s.mem.weak then (s.countCorr (g * 32)).readGranules ctx r
    else s.readGranules ctx r

/-- Errors strike DRAM (the step's environment), and die caches drop lines (R388). -/
def Mem.strike (m : Mem) : List (Nat × Bool) → Mem
  | [] => m
  | (g, true) :: r => ({ m with bad := insertNat m.bad g }).strike r
  | (g, false) :: r => ({ m with weak := insertNat m.weak g }).strike r

/-- A compute die's cache key of a line. -/
def lineKey (die line : Nat) : Nat := die * 2 ^ 36 + line

/-- A code of a word in a tessera's SRAMs. -/
def locTess (loc : Nat) : Bool := locOk loc && decide (locKind loc ≤ 3)

/-- Apply the environment of a step. -/
def State.environ (s : State) (e : Env) : State :=
  let s1 := { s with mem := { s.mem.strike e.faults with age := s.mem.age + 1 }, hits := s.hits ++ e.hits.filter locTess }
  let s2 := e.evict.foldl (fun t x => t.modLine (lineKey x.1 x.2) fun _ => none) s1
  let s3 := e.fixed.foldl State.fixWord s2
  e.missed.foldl State.missAt (e.retries.foldl State.retryBeat s3)

/-- Lines of a die cache: 32 MiB of 128 B (R388). -/
def cacheLines : Nat := 262144

/-- A full cache of die d gives up a line before it takes another; which one is a free choice. -/
def State.makeRoom (s : State) (d : Nat) : State :=
  let mine := s.dcache.filter fun c => decide (c.1 / 2 ^ 36 = d)
  if mine.length < cacheLines then s
  else
    let drop1 := (mine.getD (Config.freeNat s.fresh % mine.length) (0, none)).1
    { s with dcache := s.dcache.filter (fun c => c.1 != drop1), fresh := s.fresh + 1 }

/-- Fill a line of die d's cache from memory (R388, R489): a line with an uncorrectable granule is not cached; one the
requester did not ask for is counted, as is a corrected one (R488). `ask` are the granules asked for, already read. -/
def State.fillLine (s : State) (d line : Nat) (ask : List Nat) (who : Seer := {}) : State :=
  match s.line (lineKey d line) with
  | some _ => s
  | none =>
    let gs := ((List.range 4).map (· + line * 4)).filter fun g => !ask.contains g
    let s1 := gs.foldl (fun t g => if s.mem.bad.contains g then t.countUncorr (g * 32) none
      else if s.mem.weak.contains g then t.countCorr (g * 32) else t) s
    if (List.range 4).any (fun i => s.mem.bad.contains (line * 4 + i)) then s1
    else (s1.makeRoom d).modLine (lineKey d line) fun _ => some ((List.range 128).map fun i => s.mem.read (line * 128 + i) who)

/-- Granules that memory must supply: those not served by a cached line of die d. -/
def State.missGranules (s : State) (d : Nat) (gs : List Nat) : List Nat :=
  gs.filter fun g => (s.line (lineKey d (g / 4))).isNone

/-- Whether the cache of die d is powered (R544: while off, reads go to memory). -/
def State.cacheOn (s : State) (d : Nat) : Bool := !s.offDom.contains (35 * d + 32)

/-- Read granules on behalf of an engine: through die d's cache, or from memory when `die` is none. Answers the report
address of the first uncorrectable granule. -/
def State.touch (s : State) (ctx : Nat) (die : Option Nat) (gs : List Nat) (who : Seer := {}) : Option Nat × State :=
  match die with
  | none => (s.shareBy who gs).readGranules ctx gs
  | some d =>
    if s.cacheOn d then
      let miss := s.missGranules d gs
      let r := (s.shareBy who miss).readGranules ctx miss
      (r.1, (dedup (miss.map (· / 4))).foldl (fun t l => t.fillLine d l gs who) r.2)
    else (s.shareBy who gs).readGranules ctx gs

/-- One byte as an engine of a die sees it. -/
def State.peek (s : State) (die : Option Nat) (pa : Nat) (who : Seer := {}) : Byte :=
  match die with
  | none => s.mem.read pa who
  | some d =>
    match s.line (lineKey d (pa / 128)) with
    | some l => if s.cacheOn d then l.getD (pa % 128) 0 else s.mem.read pa who
    | none => s.mem.read pa who

/-- Consecutive bytes as an engine sees them. -/
def State.peeks (s : State) (die : Option Nat) (pa n : Nat) (who : Seer := {}) : List Byte :=
  (List.range n).map fun i => s.peek die (pa + i) who

/-- Discard the lines of a die that overlap [lo, hi) (R390, R391). -/
def State.discardLines (s : State) (d lo hi : Nat) : State :=
  { s with dcache := s.dcache.filter fun c =>
      !(decide (c.1 / 2 ^ 36 = d) && decide (c.1 % 2 ^ 36 * 128 < hi) && decide (lo < c.1 % 2 ^ 36 * 128 + 128)) }

/-- Discard every line of a die. -/
def State.discardDie (s : State) (d : Nat) : State :=
  { s with dcache := s.dcache.filter fun c => decide (c.1 / 2 ^ 36 ≠ d) }

/-- Update die d's cached copy of written bytes (R388). -/
def State.updateLine (s : State) (d : Nat) : List (Nat × Byte) → State
  | [] => s
  | (a, b) :: r =>
    let k := lineKey d (a / 128)
    (match s.line k with
     | some l => s.modLine k fun _ => some (l.set (a % 128) b)
     | none => s).updateLine d r

/-- Whether writes cover the whole of a granule. -/
def coversGranule (ws : List (Nat × Byte)) (g : Nat) : Bool :=
  (List.range 32).all fun i => ws.any fun w => w.1 == g * 32 + i

/-- The first granule a write would merge into that holds an uncorrectable word (R491). -/
def State.poisonHit (s : State) (ws : List (Nat × Byte)) : Option Nat :=
  (granules (ws.map (·.1))).find? fun g => s.mem.bad.contains g && !coversGranule ws g

/-- The marks a write leaves (R491): a whole granule becomes valid; a merged uncorrectable one stays bad and is counted in
POISON; a merged correctable one is rewritten corrected. -/
def State.writeMarks (s : State) (ws : List (Nat × Byte)) : List Nat → State
  | [] => s
  | g :: r =>
    (if s.mem.bad.contains g then
      if coversGranule ws g then { s with mem := { s.mem with bad := s.mem.bad.filter (· != g), weak := s.mem.weak.filter (· != g) } }
      else s.modEccBlock (s.eccOf (g * 32)) fun e => { e with poison := sat64 (e.poison + 1) }
    else if s.mem.weak.contains g then
      let s1 := { s with mem := { s.mem with weak := s.mem.weak.filter (· != g) } }
      if coversGranule ws g then s1 else s1.countCorr (g * 32)
    else s).writeMarks ws r

/-- Writes land in memory (R383, R387), each merge as one action; `die` is the compute die whose fabric port made them, whose
cache follows; `who` is the uncommitted command that makes them. -/
def State.land (s : State) (die : Option Nat) (ws : List (Nat × Byte)) (who : Seer := {}) : State :=
  let gs := granules (ws.map (·.1))
  let s1 := (s.shareBy who gs).writeMarks ws gs
  let s2 := { s1 with mem := s1.mem.writeAllBy who ws }
  match die with
  | some d => s2.updateLine d ws
  | none => s2

/-- A host or remote write of a merged poisoned granule is recorded as an event (R491, R509). -/
def State.poisonEvents (s : State) (ws : List (Nat × Byte)) : State :=
  ((granules (ws.map (·.1))).filter (fun g => s.mem.bad.contains g && !coversGranule ws g)).foldl
    (fun t g => let a := s.reportAddr (g * 32); t.event (sbDie (s.stackAt (g * 32))) 0x0102 (a % 2 ^ 32) (a / 2 ^ 32)) s

end Sys2Proof.Machine
end

