-- ==== Sys2Proof/Machine/Translate.lean ====
section
/-! DEFINITION. Address translation: the context tables of R444 to R447, the cache window of R304 and R305, and reads and
writes of tensors through them. -/

namespace Sys2Proof.Machine

/- ---- page geometry (R301, R302) ---- -/

/-- Head dimension. -/
def Layout.d (l : Layout) : Nat := 32 * l.dm32
/-- Bytes of one token's K (R302). -/
def Layout.row (l : Layout) : Nat := l.d * l.fmt.nibbles / 2
/-- Tokens of a page (R301). -/
def Layout.n (l : Layout) : Nat := 2 ^ Nat.log2 (16384 / (2 * l.row))
def Layout.maxPos (l : Layout) : Nat := 2 ^ l.maxLog
/-- Page numbers of a pair. -/
def Layout.npages (l : Layout) : Nat := l.maxPos / l.n
/-- Scale groups of a token, 0 without scales. -/
def Layout.groups (l : Layout) : Nat :=
  match l.scale with
  | none => 0
  | some (_, g) => ceilDiv l.d g
/-- Bytes of one scale. -/
def Layout.sb (l : Layout) : Nat := if l.fmt = .int8 then 4 else 1
/-- Bytes of a placard. -/
def Layout.pb (l : Layout) : Nat := if l.d ≤ 128 then 512 else 1024
/-- SIDE (R302). -/
def Layout.side (l : Layout) : Nat := ceilDiv (l.pb + 2 * l.n * l.groups * l.sb) 512 * 512
/-- SEQBYTES (R304). -/
def Layout.seqBytes (l : Layout) : Nat := l.layers * l.hkv * l.npages * 32768
/-- The window's size (R304). -/
def Layout.window (l : Layout) : Nat := l.seqMax * l.seqBytes
/-- The stack of a (layer, head) pair (R301). -/
def pairStack (pair : Nat) : Nat := pair % 16

/-- The entry of a page in the registrars' tables. -/
def State.page (s : State) (ctx seq pair pg : Nat) : Option PageEntry :=
  s.pages.find? fun e => e.ctx == ctx && e.seq == seq && e.pair == pair && e.page == pg

def PageEntry.frameId (e : PageEntry) : FrameId := ⟨e.stack, e.bank, e.frame⟩

/-- Committed and reserved lengths (R311). -/
def Ctx.clenOf (c : Ctx) (seq : Nat) : Nat := Assoc.get 0 c.clen seq
def Ctx.rlenOf (c : Ctx) (seq : Nat) : Nat := Assoc.get 0 c.rlen seq

/- ---- translation ---- -/

/-- What a translation answers: an address, no valid translation (R80), or a table granule that is uncorrectable (R490). -/
inductive Tr where
  | ok (pa : Nat)
  | none
  | ecc (pa : Nat)
deriving DecidableEq, Repr

/-- A window address through the registrars' tables (R304, R305, R310). -/
def State.windowTr (s : State) (ctx : Nat) (l : Layout) (va : Nat) (wr : Bool) : Tr :=
  let off := va - l.wbase
  let slotNo := off / 32768
  let pg := slotNo % l.npages
  let pairSeq := slotNo / l.npages
  let pair := pairSeq % (l.layers * l.hkv)
  let seq := pairSeq / (l.layers * l.hkv)
  let o := off % 32768
  match s.page ctx seq pair pg with
  | some e =>
    let c := s.ctx ctx
    let lo := c.clenOf seq
    let hi := c.rlenOf seq
    let fresh := decide (max lo (pg * l.n) < min hi (pg * l.n + l.n))
    let placard := decide (0x4000 ≤ o) && decide (o < 0x4000 + l.pb)
    if 0x4000 + l.side ≤ o then .none
    else if e.st = .invalid then .none
    else if wr && (placard || !fresh || e.st == .leaving) then .none
    else .ok (s.frameAddr e.frameId + o)
  | none => .none

/-- One entry of a translation table. -/
def State.tableEntry (s : State) (ta idx : Nat) : Tr ⊕ Nat :=
  let a := ta + 8 * idx
  if 2 ≤ region a ∨ !s.populated a then .inl .none
  else if s.mem.bad.contains (a / 32) then .inl (.ecc a)
  else .inr (ofLe (s.peeks none a 8))

/-- A physical address with the write permission of its leaf, or why there is none (R445). -/
def State.walk (s : State) (ctx va : Nat) : Tr × Bool :=
  let root := (s.ctx ctx).root
  let addrOk (e : Nat) : Bool := bits e 60 43 == 0 && bits e 15 0 == 0
  if 2 ^ 52 ≤ va ∨ !bit root 0 then (.none, false) else
  match s.tableEntry (bits root 42 15 * 32768) (bits va 51 40) with
  | .inl t => (t, false)
  | .inr e1 =>
    if !bit e1 63 || bit e1 61 || !addrOk e1 then (.none, false) else
    match s.tableEntry (bits e1 42 16 * 65536) (bits va 39 28) with
    | .inl t => (t, false)
    | .inr e2 =>
      if !bit e2 63 || !addrOk e2 then (.none, false)
      else if bit e2 61 then
        if bits e2 27 16 ≠ 0 then (.none, false) else (.ok (bits e2 42 16 * 65536 + bits va 27 0), bit e2 62)
      else match s.tableEntry (bits e2 42 16 * 65536) (bits va 27 16) with
        | .inl t => (t, false)
        | .inr e3 =>
          if !bit e3 63 || !addrOk e3 then (.none, false)
          else (.ok (bits e3 42 16 * 65536 + bits va 15 0), bit e3 62)

/-- The table granules a walk reads and decodes, in order. -/
def State.walkTrail (s : State) (ctx va : Nat) : List Nat :=
  let root := (s.ctx ctx).root
  let t1 := bits root 42 15 * 32768
  let i1 := bits va 51 40
  if 2 ^ 52 ≤ va ∨ !bit root 0 then [] else
  match s.tableEntry t1 i1 with
  | .inl _ => []
  | .inr e1 =>
    let t2 := bits e1 42 16 * 65536
    (t1 + 8 * i1) / 32 :: if !bit e1 63 || bit e1 61 then [] else
      match s.tableEntry t2 (bits va 39 28) with
      | .inl _ => []
      | .inr e2 =>
        let t3 := bits e2 42 16 * 65536
        (t2 + 8 * bits va 39 28) / 32 :: if !bit e2 63 || bit e2 61 then [] else
          match s.tableEntry t3 (bits va 27 16) with
          | .inl _ => []
          | .inr _ => [(t3 + 8 * bits va 27 16) / 32]

/-- A walk counts the table granules that it finds correctable (R488). -/
def State.walkCounts (s : State) (ctx va : Nat) : State :=
  ((s.walkTrail ctx va).filter s.mem.weak.contains).foldl (fun t g => t.countCorr (g * 32)) s

/-- A cached translation of an address (R446). -/
def State.cached (s : State) (ctx va : Nat) : Option Tlb :=
  s.tlb.find? fun t => t.ctx == ctx && decide (t.lo ≤ va) && decide (va < t.lo + t.len)

/-- Translate one address of a context (R445, R447, R305); a table translation is cached page by page. -/
def State.translate (s : State) (ctx va : Nat) (wr : Bool) : Tr × State :=
  let inWindow := match (s.ctx ctx).layout with
    | some l => if l.wbase ≤ va ∧ va < l.wbase + l.window then some l else none
    | none => none
  match inWindow with
  | some l => (s.windowTr ctx l va wr, s)
  | none =>
    match s.cached ctx va with
    | some t => if wr && !t.wr then (.none, s) else (.ok (t.pa + (va - t.lo)), s)
    | none =>
      let s0 := s.walkCounts ctx va
      match s.walk ctx va with
      | (.ok pa, w) =>
        let s1 := { s0 with tlb := ⟨ctx, va / 65536 * 65536, 65536, pa / 65536 * 65536, w⟩ :: s.tlb }
        if wr && !w then (.none, s1) else (.ok pa, s1)
      | (.ecc a, _) => (.ecc a, (s0.countUncorr a (some ctx)))
      | (.none, _) => (.none, s0)

/-- Device memory of this module that an engine may use: region 0b00 or 0b01, populated, not the registrars' (R265, R306). -/
def State.deviceOk (s : State) (window : Bool) (pa : Nat) : Bool :=
  decide (region pa < 2) && s.populated pa && (window || !s.registrars pa)

/-- A remote-window address (R203, R421) and its module. -/
def isRemote (pa : Nat) : Bool := region pa == 2 && bit pa 40
def isHostWin (pa : Nat) : Bool := region pa == 2 && !bit pa 40

/-- Whether an address of a context lies in its cache window. -/
def State.inWindow (s : State) (ctx va : Nat) : Bool :=
  match (s.ctx ctx).layout with
  | some l => decide (l.wbase ≤ va) && decide (va < l.wbase + l.window)
  | none => false

/-- Why an access failed. -/
inductive Fail where
  | trans (va : Nat)
  | ecc (pa : Nat)
  | index (pos : Nat)
  | held (stack : Nat)
  | unreach (m : Nat)
deriving DecidableEq, Repr

/-- The ending of a failed access (R80). -/
def Fail.ending : Fail → Ending
  | .trans va => { status := .translationFault, r0 := va % 2 ^ 32, r1 := va / 2 ^ 32 % 2 ^ 32 }
  | .ecc pa => { status := .eccUncorrectable, r0 := pa % 2 ^ 32, r1 := pa / 2 ^ 32 }
  | .index p => { status := .indexOutOfRange, detail := p }
  | .held k => { status := .writeHeldTimeout, detail := k }
  | .unreach m => { status := .remoteUnreachable, detail := m }

/-- This module's number (R421, R460). -/
def State.modid (s : State) : Nat := bits s.boot.straps 5 0

/-- Which places an operand may translate to: the region its VIEW states (R203), and whether the remote window counts. -/
structure Place where
  bank   : Option Bool
  remote : Bool := true
deriving DecidableEq, Repr

/-- Translate one operand address and hold it to its place. -/
def State.resolve (s : State) (ctx va : Nat) (wr : Bool) (p : Place) : Except Fail Nat × State :=
  match s.translate ctx va wr with
  | (.ok pa, s1) =>
    if isRemote pa then (if p.remote && bits pa 39 34 != s1.modid then (.ok pa, s1) else (.error (.trans va), s1))
    else if s1.deviceOk (s1.inWindow ctx va) pa && (match p.bank with
        | some b => decide (region pa = if b then 1 else 0)
        | none => true) then (.ok pa, s1)
    else (.error (.trans va), s1)
  | (.ecc a, s1) => (.error (.ecc (s1.reportAddr a)), s1)
  | (.none, s1) => (.error (.trans va), s1)

/-- Translate addresses in order; the first failure stops. -/
def State.resolveAll (s : State) (ctx : Nat) (wr : Bool) (p : Place) : List Nat → Except Fail (List Nat) × State
  | [] => (.ok [], s)
  | va :: r =>
    match s.resolve ctx va wr p with
    | (.error f, s1) => (.error f, s1)
    | (.ok pa, s1) =>
      match s1.resolveAll ctx wr p r with
      | (.error f, s2) => (.error f, s2)
      | (.ok l, s2) => (.ok (pa :: l), s2)

/- ---- element addressing (R200 to R202) ---- -/

/-- The element offset of an index tuple (R200). -/
def Desc.offset (d : Desc) (idx : List Nat) : Int :=
  match idx, d.stride, d.cg64 with
  | i0 :: ir, s0 :: sr, true => ((i0 % 64 : Nat) : Int) + ((i0 / 64 : Nat) : Int) * s0 + dot ir sr
  | _, _, _ => dot idx d.stride
where
  dot : List Nat → List Int → Int
    | i :: r, s :: t => (i : Int) * s + dot r t
    | _, _ => 0

/-- The virtual byte address of an element offset. -/
def Desc.addrAt (d : Desc) (off : Int) : Nat :=
  if d.fmt.nibbles = 1 then ((d.base : Int) + off / 2).toNat else ((d.base : Int) + off * d.fmt.bytes).toNat

/-- The byte address of an element, and whether a 4-bit element is in the high half. -/
def Desc.elem (d : Desc) (idx : List Nat) : Nat × Bool :=
  let off := d.offset idx
  (d.addrAt off, d.fmt.nibbles == 1 && off % 2 != 0)

/-- Every index tuple of sizes, dimension 0 fastest. -/
def tuples : List Nat → List (List Nat)
  | [] => [[]]
  | n :: r => (tuples r).flatMap fun t => (List.range n).map fun i => i :: t

/-- The number of elements. -/
def Desc.count (d : Desc) : Nat := d.size.foldl (· * ·) 1

/-- Terms of R202 and R209: stride and count of each dimension; CG64 splits dimension 0 in lanes and groups. -/
def Desc.terms (d : Desc) (lanes : Nat) : List (Int × Nat) :=
  match d.size, d.stride, d.cg64 with
  | n0 :: nr, s0 :: sr, true => (1, lanes) :: (s0, ceilDiv n0 64) :: (sr.zip nr)
  | ns, ss, _ => ss.zip ns

/-- Lowest and highest byte of the extent (R202). -/
def Desc.extent (d : Desc) : Nat × Nat :=
  let ts := d.terms 64
  let lo := ts.foldl (fun a t => a + min 0 (t.1 * ((t.2 : Int) - 1))) (0 : Int)
  let hi := ts.foldl (fun a t => a + max 0 (t.1 * ((t.2 : Int) - 1))) (0 : Int)
  if d.fmt.nibbles = 1 then (d.addrAt lo, d.addrAt hi) else (d.addrAt lo, d.addrAt hi + (d.fmt.bytes - 1))

/-- The padding lanes of a CG64 descriptor at one tuple of the higher dimensions (R201). -/
def Desc.padding (d : Desc) (rest : List Nat) : List (List Nat) :=
  match d.size, d.cg64 with
  | n0 :: _, true => (List.range (ceilDiv n0 64 * 64 - n0)).map fun i => (n0 + i) :: rest
  | _, _ => []

/-- Two extents share a byte (check 6 of R77). -/
def Desc.overlaps (a b : Desc) : Bool := decide (a.extent.1 ≤ b.extent.2) && decide (b.extent.1 ≤ a.extent.2)

/-- The byte addresses an element occupies. -/
def Desc.elemBytes (d : Desc) (idx : List Nat) : List Nat :=
  (List.range d.fmt.bytes).map (· + (d.elem idx).1)

/-- The place a descriptor's accesses must translate to (R203). -/
def Desc.place (d : Desc) : Place := { bank := some d.bank }

/-- The encoding of the element at a physical byte address, from a byte reader. -/
def elemFrom (f : Fmt) (rd : Nat → Byte) (pa : Nat) (hi : Bool) : Nat :=
  if f.nibbles = 1 then (if hi then (rd pa).toNat / 16 else (rd pa).toNat % 16)
  else ofLe ((List.range f.bytes).map fun i => rd (pa + i)) % 2 ^ f.bits

/-- The writes of one element; a 4-bit element merges with the other half as earlier writes of the command left it. -/
def elemWrite (f : Fmt) (rd : Nat → Byte) (acc : List (Nat × Byte)) (pa : Nat) (hi : Bool) (e : Nat) : List (Nat × Byte) :=
  if f.nibbles = 1 then
    let old := (match acc.find? (fun (w : Nat × Byte) => w.1 == pa) with
      | some (w : Nat × Byte) => w.2
      | none => rd pa).toNat
    let b := if hi then old % 16 + 16 * (e % 16) else old / 16 * 16 + e % 16
    (pa, BitVec.ofNat 8 b) :: acc.filter (fun (w : Nat × Byte) => w.1 != pa)
  else spread pa (leBytes e f.bytes) ++ acc

/-- How an engine reads: its context, its die's cache, and bytes fetched from other modules. -/
structure Eng where
  ctx : Nat
  who : Seer := {}
  die : Option Nat := none
  remote : List (Nat × Byte) := []
deriving DecidableEq, Repr

/-- One byte as the engine sees it: fetched remote bytes, else cache or memory. -/
def State.see (s : State) (e : Eng) (pa : Nat) : Byte :=
  if isRemote pa then Assoc.get 0 e.remote pa else s.peek e.die pa e.who

/-- One byte as it stands where a write will merge with it (R387): the merge is one action, and no cache takes part; a write of
the same command that is held stands above memory. -/
def State.standing (s : State) (e : Eng) (pa : Nat) : Byte :=
  if isRemote pa then Assoc.get 0 e.remote pa
  else match (s.cmds.filter fun c => c.stamp == e.who.stamp).findSome? fun c => c.writes.find? fun w => w.1 == pa with
    | some w => w.2
    | none => s.mem.now pa

/-- Remote granules of addresses that have not been fetched (R422). -/
def Eng.missing (e : Eng) (pas : List Nat) : List Nat :=
  (granules (pas.filter isRemote)).filter fun g => !(e.remote.any fun (w : Nat × Byte) => w.1 / 32 == g)

/-- Read the elements of a descriptor at index tuples: encodings in order, with the remote granules still to fetch. -/
def State.readElems (s : State) (e : Eng) (d : Desc) (idxs : List (List Nat)) :
    Except Fail (List Nat × List Nat) × State :=
  match s.resolveAll e.ctx false d.place (idxs.map fun i => (d.elem i).1) with
  | (.error f, s1) => (.error f, s1)
  | (.ok pas, s1) =>
    let miss := e.missing pas
    if miss ≠ [] then (.ok ([], miss), s1) else
    match s1.touch e.ctx e.die (granules (pas.filter fun a => !isRemote a)) e.who with
    | (some a, s2) => (.error (.ecc a), s2)
    | (none, s2) => (.ok ((pas.zip idxs).map (fun p => elemFrom d.fmt (s2.see e) p.1 (d.elem p.2).2), []), s2)

/-- The writes that store encodings at index tuples (newest first), not yet made, where the descriptor's addresses must translate to
a place. -/
def State.planAt (s : State) (e : Eng) (d : Desc) (p : Place) (items : List (List Nat × Nat)) (acc : List (Nat × Byte)) :
    Except Fail (List (Nat × Byte)) × State :=
  match s.resolveAll e.ctx true p (items.map fun i => (d.elem i.1).1) with
  | (.error f, s1) => (.error f, s1)
  | (.ok pas, s1) =>
    (.ok ((pas.zip items).foldl (fun a p => elemWrite d.fmt (s1.standing e) a p.1 (d.elem p.2.1).2 p.2.2) acc), s1)

/-- The same in the place that the descriptor names (R203). -/
def State.planElems (s : State) (e : Eng) (d : Desc) (items : List (List Nat × Nat)) (acc : List (Nat × Byte)) :
    Except Fail (List (Nat × Byte)) × State := s.planAt e d d.place items acc

/-- Read n bytes at consecutive virtual addresses. -/
def State.readBytes (s : State) (e : Eng) (va n : Nat) (p : Place) : Except Fail (List Byte × List Nat) × State :=
  match s.resolveAll e.ctx false p ((List.range n).map (· + va)) with
  | (.error f, s1) => (.error f, s1)
  | (.ok pas, s1) =>
    let miss := e.missing pas
    if miss ≠ [] then (.ok ([], miss), s1) else
    match s1.touch e.ctx e.die (granules (pas.filter fun a => !isRemote a)) e.who with
    | (some a, s2) => (.error (.ecc a), s2)
    | (none, s2) => (.ok (pas.map (s2.see e), []), s2)

end Sys2Proof.Machine
end

