-- ==== Sys2Proof/Machine/Operands.lean ====
section
/-! DEFINITION. The operands of a command: the fields of its 64 bytes (R73), the use each opcode makes of its references,
and the places of bank-pool operands (R263, R266). -/

namespace Sys2Proof.Machine

/- ---- fields of the 64 bytes ---- -/

def u8 (raw : List Byte) (o : Nat) : Nat := (raw.getD o 0).toNat
def u16 (raw : List Byte) (o : Nat) : Nat := u8 raw o + 256 * u8 raw (o + 1)
def u32 (raw : List Byte) (o : Nat) : Nat := u16 raw o + 65536 * u16 raw (o + 2)
def u64 (raw : List Byte) (o : Nat) : Nat := u32 raw o + 2 ^ 32 * u32 raw (o + 4)
def w32 (raw : List Byte) (o : Nat) : W32 := BitVec.ofNat 32 (u32 raw o)

/-- Bytes lo to hi - 1 are zero. -/
def zeros (raw : List Byte) (lo hi : Nat) : Bool := (List.range (hi - lo)).all fun i => u8 raw (lo + i) == 0

def cls (raw : List Byte) : Nat := u8 raw 0
def opc (raw : List Byte) : Nat := u8 raw 1
def flags (raw : List Byte) : Nat := u16 raw 2
def target (raw : List Byte) : Nat := u16 raw 0x12
def targetDie (raw : List Byte) : Nat := bits (target raw) 9 7
def targetTess (raw : List Byte) : Nat := bits (target raw) 6 0
def pinned (raw : List Byte) : Bool := bit (target raw) 15
def afterCommit (raw : List Byte) : Bool := bit (flags raw) 0
def invalidates (raw : List Byte) : Bool := bit (flags raw) 1
def spreadAsked (raw : List Byte) : Bool := bit (flags raw) 2
def interrupts (raw : List Byte) : Bool := bit (flags raw) 3
/-- E5M2_INF where the class defines FLAGS[4] so (R211, R273). -/
def e5inf (raw : List Byte) : Bool := bit (flags raw) 4

/-- A reference is present (R73). -/
def present (r : Nat) : Bool := bit r 15
/-- The module-wide number of a semaphore reference (R73, R88). -/
def semNo (r : Nat) : Nat := 4096 * bits r 14 12 + bits r 11 0

/-- A command's resolved descriptor at a reference offset. -/
def Cmd.desc (c : Cmd) (off : Nat) : Option Desc := (c.descs.find? (·.1 == off)).map (·.2)

/-- A descriptor that stands for an absent operand. -/
def Desc.none : Desc :=
  { writable := false, bank := false, cg64 := false, fmt := .uint8, base := 0, size := [], stride := [], alloc := 0 }

def Cmd.descD (c : Cmd) (off : Nat) : Desc := (c.desc off).getD Desc.none

/-- Whether and how an opcode uses a reference. -/
inductive Use where
  | absent | optional | required
deriving DecidableEq, Repr

/-- A reference: its offset, its use, whether it is a destination. -/
structure Ref where
  off : Nat
  use : Use
  dest : Bool := false
deriving DecidableEq, Repr

/-- The five header references in order. -/
def hdrRefs (d s0 s1 s2 s3 : Use) : List Ref :=
  [⟨0x08, d, true⟩, ⟨0x0A, s0, false⟩, ⟨0x0C, s1, false⟩, ⟨0x0E, s2, false⟩, ⟨0x10, s3, false⟩]

def useIf (b : Bool) : Use := if b then .required else .absent

/-- What an opcode fixes: the class flags it defines (a mask over FLAGS[7:4]) and its references. -/
structure OpInfo where
  flagMask : Nat := 0
  refs : List Ref
deriving DecidableEq, Repr

/-- The opcodes of each class (R93, R210, R236, R272, R298, R312, R331, R455, R91, R204, R206, R391, R396, R494) with the
references they use; none for an undefined one (check 1 of R77). -/
def opInfo (raw : List Byte) : Option OpInfo :=
  let aflags := u16 raw 0x38
  let bias := bits aflags 4 3 != 0
  match cls raw, opc raw with
  | 1, 1 => some ⟨0x30, hdrRefs .optional .optional .optional
      (if bit (flags raw) 5 then .required else .optional) (if bit (flags raw) 4 then .required else .optional)⟩
  | 2, 1 => some ⟨0, hdrRefs .required .required .required .required (useIf bias) ++
      [⟨0x20, .optional, true⟩, ⟨0x22, useIf (bit aflags 2), false⟩]⟩
  | 2, 2 => some ⟨0, hdrRefs .required .required .required .absent .absent ++ [⟨0x20, .optional, true⟩]⟩
  | 2, 3 => some ⟨0, hdrRefs .required .required .required .required (useIf bias) ++
      [⟨0x20, .required, false⟩, ⟨0x22, useIf (bit aflags 2), false⟩, ⟨0x34, .required, false⟩, ⟨0x36, .required, false⟩]⟩
  | 2, 4 => some ⟨0, hdrRefs .required .required .required .required (useIf bias) ++
      [⟨0x20, .required, false⟩, ⟨0x22, useIf (bit aflags 2), false⟩, ⟨0x34, .required, false⟩, ⟨0x36, .required, false⟩,
       ⟨0x3A, .required, true⟩]⟩
  | 3, 1 => some ⟨0x10, hdrRefs .required .required .absent .absent .absent⟩
  | 3, 2 => some ⟨0x10, [⟨0x08, .required, true⟩, ⟨0x0A, .required, false⟩, ⟨0x0C, .required, true⟩,
      ⟨0x0E, .absent, false⟩, ⟨0x10, .absent, false⟩]⟩
  | 3, 3 => some ⟨0x10, hdrRefs .required .required .required .absent .absent⟩
  | 4, 1 => some ⟨0, hdrRefs .required .required .required (useIf (bits (u8 raw 0x24) 1 0 != 0)) .absent⟩
  | 4, 2 => some ⟨0, hdrRefs .required .required .required (useIf (bits (u8 raw 0x21) 1 0 != 0)) .absent⟩
  | 4, 3 => some ⟨0, hdrRefs .required .required .required .required (useIf (bits (u16 raw 0x2C) 2 1 == 1)) ++
      [⟨0x20, .optional, true⟩]⟩
  | 4, 4 => some ⟨0, hdrRefs .required .required .required .required .required ++
      [⟨0x20, .required, true⟩, ⟨0x22, .required, true⟩]⟩
  | 4, 5 => some ⟨0x10, hdrRefs .required .required .absent .absent .absent ++ [⟨0x22, .optional, true⟩]⟩
  | 4, 6 => some ⟨0, hdrRefs .required .absent .absent .absent .absent⟩
  | 4, 0x10 => some ⟨0, hdrRefs .absent .absent .absent .absent .absent⟩
  | 4, 0x11 => some ⟨0, hdrRefs .absent .required .absent .absent .absent⟩
  | 4, 0x12 => some ⟨0, hdrRefs .absent .absent .absent .absent .absent⟩
  | 4, 0x13 => some ⟨0, hdrRefs .absent .absent .absent .absent .absent⟩
  | 5, 1 => some ⟨0, hdrRefs .absent .required .required .absent .absent⟩
  | 5, 2 => some ⟨0, hdrRefs .required .optional .required .absent .absent ++ [⟨0x22, .optional, true⟩]⟩
  | 5, 3 => some ⟨0, hdrRefs .absent .absent .absent .absent .absent⟩
  | 5, 4 => some ⟨0, hdrRefs .absent .absent .absent .absent .absent⟩
  | 5, 5 => some ⟨0, hdrRefs .required .absent .absent .absent .absent ++ [⟨0x2C, .optional, true⟩]⟩
  | 5, 6 => some ⟨0, hdrRefs .absent .required .absent .absent .absent⟩
  | 6, 1 => some ⟨0, hdrRefs .required .required .absent .absent .absent⟩
  | 7, 1 => some ⟨0, hdrRefs .absent .absent .absent .absent .absent⟩
  | 7, 2 => some ⟨0, hdrRefs .absent .absent .absent .absent .absent⟩
  | 7, 3 => some ⟨0, hdrRefs .absent .absent .absent .absent .absent⟩
  | 7, 4 => some ⟨0, hdrRefs .absent .absent .absent .absent .absent⟩
  | 7, 5 => some ⟨0, hdrRefs .required (if u8 raw 0x20 = 0 then .optional else .absent) .absent .absent .absent⟩
  | 7, 6 => some ⟨0, hdrRefs .absent .required .absent .absent .absent⟩
  | 7, 7 => some ⟨0, hdrRefs .absent .absent .absent .absent .absent⟩
  | _, _ => none

/-- The references an operand's destinations stand at (R85). -/
def destOffs (raw : List Byte) : List Nat :=
  match opInfo raw with
  | some i => (i.refs.filter fun r => r.dest && r.use != .absent && present (u16 raw r.off)).map (·.off)
  | none => []

/-- The references its sources stand at. -/
def srcOffs (raw : List Byte) : List Nat :=
  match opInfo raw with
  | some i => (i.refs.filter fun r => !r.dest && r.use != .absent && present (u16 raw r.off)).map (·.off)
  | none => []

/-- The command's destination extents (R85). -/
def Cmd.dests (c : Cmd) : List Desc := (destOffs c.raw).filterMap c.desc
def Cmd.srcs (c : Cmd) : List Desc := (srcOffs c.raw).filterMap c.desc

/- ---- parts of the machine ---- -/

/-- TESSERAE_PER_CD by grade (R1, R30). -/
def State.tessPerCd (s : State) : Nat :=
  match s.grade with
  | 0 => 128
  | 1 => 120
  | _ => 112

/-- Docent-active banks per array die of a plan (R21). -/
def planBudget : Nat → Nat
  | 0 => 16
  | 1 => 24
  | 2 => 32
  | _ => 40

/-- The function of a context as 64 * port + function. -/
def Ctx.fn (c : Ctx) : Nat := 64 * c.port + c.func

/-- A semaphore assigned to a context (R88, R474). -/
def Ctx.owns (c : Ctx) (n : Nat) : Bool := decide (c.semFirst ≤ n) && decide (n < c.semFirst + c.semCount)

/- ---- bank-pool operands (R263, R266) ---- -/

/-- Index tuples of the rows of a descriptor: every tuple of the dimensions above 0. -/
def Desc.rows (d : Desc) : List (List Nat) := tuples (d.size.drop 1)

/-- The size of dimension i (1 above NDIM). -/
def Desc.dim (d : Desc) (i : Nat) : Nat := d.size.getD i 1

/-- The bank of an element of a bank-pool operand: stack and bank, or none where it does not translate into the bank pool. -/
def State.bankOf (s : State) (ctx : Nat) (d : Desc) (idx : List Nat) : Option (Nat × Nat) × State :=
  match s.resolve ctx (d.elem idx).1 false { bank := some true, remote := false } with
  | (.ok pa, s1) => (some (bits pa 40 37, 64 * bits pa 36 33 + bits pa 32 27), s1)
  | (.error _, s1) => (none, s1)

/-- The banks of many elements, none at the first that does not translate. -/
def State.banksOf (s : State) (ctx : Nat) (d : Desc) : List (List Nat) → Option (List (Nat × Nat)) × State
  | [] => (some [], s)
  | i :: r =>
    match s.bankOf ctx d i with
    | (none, s1) => (none, s1)
    | (some b, s1) =>
      match s1.banksOf ctx d r with
      | (none, s2) => (none, s2)
      | (some l, s2) => (some (b :: l), s2)

/-- All elements of a list are one bank. -/
def oneBank : List (Nat × Nat) → Bool
  | [] => true
  | b :: r => r.all (· == b)

/- ---- functions (R435, R439, R469) ---- -/

/-- The strap arrangement enables a port (R435). -/
def State.portEnabled (s : State) (p : Nat) : Bool := p == 0 || (p == 1 && bits s.boot.straps 7 6 != 3)

/-- A function is enabled (R439). -/
def State.fnEnabled (s : State) (fn : Nat) : Bool := s.portEnabled (fn / 64) && decide (fn % 64 ≤ (s.hport (fn / 64)).numVf)

/-- BAR0 of a function answers: the function is enabled and the module has booted. -/
def State.barOpen (s : State) (fn : Nat) : Bool :=
  decide (fn < 128) && s.fnEnabled fn && (s.boot.st == .ready || (s.boot.st == .recovery && isPf fn))

/-- BAR0 answers beyond the GL_ range: not in RECOVERY (R469). -/
def State.regsOpen (s : State) (fn : Nat) : Bool := s.barOpen fn && s.boot.st == .ready

end Sys2Proof.Machine
end

