-- ==== Sys2Proof/Machine/Accept.lean ====
section
/-! DEFINITION. The submission checks of R77, in order: each class's formats (check 4), worst-case time (check 10, R372 to
R376) and operand rules (check 11). -/

namespace Sys2Proof.Machine

/-- Offset-indexed access to the resolved descriptors of a command under check. -/
abbrev Descs := List (Nat × Desc)
def dAt (ds : Descs) (off : Nat) : Option Desc := (ds.find? (·.1 == off)).map (·.2)
def dGet (ds : Descs) (off : Nat) : Desc := (dAt ds off).getD Desc.none
def dHas (ds : Descs) (off : Nat) : Bool := (dAt ds off).isSome

/- ---- check 2 ---- -/

/-- Reserved header fields, and the reserved bits of every reference, are zero (R73, R74, R75 and each class's flags; the
references of the operand area: log entry 24). -/
def headerOk (raw : List Byte) (info : OpInfo) : Bool :=
  let c := cls raw
  let t := target raw
  let invalidate := c == 7 && opc raw == 6
  bits (flags raw) 15 8 == 0 && (flags raw &&& (0xF0 - info.flagMask)) == 0 && bits t 14 10 == 0 &&
  info.refs.all (fun r => bits (u16 raw r.off) 14 12 == 0) &&
  (if c == 3 || invalidate then !bit t 15 && bits t 6 0 == 0 else if 4 ≤ c then t == 0 else true)

/- ---- check 3 ---- -/

/-- The first reference that fails check 3 (R77, R238), in order of offset: a present one with an invalid slot, be it one the
opcode does not use, a destination not writable, or a required reference absent. -/
def refFail (s : State) (ctx : Nat) (raw : List Byte) (refs : List Ref) : Option Nat :=
  (refs.find? fun r =>
    let w := u16 raw r.off
    if present w then
      match s.desc (4096 * ctx + bits w 11 0) with
      | none => true
      | some d => (r.dest && r.use != .absent || r.off == 0x08) && !d.writable
    else r.use == .required).map (·.off)

/-- The descriptors the present references name (R208). -/
def resolveRefs (s : State) (ctx : Nat) (raw : List Byte) (refs : List Ref) : Descs :=
  refs.filterMap fun r =>
    let w := u16 raw r.off
    if present w then (s.desc (4096 * ctx + bits w 11 0)).map fun d => (r.off, d) else none

/-- A reference the opcode does not use is present (check 11). -/
def strayRef (raw : List Byte) (refs : List Ref) : Bool := refs.any fun r => r.use == .absent && present (u16 raw r.off)

/- ---- check 4 ---- -/

/-- The first descriptor, in the order of R77, whose format the predicate refuses. -/
def fmtFail (l : List (Option Desc × (Fmt → Bool))) : Option Nat :=
  (l.find? fun p => match p.1 with
    | some d => !p.2 d.fmt
    | none => false).bind fun p => p.1.map fun d => d.fmt.code

def isWide (f : Fmt) : Bool := [Fmt.fp32, .fp16, .bf16].contains f
def isOut (f : Fmt) : Bool := [Fmt.fp32, .bf16, .fp16, .e4m3, .e5m2].contains f
def isQElem (f : Fmt) : Bool := [Fmt.e5m2, .e4m3, .e3m2, .e2m3, .e2m1, .int16, .int8, .int4].contains f
def isAttnIn (f : Fmt) : Bool := [Fmt.e4m3, .e5m2, .bf16, .fp16].contains f
/-- The scale formats of an element format (R212, R274). -/
def scaleOk (e sc : Fmt) : Bool := if e.isInt then sc == .fp32 else sc.isScale
/-- The vector formats a bank operand takes (R274). -/
def vecOk (w x : Fmt) : Bool := [Fmt.bf16, .fp16, .e4m3].contains x && !(w == .bf16 && x == .fp16)

/-- Check 4 of R77 for an opcode: the code of the first format that fails. -/
def formatFail (s : State) (ctx : Nat) (raw : List Byte) (ds : Descs) : Option Nat :=
  let D := dAt ds 0x08
  let S0 := dAt ds 0x0A
  let S1 := dAt ds 0x0C
  let S2 := dAt ds 0x0E
  let S3 := dAt ds 0x10
  let f0 := (dGet ds 0x0A).fmt
  let fD := (dGet ds 0x08).fmt
  let partial1 := bit (u16 raw 0x38) 5
  let grad (f : Fmt) : Bool := f == .fp32 || f == .bf16
  match cls raw, opc raw with
  | 1, 1 => fmtFail [(if bit (flags raw) 5 then S2 else none, (· == .uint8)),
      (if bit (flags raw) 4 then S3 else none, (· == .uint8))]
  | 2, 1 => fmtFail [(D, fun f => if partial1 then f == .fp32 else isOut f), (S0, isAttnIn), (S1, isAttnIn), (S2, isAttnIn),
      (S3, (· == .fp16)), (dAt ds 0x20, (· == .fp32)), (dAt ds 0x22, (· == .uint8))]
  | 2, 2 => fmtFail [(D, fun f => if partial1 then f == .fp32 else isOut f), (S0, (· == .fp32)), (S1, (· == .fp32)),
      (dAt ds 0x20, (· == .fp32))]
  | 2, _ => fmtFail [(D, grad), (S0, (· == .bf16)), (S1, (· == .bf16)), (S2, (· == .bf16)), (S3, (· == .fp16)),
      (dAt ds 0x20, (· == .fp32)), (dAt ds 0x22, (· == .uint8)), (dAt ds 0x34, (· == .bf16)), (dAt ds 0x36, (· == .bf16)),
      (dAt ds 0x3A, grad)]
  | 3, 1 => fmtFail [(S0, fun f => convPair f fD)]
  | 3, 2 => fmtFail [(D, isQElem), (S0, isWide), (S1, scaleOk fD)]
  | 3, 3 => fmtFail [(D, isWide), (S0, isQElem), (S1, scaleOk f0)]
  | 4, 1 => fmtFail [(D, isWide), (S0, fun f => [Fmt.bf16, .e4m3, .e5m2, .e2m1, .int8].contains f), (S1, vecOk f0),
      (S2, fun f => f0 != .bf16 && scaleOk f0 f)]
  | 4, 2 => fmtFail [(D, isWide), (S0, fun f => [Fmt.fp32, .bf16, .fp16, .e4m3, .e5m2, .e2m1, .int8].contains f),
      (S1, (· == .int32)), (S2, fun f => !isWide f0 && scaleOk f0 f)]
  | 4, 3 => fmtFail [(D, fun f => if bit (u16 raw 0x2C) 0 then f == .fp32 else isOut f),
      (S0, fun f => match (s.ctx ctx).layout with
        | some l => vecOk l.fmt f
        | none => vecOk .e4m3 f),
      (S1, (· == .int32)), (S2, (· == .int32)), (S3, (· == .fp16)), (dAt ds 0x20, (· == .fp32))]
  | 4, 4 => fmtFail [(D, grad), (S0, grad), (S1, grad), (S2, grad), (S3, grad), (dAt ds 0x20, grad), (dAt ds 0x22, grad)]
  | 4, 5 => if dHas ds 0x22 then fmtFail [(D, isQElem), (S0, isWide), (dAt ds 0x22, scaleOk fD)]
      else fmtFail [(S0, fun f => convPair f fD)]
  | 4, 0x11 => fmtFail [(S0, (· == .int32))]
  | 7, 5 => fmtFail [(D, (· == .uint8))]
  | _, _ => none

/- ---- check 6 ---- -/

/-- A destination overlaps a source, or another destination where the opcode says so (R212, R240, R285). Every present
reference that is no destination counts as a source, even one the opcode does not use (log entry 22). -/
def overlapFail (raw : List Byte) (ds : Descs) : Bool :=
  let dst := (destOffs raw).filterMap (dAt ds)
  let src := (ds.filter fun d => !(destOffs raw).contains d.1).map (·.2)
  dst.any (fun d => src.any fun x => d.overlaps x) ||
  ((cls raw == 2 || (cls raw == 3 && opc raw == 2) || (cls raw == 4 && opc raw == 5)) && pairwise dst)
where
  pairwise : List Desc → Bool
    | [] => false
    | d :: r => r.any (fun x => d.overlaps x) || pairwise r

/- ---- check 8 ---- -/

def semFail (s : State) (ctx : Nat) (raw : List Byte) : Bool :=
  let refs := [u16 raw 0x14, u16 raw 0x16] ++ (if cls raw == 7 && opc raw == 2 then [u16 raw 0x20] else [])
  refs.any fun r => present r && !(s.ctx ctx).owns (semNo r)

/- ---- check 11: operand rules ---- -/

/-- G of a group code (R212, R275): 0 stands for none or the whole row. -/
def groupOf : Nat → Nat
  | 1 => 32
  | 2 => 64
  | 3 => 128
  | _ => 0

def strided1 (d : Desc) : Bool := !d.cg64 && d.stride.getD 0 0 == 1
def elemTensor (d : Desc) : Bool := d.cg64 || d.stride.getD 0 0 == 1
def dimOk (n : Nat) : Bool := decide (32 ≤ n) && decide (n ≤ 256) && n % 32 == 0

/-- Scale groups against G: the shape of R212's and R275's scales. -/
def scaleSize (k g : Nat) : Nat := if g = 0 then 1 else ceilDiv k g

/-- R239's shapes for the forward and backward opcodes. -/
def attnShapes (raw : List Byte) (ds : Descs) : Bool :=
  let q := dGet ds 0x0A
  let k := dGet ds 0x0C
  let v := dGet ds 0x0E
  let o := dGet ds 0x08
  let d := q.dim 0
  let dv := v.dim 0
  let nq := q.dim 1
  let nk := k.dim 1
  let hq := q.dim 2
  let hkv := k.dim 2
  let tail := q.size.drop 3
  let is (x : Desc) (l : List Nat) : Bool := x.size == l ++ tail
  let back := opc raw != 1
  let nqb := ceilDiv nq 64
  let nkb := ceilDiv nk 64
  let b := tail.getD 0 1
  (q.size.length == 3 || q.size.length == 4) && dimOk d && dimOk dv && decide (0 < hkv) && hq % hkv == 0 &&
  is k [d, nk, hkv] && is v [dv, nk, hkv] &&
  [q, k, v, o].all elemTensor &&
  (match opc raw with
   | 1 => is o [dv, nq, hq]
   | 3 => is o [d, nq, hq]
   | _ => is o [d, nk, hkv]) &&
  (match dAt ds 0x20 with
   | some x => is x [2, nq, hq]
   | none => !back) &&
  (match dAt ds 0x22 with
   | some x => x.size.length == 1 && x.stride.getD 0 0 == 1 && decide (ceilDiv (b * nqb * nkb) 8 ≤ x.dim 0)
   | none => true) &&
  (match dAt ds 0x10 with
   | some x => x.size == [128, hq]
   | none => true) &&
  (!back || (is (dGet ds 0x34) [dv, nq, hq] && is (dGet ds 0x36) [dv, nq, hq] && elemTensor (dGet ds 0x34) &&
    elemTensor (dGet ds 0x36))) &&
  (opc raw != 4 || (is (dGet ds 0x3A) [dv, nk, hkv] && elemTensor (dGet ds 0x3A)))

/-- R240 and R255. -/
def attnRules (raw : List Byte) (ds : Descs) : Bool :=
  let af := u16 raw 0x38
  if opc raw = 2 then
    let o := dGet ds 0x08
    let p := (dGet ds 0x0A).size.getD o.size.length 0
    (o.size.length == 3 || o.size.length == 4) && (dGet ds 0x0A).size == o.size ++ [p] &&
    (dGet ds 0x0C).size == 2 :: o.size.drop 1 ++ [p] && decide (0 < p) && elemTensor o && elemTensor (dGet ds 0x0A) &&
    (match dAt ds 0x20 with
     | some x => x.size == 2 :: o.size.drop 1
     | none => true) && dimOk (o.dim 0) &&
    (af == 0 || af == 0x20) && zeros raw 0x22 0x38 && zeros raw 0x3A 0x40
  else
    attnShapes raw ds &&
    u8 raw 0x2B == 0 && u8 raw 0x2F == 0 && u8 raw 0x33 == 0 && zeros raw 0x3C 0x40 && bits af 15 6 == 0 &&
    decide (bits af 4 3 ≤ 1) && decide (bits af 1 0 ≤ 1) && (opc raw == 1 || !bit af 5) &&
    (opc raw == 4 || u16 raw 0x3A == 0) && (bit af 2 || !present (u16 raw 0x22)) &&
    decide (u32 raw 0x28 + (dGet ds 0x0A).dim 1 ≤ 2 ^ 24) && decide (u32 raw 0x2C + (dGet ds 0x0C).dim 1 ≤ 2 ^ 24)

/-- R210 to R212. Reserved operand bytes are judged here, by check 11 (log entry 98). -/
def dmaRules (raw : List Byte) (ds : Descs) : Bool :=
  let d := dGet ds 0x08
  let s0 := dGet ds 0x0A
  let s1 := dGet ds 0x0C
  let g := groupOf (u8 raw 0x20)
  d.size == s0.size && (d.cg64 || d.stride.getD 0 0 == 1) && (s0.cg64 || s0.stride.getD 0 0 == 1 || s0.stride.getD 0 0 == 0) &&
  (if opc raw = 1 then zeros raw 0x20 0x40
   else zeros raw 0x21 0x40 && decide (u8 raw 0x20 ≤ 3) && s1.size == scaleSize (d.dim 0) g :: d.size.drop 1 &&
     (s1.fmt != .ue4m3 || g == 32 || g == 64))

/-- The operand rules of a RUN_GRID (R93, R225). Reserved operand bytes are judged here, by check 11 (log entry 98). -/
def gridRules (raw : List Byte) (ds : Descs) : Bool :=
  let items := u16 raw 0x28 * u16 raw 0x2A * u16 raw 0x2C
  let maskOk (m : Desc) : Bool := m.size.length == 1 && !m.cg64 && m.stride.getD 0 0 == 1
  u64 raw 0x20 % 256 == 0 && zeros raw 0x2E 0x30 &&
  (!bit (flags raw) 4 || (maskOk (dGet ds 0x10) && decide (ceilDiv items 8 ≤ (dGet ds 0x10).dim 0))) &&
  (!bit (flags raw) 5 || (maskOk (dGet ds 0x0E) && decide (2 ≤ (dGet ds 0x0A).size.length) &&
    decide (ceilDiv ((dGet ds 0x0A).dim 1) 8 ≤ (dGet ds 0x0E).dim 0)))

/-- The layout a CACHE_OPEN names (R298). -/
def layoutOf (raw : List Byte) : Layout :=
  let sc := u8 raw 0x2F
  { wbase := u64 raw 0x20, seqMax := u16 raw 0x28, layers := u16 raw 0x2A, hkv := u8 raw 0x2C, dm32 := u8 raw 0x2D,
    fmt := Fmt.ofCode (u8 raw 0x2E), scale := if sc % 4 = 0 then none else some (Fmt.ofCode (sc / 16), groupOf (sc % 4)),
    maxLog := u8 raw 0x30 }

/-- Pairs of a layout that a stack holds (R301). -/
def Layout.pairsIn (l : Layout) (k : Nat) : Nat := (List.range (l.layers * l.hkv)).countP fun p => p % 16 == k

/-- Level-1 table units of a layout in a stack (R309). -/
def Layout.l1Units (l : Layout) (k : Nat) : Nat := l.seqMax * l.pairsIn k * ceilDiv (ceilDiv l.npages 256 * 4) 1024

/-- Docent clocks that set the level-1 tables of a stack (R328): one for each 32 B. -/
def Layout.l1Clocks (l : Layout) (k : Nat) : Nat := l.seqMax * l.pairsIn k * ceilDiv (ceilDiv l.npages 256 * 4) 32

/-- Level-2 blocks in use in a stack (R309): ranges of 256 page numbers with a valid entry. -/
def blocksIn (k : Nat) (ps : List PageEntry) : List (Nat × Nat × Nat × Nat) :=
  let rec dd : List (Nat × Nat × Nat × Nat) → List (Nat × Nat × Nat × Nat)
    | [] => []
    | b :: r => b :: (dd r).filter (· != b)
  dd ((ps.filter fun e => e.stack == k && e.st != .invalid).map fun e => (e.ctx, e.seq, e.pair, e.page / 256))

/-- An accepted, uncommitted CACHE_OPEN that has not failed (R300, R309). -/
def Cmd.opensCache (c : Cmd) : Bool :=
  cls c.raw == 4 && opc c.raw == 0x10 && c.ending.all fun e => e.status == .ok

/-- Free 1 KiB table units of a stack (R308, R309): neither in the level-1 tables of layouts, nor held for a CACHE_OPEN, nor
level-2 blocks. -/
def State.tblFree (s : State) (k : Nat) : Nat :=
  let l1 := (s.ctxs.map fun c => match c.2.layout with
    | some l => l.l1Units k
    | none => 0).foldl (· + ·) 0
  let opening := ((s.cmds.filter Cmd.opensCache).map fun c => (layoutOf c.raw).l1Units k).foldl (· + ·) 0
  (s.stack k).tblUnits * 65536 - l1 - opening - (blocksIn k s.pages).length

/-- R298 to R300. -/
def cacheOpenRules (s : State) (ctx : Nat) (raw : List Byte) : Bool :=
  let l := layoutOf raw
  let sc := u8 raw 0x2F
  let kv := u8 raw 0x2E
  let ranges := l.wbase % 65536 == 0 && decide (l.wbase < 2 ^ 52) && decide (1 ≤ l.seqMax) && decide (1 ≤ l.layers) &&
    decide (l.layers ≤ 1024) && decide (1 ≤ l.hkv) && decide (l.hkv ≤ 64) && decide (1 ≤ l.dm32) && decide (l.dm32 ≤ 8) &&
    [2, 3, 4, 7, 10].contains kv && bits sc 3 2 == 0 && decide (12 ≤ l.maxLog) && decide (l.maxLog ≤ 24) && zeros raw 0x31 0x40
  let scales := if sc % 4 = 0 then sc == 0 && (kv == 2 || kv == 3 || kv == 4)
    else match kv with
      | 3 | 4 | 7 => sc / 16 == 0xE || (sc / 16 == 0xF && sc % 4 != 3)
      | 10 => sc / 16 == 0
      | _ => false
  ranges && scales && decide (l.window ≤ 2 ^ 51) && decide (l.wbase + l.window ≤ 2 ^ 52) &&
  (List.range 16).all (fun k => l.pairsIn k == 0 || (decide (l.side ≤ sideBytes (s.stack k).sidemax) &&
    decide (0 < (s.stack k).tblUnits) && decide (l.l1Units k ≤ s.tblFree k))) &&
  (s.ctx ctx).layout.isNone &&
  !(s.cmds.any fun c => c.id.ctx == ctx && c.opensCache)

/-- G allowed for a bank element format and scale format (R274). -/
def bankGroupOk (f : Fmt) (g : Nat) (sc : Option Fmt) : Bool :=
  match sc with
  | none => f != .e2m1 && f != .int8
  | some .ue4m3 => g == 32 || g == 64
  | some _ => true

/-- Shapes and operand fields of the docent opcodes (reason 0x01 of R267). -/
def docentShapes (s : State) (ctx : Nat) (raw : List Byte) (ds : Descs) : Bool :=
  let D := dGet ds 0x08
  let S0 := dGet ds 0x0A
  let S1 := dGet ds 0x0C
  let S2 := dGet ds 0x0E
  match opc raw with
  | 1 =>
    let gc := u8 raw 0x24
    let g := groupOf gc
    let k := S0.dim 0
    let n := S0.dim 1
    let v := S1.dim 1
    decide (gc ≤ 3) && zeros raw 0x25 0x40 && S0.size.length == 2 && strided1 S0 && S1.size == [k, v] && strided1 S1 &&
    decide (1 ≤ v) && decide (v ≤ 16) && D.size == [n, v] && bankGroupOk S0.fmt g ((dAt ds 0x0E).map (·.fmt)) &&
    (g == 0 || (k % g == 0 && S2.size == [k / g, n] && strided1 S2))
  | 2 =>
    let gc := u8 raw 0x21
    let g := groupOf gc
    let e := S0.dim 0
    let r := S0.dim 1
    decide (u8 raw 0x20 ≤ 2) && decide (gc ≤ 3) && zeros raw 0x22 0x40 && S0.size.length == 2 && strided1 S0 &&
    S1.size.length == 2 && strided1 S1 && D.size == [e, S1.dim 1] && bankGroupOk S0.fmt g ((dAt ds 0x0E).map (·.fmt)) &&
    (g == 0 || (e % g == 0 && S2.size == [e / g, r] && strided1 S2))
  | 3 =>
    match (s.ctx ctx).layout with
    | none => true
    | some l =>
      let hq := S0.dim 1
      let b := S0.dim 2
      let af := u16 raw 0x2C
      let tau := Fmt.fp32.decode (u32 raw 0x28)
      S0.size == [l.d, hq, b] && decide (0 < hq) && hq % l.hkv == 0 && S1.size == [b] && S2.size == [b] && D.size == [l.d, hq, b] &&
      decide (u16 raw 0x22 < l.layers) && bits af 15 3 == 0 && decide (bits af 2 1 ≤ 1) && zeros raw 0x2E 0x40 &&
      (match dAt ds 0x10 with
       | some x => x.size == [128, hq]
       | none => true) &&
      (match dAt ds 0x20 with
       | some x => x.size == [2, hq, b]
       | none => true) &&
      (match tau with
       | .nan => false
       | .inf neg => !neg
       | .fin neg m _ => !neg || m == 0)
  | 4 =>
    [0x0A, 0x0C, 0x0E, 0x10, 0x20, 0x22].all (fun o => (dGet ds o).size == D.size) && u64 raw 0x28 % 32 == 0 &&
    zeros raw 0x24 0x28 && zeros raw 0x30 0x40
  | 5 =>
    let g := groupOf (u8 raw 0x20)
    S0.size == D.size && u8 raw 0x21 == 0 && zeros raw 0x24 0x40 && decide (u8 raw 0x20 ≤ 3) &&
    (match dAt ds 0x22 with
     | none => u8 raw 0x20 == 0 && (u16 raw 0x22 == 0 || !present (u16 raw 0x22))
     | some sc => sc.size == scaleSize (D.dim 0) g :: D.size.drop 1 && (sc.fmt != .ue4m3 || g == 32 || g == 64))
  | 6 => zeros raw 0x24 0x40 && decide (u32 raw 0x20 < 2 ^ D.fmt.bits)
  | 0x10 => cacheOpenRules s ctx raw
  | 0x11 => S0.size.length == 2 && S0.dim 0 == 2 && strided1 S0 && zeros raw 0x20 0x40
  | _ => zeros raw 0x20 0x40

/-- The bank-pool operands of a docent opcode (R272). -/
def bankOperands (raw : List Byte) : List Nat :=
  match opc raw with
  | 1 | 2 => [0x0A, 0x0E]
  | 4 => [0x08, 0x0C, 0x0E, 0x10, 0x20, 0x22]
  | 5 => [0x08, 0x0A, 0x22]
  | 6 => [0x08]
  | _ => []

/-- The groups of elements that must share a bank (R266), in task order: one group a row, or an element for OPT_STEP. -/
def docentGroups (raw : List Byte) (ds : Descs) : List (List (Desc × List (List Nat))) :=
  let row (off : Nat) (rest : List Nat) : List (Desc × List (List Nat)) :=
    match dAt ds off with
    | some d => [(d, (List.range (d.dim 0)).map fun i => i :: rest)]
    | none => []
  match opc raw with
  | 1 | 2 => (dGet ds 0x0A).rows.map fun r => row 0x0A r ++ row 0x0E r
  | 4 => (tuples (dGet ds 0x08).size).map fun t => [0x0C, 0x0E, 0x10, 0x08, 0x20, 0x22].map fun o => (dGet ds o, [t])
  | 5 => (dGet ds 0x0A).rows.map fun r => row 0x0A r ++ row 0x08 r ++ row 0x22 r
  | 6 => (dGet ds 0x08).rows.map fun r => row 0x08 r
  | _ => []

/-- The banks of a group's elements. -/
def State.groupBanks (s : State) (ctx : Nat) : List (Desc × List (List Nat)) → Option (List (Nat × Nat)) × State
  | [] => (some [], s)
  | (d, is) :: r =>
    match s.banksOf ctx d is with
    | (none, s1) => (none, s1)
    | (some l, s1) =>
      match s1.groupBanks ctx r with
      | (none, s2) => (none, s2)
      | (some m, s2) => (some (l ++ m), s2)

/-- The bank of every group, or the reason of R267 (0x02 before 0x03). -/
def State.placeGroups (s : State) (ctx : Nat) : List (List (Desc × List (List Nat))) → Except Nat (List (Nat × Nat)) × State
  | [] => (.ok [], s)
  | g :: r =>
    let (b, s1) := s.groupBanks ctx g
    let (rest, s2) := s1.placeGroups ctx r
    (match b, rest with
     | none, _ => .error 2
     | _, .error 2 => .error 2
     | some l, rest => if oneBank l then (match rest with
         | .ok m => .ok (l.getD 0 (0, 0) :: m)
         | .error e => .error e) else .error 3, s2)

/-- Bytes of a result format of DISPATCH and COMBINE. -/
def resultFmt (c : Nat) : Option Fmt := if c ≤ 2 then some (Fmt.ofCode c) else none

/-- The expert map entry fields of R329. -/
def expertValid (e : Nat) : Bool := bit e 31
def expertModule (e : Nat) : Nat := bits e 29 24
def expertSlot (e : Nat) : Nat := bits e 23 16
def expertOwner (e : Nat) : Nat := bits e 15 8
def State.expertEntry (s : State) (n : Nat) : Nat := Assoc.get 0 s.expert n

/-- The owner of a slot of this module, by this module's own map. -/
def State.slotOwner (s : State) (slot : Nat) : Option Nat :=
  (s.expert.find? fun e => expertValid e.2 && expertModule e.2 == s.modid && expertSlot e.2 == slot).map fun e => expertOwner e.2

/-- R332, R335, R345, R347, R348, R350. -/
def courierRules (s : State) (ctx : Nat) (raw : List Byte) (ds : Descs) : Bool :=
  let D := dGet ds 0x08
  let S0 := dGet ds 0x0A
  let S1 := dGet ds 0x0C
  let rowOk (n : Nat) : Bool := decide (32 ≤ n) && decide (n ≤ 16384) && n % 32 == 0
  let first := u16 raw 0x24
  let count := u16 raw 0x26
  let slots := decide (first ≤ 255) && decide (1 ≤ count) && decide (first + count ≤ 256) && zeros raw 0x2E 0x40 &&
    (List.range count).all fun i => s.slotOwner (first + i) == some ctx
  match opc raw with
  | 1 =>
    match resultFmt (u8 raw 0x21) with
    | none => false
    | some rf =>
      let t := S0.dim 1
      let k := S1.dim 0
      decide (u8 raw 0x20 < 64) && zeros raw 0x28 0x40 && S0.size.length == 2 && strided1 S0 && !S0.fmt.isScale &&
      S0.dim 0 * S0.fmt.nibbles % 2 == 0 && rowOk (S0.dim 0 * S0.fmt.nibbles / 2) && S1.fmt == .int32 && S1.size == [k, t] && strided1 S1 &&
      decide (1 ≤ k) && decide (k ≤ 16) && decide (t * k ≤ 65536) && rowOk (u16 raw 0x22 * rf.bytes) &&
      decide (t * k * u16 raw 0x22 * rf.bytes ≤ s.resMib * 1048576)
  | 2 =>
    let h := D.dim 0
    let t := D.dim 1
    let k := S1.dim 0
    decide (u8 raw 0x20 < 64) && u8 raw 0x21 == 0 && (resultFmt (u8 raw 0x24)).isSome && zeros raw 0x25 0x40 &&
    D.size == [h, t] && isWide D.fmt && S1.size == [k, t] && S1.fmt == .fp32 &&
    (match dAt ds 0x0A with
     | some b => b.size == [h, t] && isWide b.fmt
     | none => true) &&
    (match dAt ds 0x22 with
     | some o => o.size == [k, t] && o.fmt == .uint8
     | none => true)
  | 3 => slots && decide (1 ≤ u16 raw 0x28) && decide (u16 raw 0x28 ≤ 4096) && rowOk (u16 raw 0x2A) && zeros raw 0x2C 0x2E
  | 4 => slots && zeros raw 0x20 0x24 && zeros raw 0x28 0x2E
  | 5 => slots && zeros raw 0x28 0x2C && D.size.length == 3 && D.dim 2 == count &&
    (match dAt ds 0x2C with
     | some c => c.size == [count] && c.fmt == .int32
     | none => true)
  | _ => slots && zeros raw 0x28 0x2E && S0.size.length == 3 && S0.dim 2 == count

/-- R204, R206, R91, R391, R396 and R494. Reserved operand bytes are judged here, by check 11 (log entry 98). -/
def controlRules (s : State) (ctx : Nat) (raw : List Byte) (ds : Descs) : Bool :=
  match opc raw with
  | 1 => decide (u16 raw 0x20 < 4096) && zeros raw 0x22 0x28 && u64 raw 0x28 % 64 == 0 && zeros raw 0x30 0x40
  | 2 => present (u16 raw 0x20) && zeros raw 0x22 0x24 && zeros raw 0x28 0x40
  | 3 =>
    let f := u16 raw 0x22
    decide (u16 raw 0x20 < 1024) && decide (f < 8) && zeros raw 0x24 0x28 && zeros raw 0x38 0x40 &&
    (if bit f 0 then u64 raw 0x28 % 4096 == 0 && decide (u64 raw 0x28 < 2 ^ 52) && u64 raw 0x30 % 4096 == 0 &&
        decide (4096 ≤ u64 raw 0x30) && decide (u64 raw 0x28 + u64 raw 0x30 ≤ 2 ^ 52)
      else f == 0 && zeros raw 0x28 0x38)
  | 4 => decide (u16 raw 0x20 < 4096) && zeros raw 0x22 0x40
  | 5 =>
    let d := dGet ds 0x08
    d.size.length == 1 && strided1 d && decide (288 ≤ d.dim 0) &&
    (if u8 raw 0x20 = 0 then dHas ds 0x0A && zeros raw 0x21 0x40
     else u8 raw 0x20 == 1 && (s.ctx ctx).func == 0 && zeros raw 0x21 0x24 && decide (u8 raw 0x24 < 16) && u8 raw 0x25 == 0 &&
       decide (u16 raw 0x26 < 1024) && decide (1 ≤ u16 raw 0x28) && decide (u16 raw 0x26 + u16 raw 0x28 ≤ 1024) &&
       zeros raw 0x2A 0x2C && decide (1 ≤ u32 raw 0x30) && decide (u32 raw 0x2C < 65536) &&
       decide (u32 raw 0x2C + u32 raw 0x30 ≤ 49152) && zeros raw 0x34 0x40)
  | 6 => decide (u8 raw 0x20 ≤ 1) && zeros raw 0x21 0x40
  | _ => decide (u8 raw 0x20 < 64) && u8 raw 0x20 != s.modid && u8 raw 0x21 == 0 && present (u16 raw 0x22) &&
    decide (1 ≤ u16 raw 0x24) && zeros raw 0x26 0x40

/-- What the lowest byte of an operand translates into (R455). -/
def State.lowest (s : State) (ctx : Nat) (d : Desc) : Option Nat × State :=
  match s.translate ctx d.extent.1 false with
  | (.ok pa, s1) => (some pa, s1)
  | (_, s1) => (none, s1)

/-- R455's rules: exactly one operand lies in the host window, the other has no host address; one whose lowest byte is remote is
no host operand, and its translation fails when the copy runs (R203). -/
def State.hcopyRules (s : State) (ctx : Nat) (raw : List Byte) (ds : Descs) : Bool × State :=
  let d := dGet ds 0x08
  let s0 := dGet ds 0x0A
  let (pd, s1) := s.lowest ctx d
  let (ps, s2) := s1.lowest ctx s0
  let isHost (p : Option Nat) : Bool := match p with
    | some a => isHostWin a
    | none => false
  (d.fmt == s0.fmt && d.size == s0.size && strided1 d && strided1 s0 && zeros raw 0x20 0x40 &&
   isHost pd != isHost ps && (if isHost pd then !d.bank else !s0.bank), s2)

/- ---- check 10: worst-case time, in units of 1/80 of a fabric cycle at the worst clock condition (R372): 147 a ns ---- -/

def tFab (n : Nat) : Nat := 80 * n
def tArith (n : Nat) : Nat := 640 * n
def tDoc (n : Nat) : Nat := 320 * n
def tCtl (n : Nat) : Nat := 640 * n
def tNs (n : Nat) : Nat := 147 * n

/-- L_E of a class in ns (R376). -/
def limitNs : Nat → Nat
  | 1 => 64000
  | 2 => 512000
  | 3 => 2000000
  | 4 => 4000000
  | 5 => 8000000
  | _ => 64000000

/-- The packed bytes of all elements of a descriptor. -/
def Desc.bytesAll (d : Desc) : Nat := ceilDiv (d.count * d.fmt.nibbles) 2

/-- The bytes a DMA command writes through a destination: its elements, and the padding lanes of CG64 (R201). -/
def Desc.bytesOut (d : Desc) : Nat :=
  if d.cg64 then ceilDiv ((d.size.drop 1).foldl (· * ·) (ceilDiv (d.dim 0) 64 * 64) * d.fmt.nibbles) 2 else d.bytesAll

/-- T of R235 and the per-unit cycles of R254. -/
def attnUnitCycles (raw : List Byte) (ds : Descs) : Nat :=
  let q := dGet ds 0x0A
  let v := dGet ds 0x0E
  let o := dGet ds 0x08
  let d := q.dim 0
  let dv := v.dim 0
  let narrow (f : Fmt) : Bool := f == .e4m3 || f == .e5m2
  let cs := if narrow q.fmt && narrow (dGet ds 0x0C).fmt then d else 4 * d
  let cv := if narrow v.fmt then dv else 4 * dv
  let t := max (max cs cv) 65
  let nkb := ceilDiv ((dGet ds 0x0C).dim 1) 64
  let nqb := ceilDiv (q.dim 1) 64
  match opc raw with
  | 1 => d * q.fmt.bytes / 2 + nkb * t + 300 + dv * o.fmt.bytes / 2
  | 2 =>
    let p := q.size.getD o.size.length 1
    p * max (2 * o.dim 0) 65 + 300 + o.dim 0 * o.fmt.bytes / 2
  | 3 => 3 * d + nkb * max (6 * d) 128 + 300 + d * o.fmt.bytes / 2
  | _ => 2 * d + (q.dim 2 / (dGet ds 0x0C).dim 2) * nqb * max (8 * d) 128 + 300 +
      d * (o.fmt.bytes + (dGet ds 0x3A).fmt.bytes) / 2

/-- Units of an attention command (R241). -/
def attnUnits (raw : List Byte) (ds : Descs) : Nat :=
  let q := dGet ds 0x0A
  let o := dGet ds 0x08
  match opc raw with
  | 2 => ceilDiv (o.dim 1) 64 * o.dim 2 * o.dim 3
  | 4 => ceilDiv ((dGet ds 0x0C).dim 1) 64 * (dGet ds 0x0C).dim 2 * q.dim 3
  | _ => ceilDiv (q.dim 1) 64 * q.dim 2 * q.dim 3

/-- Docent clocks of one group (R294). -/
def groupClocks (raw : List Byte) (ds : Descs) : Nat :=
  let w := dGet ds 0x0A
  match opc raw with
  | 1 =>
    let k := w.dim 0
    let v := (dGet ds 0x0C).dim 1
    let e := if w.fmt.bits = 16 then 16 else if w.fmt.bits = 4 then 64 else 32
    let sb := match dAt ds 0x0E with
      | some x => x.dim 0 * x.fmt.bytes
      | none => 0
    v * ceilDiv k e + ceilDiv v 4 * (20 * ceilDiv (k * w.fmt.nibbles) 4096 + ceilDiv sb 32) + 8
  | 4 => 4
  | 5 => 4 * ceilDiv (max (ceilDiv (w.dim 0 * w.fmt.nibbles) 2) (ceilDiv ((dGet ds 0x08).dim 0 * (dGet ds 0x08).fmt.nibbles) 2)) 32
  | 6 => 4 * ceilDiv (ceilDiv ((dGet ds 0x08).dim 0 * (dGet ds 0x08).fmt.nibbles) 2) 32
  | _ => 0

/-- The largest of a list. -/
def maxOf (l : List Nat) : Nat := l.foldl max 0

/-- Docent clocks of a task of so many groups (R294): for OPT_STEP 4 per 32 B of its largest bank operand. -/
def taskClocks (raw : List Byte) (ds : Descs) (groups : Nat) : Nat :=
  if opc raw = 4 then
    4 * ceilDiv (groups * maxOf ([0x08, 0x0C, 0x0E, 0x10, 0x20, 0x22].map fun o => (dGet ds o).fmt.bytes)) 32
  else groups * groupClocks raw ds

/-- Tasks of a part: banks with how many groups each holds. -/
def bankCounts (banks : List (Nat × Nat)) : List ((Nat × Nat) × Nat) :=
  let rec dd : List (Nat × Nat) → List (Nat × Nat)
    | [] => []
    | b :: r => b :: (dd r).filter (· != b)
  (dd banks).map fun b => (b, banks.count b)

/-- The largest part bound of R294 in docent clocks, given the banks that hold tasks and the clocks of each bank's task. -/
def partBound (budget : Nat) (tasks : List ((Nat × Nat) × Nat)) : Nat :=
  maxOf ((List.range 16).map fun k =>
    let mine := tasks.filter fun t => t.1.1 == k
    if mine.isEmpty then 0 else
    let ndie := maxOf ((List.range 16).map fun a => mine.countP fun t => t.1.2 / 64 == a)
    ceilDiv ndie budget * (maxOf (mine.map (·.2)) + 64) + 128)

/-- The worst-case time of a docent opcode (R294, R375) or cache command (R328). -/
def State.docentTime (s : State) (ctx : Nat) (raw : List Byte) (ds : Descs) (banks : List (Nat × Nat)) : Nat :=
  let budget := planBudget s.planEff
  let poolF := maxOf ((List.range 16).map fun k => (s.stack k).frames)
  let sideB := maxOf ((List.range 16).map fun k => sideBytes (s.stack k).sidemax)
  let pagesMax (seqs : Nat) : Nat := match (s.ctx ctx).layout with
    | some l => min (1024 * poolF) (seqs * l.npages * maxOf ((List.range 16).map l.pairsIn))
    | none => 0
  match opc raw with
  | 2 =>
    let t := dGet ds 0x0A
    let i := dGet ds 0x0C
    let sb := match dAt ds 0x0E with
      | some x => x.dim 0 * x.fmt.bytes
      | none => 0
    let per := ceilDiv (ceilDiv (t.dim 0 * t.fmt.nibbles) 2) 32 + ceilDiv sb 32 + 24
    tDoc (partBound budget ((bankCounts banks).map fun b => (b.1, i.count * per))) + tNs 2000
  | 3 =>
    match (s.ctx ctx).layout with
    | none => 0
    | some l =>
      let h := (dGet ds 0x0A).dim 1 / l.hkv
      let e := if l.fmt.bits = 16 then 16 else if l.fmt.bits = 4 then 64 else 32
      let page := max (512 * ceilDiv h 4) (ceilDiv (2 * l.n * l.d * h) e) + 160 * ceilDiv h 4 + ceilDiv (l.n * h) 8 + 40
      let mine := (s.pages.filter fun p => p.ctx == ctx && p.pair / l.hkv == u16 raw 0x22).map fun p => (p.stack, p.bank)
      tDoc (partBound budget ((bankCounts mine).map fun b => (b.1, b.2 * page))) +
        tCtl (1024 + 4 * (dGet ds 0x0A).dim 2) + tNs 2000
  | 0x10 =>
    let l := layoutOf raw
    tCtl 8192 + tDoc (maxOf ((List.range 16).map fun k => l.l1Clocks k)) + tCtl 256
  | 0x11 =>
    let e := (dGet ds 0x0A).dim 1
    tCtl (1024 + 8 * e + 4 * pagesMax e + 256) + tDoc (poolF * (ceilDiv (16384 + sideB) 32 + 16))
  | 0x12 =>
    let b := match (s.ctx ctx).layout with
      | some l => ceilDiv (l.n * l.row) 32 + 48
      | none => 0
    let q := match (s.ctx ctx).layout with
      | some l => l.seqMax
      | none => 0
    tCtl (1024 + 4 * pagesMax q + 256) + tDoc (poolF * b) + tNs 10000
  | 0x13 =>
    let q := match (s.ctx ctx).layout with
      | some l => l.seqMax
      | none => 0
    tCtl (1024 + 4 * pagesMax q + 256)
  | _ => tDoc (partBound budget ((bankCounts banks).map fun b => (b.1, taskClocks raw ds b.2))) + tNs 2000

/-- Rate of a link in half GT/s times lanes (R436, R438). -/
def HPort.speed (p : HPort) : Nat :=
  p.width * (match p.rate with
    | 0 => 5
    | 1 => 10
    | 2 => 16
    | 3 => 32
    | 4 => 64
    | _ => 128)

/-- T_CTO: the upper end of the completion-timeout range of Device Control 2, in ns, by its four-bit value (PRESUMED from the
PCI Express Base Specification, log entry 74; 0000b is the default of R437). -/
def ctoNs (v : Nat) : Nat :=
  match v with
  | 1 => 100000
  | 2 => 10000000
  | 5 => 55000000
  | 6 => 210000000
  | 9 => 900000000
  | 10 => 3500000000
  | 13 => 13000000000
  | 14 => 64000000000
  | _ => 50000000

/-- The pieces of a virtual range [lo, hi) within translation units, as address and length (fuel is the number of units). -/
def State.unitsOf (s : State) (ctx : Nat) : Nat → Nat → Nat → List (Nat × Nat)
  | 0, _, _ => []
  | n + 1, lo, hi =>
    if hi ≤ lo then [] else
    let unit := if s.inWindow ctx lo then 512 else 65536
    let stop := min hi ((lo / unit + 1) * unit)
    (lo, stop - lo) :: s.unitsOf ctx n stop hi

/-- The units of a descriptor's extent (R202). -/
def State.extentUnits (s : State) (ctx : Nat) (d : Desc) : List (Nat × Nat) :=
  let e := d.extent
  s.unitsOf ctx ((e.2 - e.1) / 512 + 2) e.1 (e.2 + 1)

/-- The stacks of the DRAM rows of a physical range, row by row. -/
def State.rowStacks (s : State) (pa n : Nat) : List Nat :=
  (List.range ((pa + n - 1) / 2048 - pa / 2048 + 1)).filterMap fun i => (s.locate ((pa / 2048 + i) * 2048)).map (·.1)

/-- The stacks of the rows of units, each where its first byte translates to this module's memory. -/
def State.unitStacks (s : State) (ctx : Nat) : List (Nat × Nat) → List Nat × State
  | [] => ([], s)
  | u :: r =>
    match s.translate ctx u.1 false with
    | (.ok pa, s1) => let x := s1.unitStacks ctx r; (s1.rowStacks pa u.2 ++ x.1, x.2)
    | (_, s1) => s1.unitStacks ctx r

/-- Rows a SCRUB covers in the stack with the most (R498). -/
def State.scrubMost (s : State) (ctx : Nat) (raw : List Byte) (ds : Descs) : Nat × State :=
  if u8 raw 0x20 = 1 then (u16 raw 0x28 * u32 raw 0x30, s)
  else
    let x := s.unitStacks ctx (s.extentUnits ctx (dGet ds 0x0A))
    (maxOf ((List.range 16).map fun k => x.1.count k), x.2)

/-- W of R375, in 1/80 fabric cycles; `rows` are a SCRUB's. -/
def State.worstTime (s : State) (ctx : Nat) (raw : List Byte) (ds : Descs) (banks : List (Nat × Nat)) (rows : Nat) : Nat :=
  let c := s.ctx ctx
  match cls raw with
  | 1 =>
    let n := u16 raw 0x28 * u16 raw 0x2A * u16 raw 0x2C
    let nt := if pinned raw then 1 else s.tessPerCd
    tFab 2048 + tArith (ceilDiv n nt * (400 + c.itemCycles))
  | 2 =>
    let u := attnUnits raw ds
    tFab 256 + tArith ((if pinned raw then u else ceilDiv u 16) * attnUnitCycles raw ds)
  | 3 =>
    let dst := destOffs raw
    let b := (ds.map fun d => if dst.contains d.1 then d.2.bytesOut else d.2.bytesAll).foldl (· + ·) 0
    tNs 2000 + tFab (ceilDiv b 64) + tNs (120 * ceilDiv b 2048)
  | 4 => s.docentTime ctx raw ds banks
  | 5 =>
    let d := dGet ds 0x08
    let s0 := dGet ds 0x0A
    let row (x : Desc) : Nat := ceilDiv (x.dim 0 * x.fmt.nibbles) 2
    match opc raw with
    | 1 => tFab ((dGet ds 0x0C).count * ceilDiv (row s0 + 32) 64) + tNs 1300000
    | 2 => tFab ((dGet ds 0x0C).count * ceilDiv (d.dim 0 * 4) 64) + tNs 4000
    | 5 => tFab (d.dim 1 * d.dim 2 * ceilDiv (row d) 64) + tNs 4000
    | 6 => tFab (s0.dim 1 * s0.dim 2 * ceilDiv (row s0 + 32) 64) + tNs 1300000
    | _ => tNs 4000 + tCtl (256 * u16 raw 0x26)
  | 6 =>
    let p := s.hport c.port
    let b := (dGet ds 0x08).bytesAll
    tNs 4000 + tNs (if p.speed = 0 then 0 else b * 2048 / (121 * p.speed)) + tNs (ctoNs (s.func (64 * c.port)).cfg.cto)
  | _ =>
    match opc raw with
    | 1 => tNs 4000
    | 5 => tNs 4000 + rows * (tCtl 16 + tNs 120)
    | 6 => tNs 2000 + tFab (ceilDiv ((dGet ds 0x0A).extent.2 + 1 - (dGet ds 0x0A).extent.1) 4096)
    | 7 => tNs 2000 + tNs 1300000
    | _ => tNs 2000

/-- Some unit of a list translates into the remote window. -/
def State.unitRemote (s : State) (ctx : Nat) : List (Nat × Nat) → Bool × State
  | [] => (false, s)
  | u :: r =>
    match s.translate ctx u.1 false with
    | (.ok pa, s1) => if isRemote pa then (true, s1) else s1.unitRemote ctx r
    | (_, s1) => s1.unitRemote ctx r

/-- Whether some part of an operand names another module (R375). -/
def State.anyRemote (s : State) (ctx : Nat) : List Desc → Bool × State
  | [] => (false, s)
  | d :: r =>
    match s.unitRemote ctx (s.extentUnits ctx d) with
    | (true, s1) => (true, s1)
    | (false, s1) => s1.anyRemote ctx r

/-- Every unit of a list translates into the bank pool (R267), for a destination as a write. -/
def State.unitsInBank (s : State) (ctx : Nat) (wr : Bool) : List (Nat × Nat) → Bool × State
  | [] => (true, s)
  | u :: r =>
    match s.resolve ctx u.1 wr { bank := some true, remote := false } with
    | (.ok pa, s1) => if s1.deviceOk (s1.inWindow ctx u.1) (pa + u.2 - 1) then s1.unitsInBank ctx wr r else (false, s1)
    | (.error _, s1) => (false, s1)

/-- The whole extents of the bank-pool operands at some offsets lie in the bank pool. -/
def State.extentsInBank (s : State) (ctx : Nat) (raw : List Byte) (ds : Descs) : List Nat → Bool × State
  | [] => (true, s)
  | o :: r =>
    match dAt ds o with
    | none => s.extentsInBank ctx raw ds r
    | some d =>
      match s.unitsInBank ctx ((destOffs raw).contains o) (s.extentUnits ctx d) with
      | (true, s1) => s1.extentsInBank ctx raw ds r
      | (false, s1) => (false, s1)

/-- Where a docent command's bank operands lie (R266, R267): their extents, then their groups. -/
def State.placeAll (s : State) (ctx : Nat) (raw : List Byte) (ds : Descs) : Except Nat (List (Nat × Nat)) × State :=
  match s.extentsInBank ctx raw ds (bankOperands raw) with
  | (false, s1) => (.error 2, s1)
  | (true, s1) => s1.placeGroups ctx (docentGroups raw ds)

/- ---- the checks together ---- -/

def malformed (reason : Nat) : Ending := { status := .commandMalformed, detail := reason }

/-- The first of the checks of R77 that fails, in table order, and the resolved descriptors. Translations made on the way
are cached in the state. -/
def State.check (s : State) (ctx : Nat) (raw : List Byte) : Except Ending Descs × State :=
  match opInfo raw with
  | none => (.error (malformed 1), s)
  | some info =>
    if !headerOk raw info then (.error (malformed 2), s) else
    match refFail s ctx raw info.refs with
    | some off => (.error { status := .descriptorInvalid, detail := off }, s)
    | none =>
      let ds := resolveRefs s ctx raw info.refs
      match formatFail s ctx raw ds with
      | some code => (.error { status := .formatUnsupported, detail := code }, s)
      | none =>
        if (cls raw = 1 ∧ pinned raw ∧ s.tessPerCd ≤ targetTess raw) ∨ (cls raw = 2 ∧ pinned raw ∧ 16 ≤ targetTess raw) then
          (.error { status := .noSuchEngine, detail := target raw }, s)
        else if overlapFail raw ds then (.error (malformed 3), s)
        else if cls raw = 1 ∧ (u16 raw 0x28 = 0 ∨ u16 raw 0x2A = 0 ∨ u16 raw 0x2C = 0) then (.error (malformed 4), s)
        else if semFail s ctx raw then (.error (malformed 5), s)
        else if present (u16 raw 0x16) ∧ u16 raw 0x1C = 0 then (.error (malformed 6), s)
        else
          let docShape := cls raw != 4 || (docentShapes s ctx raw ds)
          let bankFlag := (bankOperands raw).all fun o => match dAt ds o with
            | some d => d.bank
            | none => true
          let noLayout := cls raw == 4 && (opc raw == 3 || opc raw == 0x11 || opc raw == 0x12 || opc raw == 0x13) &&
            (s.ctx ctx).layout.isNone
          let usable := cls raw == 4 && docShape && bankFlag
          let (place, s1) := if usable then s.placeAll ctx raw ds else (.ok [], s)
          let banks := match place with
            | .ok l => l
            | .error _ => []
          let (rem, s2) := s1.anyRemote ctx (ds.map (·.2))
          let (rows, s2) := if cls raw = 7 ∧ opc raw = 5 then s2.scrubMost ctx raw ds else (0, s2)
          let w := s2.worstTime ctx raw ds banks rows + (if rem then tNs 1300000 else 0)
          if (cls raw = 1 ∧ (s.ctx ctx).itemCycles = 0) ∨ tNs (limitNs (cls raw)) < w then (.error (malformed 7), s2)
          else if cls raw = 4 then
            let reason (r : Nat) : Ending := { malformed 8 with r0 := r }
            if noLayout then (.error (reason 5), s2)
            else if !docShape then (.error (reason 1), s2)
            else if !bankFlag then (.error (reason 4), s2)
            else match place with
              | .error r => (.error (reason r), s2)
              | .ok _ => if strayRef raw info.refs then (.error (malformed 8), s2) else (.ok ds, s2)
          else
            let (ok, s3) := match cls raw with
              | 1 => (gridRules raw ds, s2)
              | 2 => (attnRules raw ds, s2)
              | 3 => (dmaRules raw ds, s2)
              | 5 => (courierRules s ctx raw ds, s2)
              | 6 => s2.hcopyRules ctx raw ds
              | _ => (controlRules s ctx raw ds, s2)
            if strayRef raw info.refs || !ok then (.error (malformed 8), s3) else (.ok ds, s3)

end Sys2Proof.Machine
end

