-- ==== Sys2Proof/Machine/Links.lean ====
section
/-! DEFINITION. The wire of the Woson links (spec 15, R408 to R423): groups and routes, packets as bytes, flits with CRC,
credits and replay. What a lost group or peer means for commands stands in Machine/Remote.lean. -/

namespace Sys2Proof

open Machine

/- ---- packets as bytes (R419) ---- -/

def ptypes : List Nat := [0x01, 0x02, 0x03, 0x11, 0x12, 0x13, 0x21, 0x31, 0x32, 0x33, 0x34]
/-- The virtual channel of a packet type (R420). -/
def vcOf (pt : Nat) : Nat := pt / 16

def Packet.bytes (p : Packet) : List Byte :=
  leBytes p.ptype 1 ++ leBytes (p.dmod % 64 + 64 * (p.reserved % 4)) 1 ++ leBytes (p.smod % 64 + 64 * (p.reserved / 4 % 4)) 1 ++
  leBytes p.hops 1 ++ leBytes p.pepoch 2 ++ leBytes p.tag 2 ++ leBytes p.lenw 2 ++ leBytes p.status 1 ++
  leBytes (p.addr % 2 ^ 34 + 2 ^ 34 * (p.reserved / 16)) 5 ++ p.payload

/-- The packet that bytes hold; fewer than 16 bytes give a packet of type 0, which no rule accepts. -/
def Packet.ofBytes (b : List Byte) : Packet :=
  if b.length < 16 then { ptype := 0, dmod := 0, smod := 0, hops := 0, pepoch := 0 } else
  let ad := ofLe ((b.drop 11).take 5)
  { ptype := u8 b 0, dmod := u8 b 1 % 64, smod := u8 b 2 % 64, hops := u8 b 3, pepoch := u16 b 4, tag := u16 b 6,
    lenw := u16 b 8, status := u8 b 10, addr := ad % 2 ^ 34,
    reserved := u8 b 1 / 64 + 4 * (u8 b 2 / 64) + 16 * (ad / 2 ^ 34), payload := b.drop 16 }

/- ---- flits (R410) ---- -/

/-- One bit step of the reflected CRC-32. -/
def crcBit (c : Nat) : Nat := if c % 2 = 1 then (c / 2) ^^^ 0xEDB88320 else c / 2
def crcByte (c : Nat) (b : Byte) : Nat :=
  crcBit (crcBit (crcBit (crcBit (crcBit (crcBit (crcBit (crcBit (c ^^^ b.toNat))))))))
/-- CRC-32 of IEEE 802.3 (R410). -/
def crc32 (bs : List Byte) : Nat := bs.foldl crcByte 0xFFFFFFFF ^^^ 0xFFFFFFFF

def Flit.header (f : Flit) : Nat :=
  f.ftype * 2 ^ 61 + f.vc * 2 ^ 59 + f.seq * 2 ^ 47 + f.ackseq * 2 ^ 35 + b2n f.ackv * 2 ^ 34 + b2n f.nak * 2 ^ 33 +
  f.crvc * 2 ^ 31 + f.credits * 2 ^ 26 + f.lepoch * 2 ^ 18 + b2n f.sop * 2 ^ 17 + b2n f.eop * 2 ^ 16 + f.vlen * 2 ^ 8 + f.reserved

/-- Bytes padded with zeros to a length. -/
def padTo (n : Nat) (bs : List Byte) : List Byte := bs.take n ++ List.replicate (n - bs.length) 0

/-- Bytes 0 to 251 of a flit. -/
def Flit.covered (f : Flit) : List Byte := leBytes f.header 8 ++ padTo 244 f.payload
/-- A flit with its CRC. -/
def Flit.seal (f : Flit) : Flit := { f with crc := crc32 f.covered }

/-- The flits of a packet (R411): consecutive, the first with SOP and the last with EOP. -/
def Packet.flits (p : Packet) : List Flit :=
  let bs := p.bytes
  let n := ceilDiv bs.length 244
  (List.range n).map fun i =>
    { ftype := 1, vc := vcOf p.ptype, sop := i == 0, eop := i + 1 == n, vlen := min 244 (bs.length - 244 * i),
      payload := (bs.drop (244 * i)).take 244 }

/-- Whether a receiver takes a flit but for its link epoch (R411). -/
def Flit.sound (f : Flit) : Bool :=
  f.fecOk && f.crc == crc32 f.covered && f.reserved == 0 && decide (f.ftype ≤ 2)

end Sys2Proof

namespace Sys2Proof.Machine

/- ---- the image tables (R416, R421) ---- -/

def State.groupEntry (s : State) (g : Nat) : Nat := Assoc.get 0 s.groupTab g
def State.routeEntry (s : State) (m : Nat) : Nat := Assoc.get 0 s.routeTab m
def State.exportEntry (s : State) (e : Nat) : Nat := Assoc.get 0 s.exportTab e

/-- The ports of a group entry. -/
def entryPorts (e : Nat) : List Nat := (List.range 48).filter fun p => bit (bits e 47 0) p
def entryNbr (e : Nat) : Nat := bits e 53 48

def oneLinkDie : List Nat → Bool
  | [] => false
  | p :: r => r.all fun q => q / 8 == p / 8

/-- A group shares a port with another entry. -/
def State.groupShares (s : State) (g : Nat) : Bool :=
  (List.range 48).any fun h => h != g && bit (s.groupEntry h) 63 && (bits (s.groupEntry h) 47 0 &&& bits (s.groupEntry g) 47 0) != 0

/-- A group entry that is not ignored (R416). -/
def State.groupOk (s : State) (g : Nat) : Bool :=
  decide (g < 48) && bit (s.groupEntry g) 63 && oneLinkDie (entryPorts (s.groupEntry g)) && !s.groupShares g

def State.groupPorts (s : State) (g : Nat) : List Nat := entryPorts (s.groupEntry g)
def State.groupDie (s : State) (g : Nat) : Nat := (s.groupPorts g).getD 0 0 / 8
def State.upPorts (s : State) (g : Nat) : List Nat := (s.groupPorts g).filter fun p => (s.port p).st == .up
/-- A group is UP while a port of it is (R414). -/
def State.groupUp (s : State) (g : Nat) : Bool := s.groupOk g && !(s.upPorts g).isEmpty
/-- The group of a port. -/
def State.portGroup (s : State) (p : Nat) : Option Nat := (List.range 48).find? fun g => s.groupOk g && (s.groupPorts g).contains p

def State.routeValid (s : State) (m : Nat) : Bool := bit (s.routeEntry m) 31
/-- The next-hop groups of a module, in order of preference. -/
def State.routeGroups (s : State) (m : Nat) : List Nat :=
  let e := s.routeEntry m
  [bits e 29 24, bits e 21 16, bits e 13 8, bits e 5 0].filter s.groupOk
/-- The group a packet for a module leaves on (R417). -/
def State.routeOut (s : State) (m : Nat) : Option Nat := (s.routeGroups m).find? s.groupUp
/-- The link die that owns the route to a module (R330, R417); without an UP group, the die of the most preferred one. -/
def State.routeDie (s : State) (m : Nat) : Nat :=
  match s.routeOut m with
  | some g => s.groupDie g
  | none => s.groupDie ((s.routeGroups m).getD 0 0)

/- ---- sending (R412, R413) ---- -/

/-- UP ports of a group whose crossing passes data: senders wait during a resynchronisation (R61). -/
def State.sendPorts (s : State) (g : Nat) : List Nat := (s.upPorts g).filter fun p => !s.resyncing (portCrossing p)

/-- The buffer entries a receiver advertises (R412). -/
def advertised : Nat → Nat
  | 0 | 1 => 512
  | 2 => 1024
  | _ => 64

def Group.credit (g : Group) (vc : Nat) : Nat := Assoc.get 0 g.credits vc
def Group.canSend (g : Group) (vc : Nat) : Bool := decide (0 < g.credit vc) && decide (g.replay.length < 2048)

/-- Acknowledgement fields of a flit that leaves a group. -/
def Group.stamp (g : Group) (f : Flit) : Flit :=
  { f with ackseq := (g.rxSeq + 4095) % 4096, ackv := true, lepoch := g.lepoch }.seal

/-- Send a DATA flit: next SEQ, next UP port in turn, one credit, kept in the replay buffer. -/
def State.txFlit (s : State) (g : Nat) (f : Flit) : State :=
  let ps := s.sendPorts g
  let gr := s.group g
  let p := ps.getD (gr.turn % ps.length) 0
  let f1 := gr.stamp { f with seq := gr.txSeq }
  (s.modGroup g fun x => { x with
    txSeq := (x.txSeq + 1) % 4096, turn := (x.turn + 1) % ps.length, replay := x.replay ++ [(p, f1)],
    credits := Assoc.set 0 x.credits f.vc (x.credit f.vc - 1) }).emit (.flit p f1)

/-- Send a flit, or let it wait behind earlier ones of its channel, for a credit or for a port. -/
def State.queueFlit (s : State) (g : Nat) (f : Flit) : State :=
  let gr := s.group g
  if gr.canSend f.vc && !(s.sendPorts g).isEmpty && !(gr.wait.any fun w => w.vc == f.vc) then s.txFlit g f
  else s.modGroup g fun x => { x with wait := x.wait ++ [f] }

/-- Offer waiting flits again, in order within each channel. -/
def State.drainWait (s : State) (g : Nat) : List Flit → State
  | [] => s
  | f :: r => (s.queueFlit g f).drainWait g r

def State.drainGroup (s : State) (g : Nat) : State :=
  (s.modGroup g fun x => { x with wait := [] }).drainWait g (s.group g).wait

/-- A packet leaves on the first UP group of its route, waits at its link die, or (VC3) is dropped (R417, R418). -/
def State.sendPacket (s : State) (p : Packet) : State :=
  if !s.routeValid p.dmod then s else
  match s.routeOut p.dmod with
  | some g => p.flits.foldl (fun t f => t.queueFlit g f) s
  | none => if vcOf p.ptype = 3 then s else s.modCourier (s.routeDie p.dmod) fun c => { c with waiting := c.waiting ++ [p] }

/-- The packets that waited at a link die leave when a group came up. -/
def State.flushDie (s : State) (ld : Nat) : State :=
  (s.courier ld).waiting.foldl (fun t p => t.sendPacket p) (s.modCourier ld fun c => { c with waiting := [] })

def State.flushWaiting (s : State) : State := (List.range 6).foldl State.flushDie s

/-- A packet of this module (R417, R427): HOPS 15, its peer epoch; while the peer is unreachable only VC3 is sent (R425). -/
def State.originate (s : State) (m pt tag lenw status addr : Nat) (payload : List Byte) : State :=
  if vcOf pt != 3 && !(s.peer m).reachable then s
  else s.sendPacket {
    ptype := pt, dmod := m, smod := s.modid, hops := 15, pepoch := (s.peer m).epoch, tag := tag, lenw := lenw,
    status := status, addr := addr, payload := payload }

/-- PATH_LOST for a packet, to its source (R418, R428). -/
def State.pathLostTo (s : State) (p : Packet) : State :=
  s.originate p.smod 0x34 0 1 0 0 (padTo 32 (leBytes p.dmod 2 ++ leBytes p.pepoch 2))

/- ---- replay (R413) ---- -/

/-- SEQ q lies at or before a. -/
def seqLe (q a : Nat) : Bool := decide ((a + 4096 - q % 4096) % 4096 < 2048)

/-- Resend some flits of the replay buffer, each on the next UP port; without one that passes data they are resent later (R413). -/
def State.resendList (s : State) (g : Nat) : List (Nat × Flit) → State
  | [] => s
  | x :: r =>
    let ps := s.sendPorts g
    if ps = [] then s else
    let gr := s.group g
    let p := ps.getD (gr.turn % ps.length) 0
    let f1 := gr.stamp x.2
    let s1 := s.modGroup g fun y => { y with
      turn := (y.turn + 1) % ps.length,
      replay := y.replay.map fun z => if z.2.seq = f1.seq then (p, f1) else z }
    ((s1.modPort p fun q => { q with replay := sat64 (q.replay + 1) }).emit (.flit p f1)).resendList g r

/-- Resend every unacknowledged flit in SEQ order. -/
def State.replayGroup (s : State) (g : Nat) : State :=
  let s1 := s.modGroup g fun x => { x with stuck := if x.replay.isEmpty then 0 else x.stuck + 1 }
  s1.resendList g (s1.group g).replay

/-- An acknowledgement: flits up to a SEQ leave the replay buffer. -/
def State.ackGroup (s : State) (g a : Nat) : State :=
  let gr := s.group g
  let left := gr.replay.filter fun x => !seqLe x.2.seq a
  if left.length = gr.replay.length then s else s.modGroup g fun x => { x with replay := left, stuck := 0 }

/-- A NAK leaves on a port of the group. -/
def State.sendNak (s : State) (g port : Nat) : State :=
  (s.modGroup g fun x => { x with naking := true }).emit (.flit port ((s.group g).stamp { ftype := 0, nak := true }))

/- ---- receiving (R411 to R413) ---- -/

/-- A packet of a known type is handed to the link die; any other counts in BADTYPE (R420). -/
def State.packetIn (s : State) (ld : Nat) (bs : List Byte) : State :=
  let p := Packet.ofBytes bs
  if ptypes.contains p.ptype && p.reserved == 0 then { s with inbox := s.inbox ++ [(ld, p)] }
  else s.modCourier ld fun c => { c with pkBad := sat64 (c.pkBad + 1) }

/-- Deliver a DATA flit: it joins its channel's packet and its buffer entry is freed, which returns a credit. -/
def State.deliverFlit (s : State) (g port : Nat) (f : Flit) : State :=
  let old := if f.sop then [] else Assoc.get [] (s.group g).asm f.vc
  let bs := old ++ padTo f.vlen f.payload
  let s1 := s.modGroup g fun x => { x with
    rxSeq := (x.rxSeq + 1) % 4096,
    asm := Assoc.set [] x.asm f.vc (if f.eop then [] else bs) }
  let s2 := if f.eop then s1.packetIn (port / 8) bs else s1
  s2.emit (.flit port ((s2.group g).stamp { ftype := 0, crvc := f.vc, credits := 1 }))

/-- Deliver the flits held ahead that now follow (the fuel is the window). -/
def State.deliverAhead (s : State) (g port : Nat) : Nat → State
  | 0 => s
  | n + 1 =>
    match (s.group g).ahead.find? fun f => f.seq == (s.group g).rxSeq with
    | none => s
    | some f => ((s.modGroup g fun x => { x with ahead := x.ahead.filter fun h => h.seq != f.seq }).deliverFlit g port f).deliverAhead g port n

/-- A DATA flit by its SEQ: in turn, ahead within the window of 256, or already delivered. -/
def State.dataFlit (s : State) (g port : Nat) (f : Flit) : State :=
  let gr := s.group g
  if f.seq = gr.rxSeq then
    let t := (s.deliverFlit g port f).deliverAhead g port 256
    t.modGroup g fun x => { x with naking := x.naking && !x.ahead.isEmpty }
  else if (f.seq + 4096 - gr.rxSeq) % 4096 ≤ 256 && !(gr.ahead.any fun h => h.seq == f.seq) then
    s.modGroup g fun x => { x with ahead := x.ahead ++ [f] }
  else s

end Sys2Proof.Machine
end

