-- ==== Sys2Proof/Machine/Work.lean ====
section
/-! DEFINITION. Accepted commands as the engines handle them: finding and changing one, finishing its work, its veil over
the destination (R85), remote reads and writes (R395, R421, R422), and the engines each class uses (R362). -/

namespace Sys2Proof.Machine

/- ---- one command ---- -/

def State.cmd (s : State) (id : CmdId) : Option Cmd := s.cmds.find? fun c => c.id == id

def State.modCmd (s : State) (id : CmdId) (f : Cmd → Cmd) : State :=
  { s with cmds := s.cmds.map fun c => if c.id == id then f c else c }

def okEnd : Ending := { status := .ok }

/-- An ending whose command commits. -/
def Ending.good (e : Ending) : Bool := e.status == .ok || e.status == .okScaleRerun

/- ---- stopping an engine's work (R131, R367) ---- -/

/-- A tessera stops its item (killed or finished) and will clear itself. -/
def Tess.stop (t : Tess) : Tess :=
  { t with
    st := .idle, item := none, mustClear := true, loadedFor := none, loader := none, drainJ := none, lsu := none,
    passes := [], xfers := [], xWait := none, aWait := none }

/-- The tesserae that run items of a command stop; a halted one keeps its state. -/
def State.stopTesserae (s : State) (id : CmdId) : State :=
  let ks := (s.tess.filter fun x => (match x.2.item with
    | some i => i.cmd == id
    | none => false) && x.2.st != .halted).map (·.1)
  ks.foldl (fun t k => t.modTessera k Tess.stop) s

/-- What a unit that does not end has counted in its die (R232, R260): each a free number. -/
def State.unitLost (s : State) (k : Nat) : State :=
  let p := s.pipe k
  let n (i : Nat) : Nat := Config.freeNat (s.fresh + i)
  if p.running then
    { s.modDie (k / 16) (fun x => { x with
        apBlocks := if p.opcode = 2 then x.apBlocks else sat64 (x.apBlocks + n 0), apSkipped := sat64 (x.apSkipped + n 1)
        apNan := if p.opcode ≤ 2 then sat64 (x.apNan + n 2) else x.apNan }) with fresh := s.fresh + 3 }
  else s

/-- The attention pipelines that run units of a command stop. -/
def State.stopPipes (s : State) (id : CmdId) : State :=
  let ks := (s.pipes.filter fun x => x.2.cmd == some id).map (·.1)
  ks.foldl (fun t k => (t.unitLost k).modPipe k fun p => { p with running := false, cmd := none }) s

/-- The clocks of docent tasks that end are counted, however the tasks end (R232, R296): each a free number. -/
def State.chargeTasks (s : State) : List DocTask → State
  | [] => s
  | t :: r =>
    (if t.st = .waiting then s
     else { s.modStack t.stack (fun x => { x with busy := sat64 (x.busy + Config.freeNat s.fresh) }) with fresh := s.fresh + 1 }).chargeTasks r

/-- The tasks of a docent command. -/
def Cmd.tasks (c : Cmd) : List DocTask :=
  match c.work with
  | .doc d => d.tasks
  | _ => []

/-- The docents that run tasks of a command stop. -/
def State.stopDocents (s : State) (id : CmdId) : State :=
  match s.cmd id with
  | none => s
  | some c => if c.tasks = [] then s else (s.chargeTasks c.tasks).modCmd id fun x => match x.work with
      | .doc d => { x with work := .doc { d with tasks := [] } }
      | _ => x

/-- A halted tessera still has LOADs of a command in flight (R164). -/
def State.loadsLeft (s : State) (id : CmdId) : Bool := s.tess.any fun x => x.2.st == .halted && x.2.failed.any fun c => c.id == id

/-- Engines stop a command's work and its outstanding reads are forgotten (R367 steps 1 and 2), but for those of a halted tessera. -/
def State.stopWork (s : State) (id : CmdId) : State :=
  let s1 := ((s.stopTesserae id).stopPipes id).stopDocents id
  if s.loadsLeft id then s1 else
  { s1 with reqs := s1.reqs.filter fun r => !(r.cmd == id && (match r.kind with
      | .read _ _ => true
      | _ => false)) }

/-- Bytes of another module reach a command; a halted tessera's LOADs may still wait for them (R164). -/
def State.addRemote (s : State) (id : CmdId) (bs : List (Nat × Byte)) : State :=
  let add (c : Cmd) : Cmd := { c with remote := c.remote ++ bs }
  { s.modCmd id add with tess := s.tess.map fun x => (x.1, { x.2 with failed := x.2.failed.map fun c => if c.id = id then add c else c }) }

/- ---- held writes (R520) ---- -/

/-- BAND of an array die (R524): 0 COLD, 1 B0, 2 B1, 3 B2, 4 HOT. The state keeps it shifted by one, so that an unlisted die
is in B0. -/
def bandOf (t : Therm) : Nat := (t.st + 1) % 5

/-- Docents of an array die are stopped by temperature (R520, R522): below 0 °C, above 100 °C, or still in the bands COLD and
HOT. -/
def State.docentsStopped (s : State) (stack adie : Nat) : Bool :=
  let t := s.arrayTherm (16 * stack + adie)
  decide (t.temp < 0) || decide (800 < t.temp) || bandOf t == 0 || bandOf t == 4

/-- Writes to an array die are held: outside its temperature window, or VDD_ARRAY below its warning level. -/
def State.holdsWrites (s : State) (stack adie : Nat) : Bool := s.docentsStopped stack adie || (s.rail 2).warn

/-- The stack and array die of an address. -/
def State.arrayDieOf (s : State) (pa : Nat) : Option (Nat × Nat) := (s.locate pa).map fun x => (x.1, x.2.1 / 64)

/-- The first stack on which a write of some bytes is held. -/
def State.heldAt (s : State) (ws : List (Nat × Byte)) : Option Nat :=
  (granules (ws.map (·.1))).findSome? fun g => match s.arrayDieOf (g * 32) with
    | some (k, a) => if s.holdsWrites k a then some k else none
    | none => none

/- ---- endings ---- -/

/-- A running command's work is over with a fixed ending; it waits for its place in the queue order (R83). One that failed has
nothing left to write. -/
def State.finish (s : State) (id : CmdId) (e : Ending) : State :=
  s.modCmd id fun c => if c.ending.isNone then
    { c with stage := .finished, ending := some e, writes := if e.good then c.writes else [] } else c

/-- A command that fails (R86) without tearing its context down: its engines stop. -/
def State.failCmd (s : State) (id : CmdId) (f : Fail) : State := (s.stopWork id).finish id f.ending

/-- Statuses that tear the owning context down (R80). -/
def Status.tears : Status → Bool
  | .engineHalted | .translationFault => true
  | _ => false

/- ---- who reads and writes (R385) ---- -/

/-- The engines of R385 by number: the DMA engine of a die, an attention pipeline, the A-stream of a tessera, a merge unit, a
registrar, a docent. -/
def dmaSeer (die : Nat) : Nat := 1 + die
def pipeSeer (pipe : Nat) : Nat := 16 + pipe
def tessSeer (tess : Nat) : Nat := 256 + tess
def mergeSeer (stack : Nat) : Nat := 1536 + stack
def registrarSeer (stack : Nat) : Nat := 1600 + stack
def docentSeer (stack bank : Nat) : Nat := 2048 + 1024 * stack + bank

/-- The engine of R385 by which a command reads and writes, where its class has one. -/
def Cmd.seer (c : Cmd) : Seer := ⟨c.stamp, if cls c.raw = 3 then dmaSeer (targetDie c.raw) else 0⟩

/-- The engine through which a command reads. -/
def Cmd.eng (c : Cmd) (die : Option Nat) : Eng := { ctx := c.id.ctx, who := c.seer, die := die, remote := c.remote }
/-- The same, read by one engine of R385. -/
def Eng.by (e : Eng) (n : Nat) : Eng := { e with who := { e.who with eng := n } }

/-- The compute die through whose fabric port a command's own writes go (R388). -/
def Cmd.writeDie (c : Cmd) : Option Nat := if cls c.raw = 2 ∨ cls c.raw = 3 then some (targetDie c.raw) else none

/- ---- the veil over a destination (R85) ---- -/

/-- Physical ranges of a virtual range [lo, hi) that lie in this module's memory, page by page (512 bytes in a cache
window, whose side records are multiples of 512; fuel is the number of pages). -/
def State.ranges (s : State) (ctx stamp : Nat) (wr : Bool) : Nat → Nat → Nat → List Undef × State
  | 0, _, _ => ([], s)
  | n + 1, lo, hi =>
    if hi ≤ lo then ([], s) else
    let unit := if s.inWindow ctx lo then 512 else 65536
    let stop := min hi ((lo / unit + 1) * unit)
    match s.translate ctx lo wr with
    | (.ok pa, s1) =>
      let r := s1.ranges ctx stamp wr n stop hi
      (if region pa < 2 then { lo := pa, hi := pa + (stop - lo), stamp := stamp } :: r.1 else r.1, r.2)
    | (_, s1) => s1.ranges ctx stamp wr n stop hi

/-- Veil the destinations of a command. -/
def State.veilDests (s : State) (ctx stamp : Nat) : List Desc → State
  | [] => s
  | d :: r =>
    let e := d.extent
    let x := s.ranges ctx stamp true ((e.2 - e.1) / 512 + 2) e.1 (e.2 + 1)
    ({ x.2 with mem := { x.2.mem with veil := x.1 ++ x.2.mem.veil } }).veilDests ctx stamp r

/- ---- remote reads (R421, R422) ---- -/

/-- Runs of consecutive granules within a 2 KiB block. -/
def granuleRuns : List Nat → List (Nat × Nat)
  | [] => []
  | g :: r =>
    match granuleRuns r with
    | (h, n) :: t => if h = g + 1 ∧ g / 64 = h / 64 ∧ n < 64 then (g, n + 1) :: t else (g, 1) :: (h, n) :: t
    | [] => [(g, 1)]

/-- A rising list of the same numbers. -/
def sortNat (l : List Nat) : List Nat := l.foldl insertNat []

/-- The module a remote address names. -/
def remoteModule (pa : Nat) : Nat := bits pa 39 34

/-- A new request of a command to another module (R419, R427), made by an engine. -/
def State.request (s : State) (id : CmdId) (m pt lenw addr : Nat) (kind : ReqKind) (payload : List Byte) (site : Nat := 0) : State :=
  let tag := 8192 * s.routeDie m + s.nextTag % 8192
  let s1 : State := { s with nextTag := s.nextTag + 1, reqs := s.reqs ++ [⟨tag, m, kind, id, site⟩] }
  s1.originate m pt tag lenw 0 addr payload

/-- Whether a read of a granule is on its way for a command. -/
def State.fetching (s : State) (id : CmdId) (g : Nat) : Bool :=
  s.reqs.any fun r => r.cmd == id && (match r.kind with
    | .read pa len => decide (pa / 32 ≤ g) && decide (g < pa / 32 + len)
    | _ => false)

/-- Ask for the runs of granules a command lacks; an unreachable module fails it (R425). -/
def State.fetchRuns (s : State) (id : CmdId) : List (Nat × Nat) → State
  | [] => s
  | (g, n) :: r =>
    let pa := g * 32
    let m := remoteModule pa
    if (s.peer m).reachable then (s.request id m 0x01 n (bits pa 33 0) (.read pa n) []).fetchRuns id r
    else s.failCmd id (.unreach m)

/-- Fetch remote granules for a command; what is already on its way is not asked for again. -/
def State.fetch (s : State) (id : CmdId) (gs : List Nat) : State :=
  s.fetchRuns id (granuleRuns (sortNat (gs.filter fun g => !s.fetching id g)))

/- ---- remote writes (R395) ---- -/

/-- The bytes of a granule under writes (newest first), merged over fetched bytes. -/
def mergedGranule (ws old : List (Nat × Byte)) (g : Nat) : List Byte :=
  (List.range 32).map fun i =>
    match ws.find? fun w => w.1 == g * 32 + i with
    | some w => w.2
    | none => match old.find? fun w => w.1 == g * 32 + i with
      | some w => w.2
      | none => 0

/-- Send the remote writes of an engine of a command, granule run by run. -/
def State.writeRuns (s : State) (id : CmdId) (eng : Nat) (ws old : List (Nat × Byte)) : List (Nat × Nat) → State
  | [] => s
  | (g, n) :: r =>
    let pa := g * 32
    let m := remoteModule pa
    if (s.peer m).reachable then
      let data := (List.range n).flatMap fun i => mergedGranule ws old (g + i)
      ((s.request id m 0x02 n (bits pa 33 0) (.write pa n) data eng).modCmd id fun c => { c with unacked := c.unacked + 1 }).writeRuns id eng ws old r
    else s.failCmd id (.unreach m)

/-- An engine of a command has a remote write that is not acknowledged. -/
def State.unackedBy (s : State) (id : CmdId) (eng : Nat) : Bool :=
  s.reqs.any fun r => r.cmd == id && r.site == eng && (match r.kind with
    | .write _ _ => true
    | _ => false)

/- ---- writes of commands (R85, R383 to R387, R491, R520) ---- -/

/-- A byte lies on an array die that holds writes. -/
def State.holdsAt (s : State) (a : Nat) : Bool := (s.heldAt [(a, 0)]).isSome

/-- Local writes of a command by an engine (newest first): they land now, but those to an array die that holds writes stay in
the command. Answers the first granule in which a merge met an uncorrectable word. -/
def State.landFor (s : State) (c : Cmd) (die : Option Nat) (eng : Nat) (ws : List (Nat × Byte)) : Option Nat × State :=
  let later := ws.filter fun w => s.holdsAt w.1
  let now := ws.filter fun w => !s.holdsAt w.1
  let s1 := if later = [] then s else s.modCmd c.id fun x => { x with writes := later ++ x.writes }
  (s1.poisonHit now, s1.land die now.reverse ⟨c.stamp, eng⟩)

/-- An engine of a command writes (`ws` newest first): local bytes land, remote ones leave (R395); granules that a remote write
covers only in part are read first, and then nothing else happens yet. Go on with `bad` where a merge met an uncorrectable
granule (R491), else with `k`. -/
def State.putWrites (s : State) (c : Cmd) (die : Option Nat) (eng : Nat) (ws : List (Nat × Byte)) (bad : Nat → State → State) (k : State → State) :
    State :=
  let loc := ws.filter fun w => !isRemote w.1
  let rem := ws.filter fun w => isRemote w.1
  let gs := granules (rem.map (·.1))
  let part := gs.filter fun g => !coversGranule rem g && !(c.remote.any fun w => w.1 / 32 == g)
  if part ≠ [] then s.fetch c.id part
  else match s.landFor c die eng loc with
    | (some g, s1) => bad (s1.reportAddr (g * 32)) s1
    | (none, s1) => k (s1.writeRuns c.id eng rem c.remote (granuleRuns (sortNat gs)))

/- ---- transfers of a tessera (R123, R156) ---- -/

/-- The descriptor of a transfer. -/
def Cmd.xferDesc (c : Cmd) (x : Xfer) : Desc := c.descD (0x08 + 2 * x.dsel)
/-- Index tuple of box element (r, j); a descriptor of one dimension has a second of size 1. -/
def Xfer.index (x : Xfer) (r j : Nat) : List Nat :=
  match x.coord with
  | a :: b :: l => (a + j) :: (b + r) :: l
  | [a] => [a + j, r]
  | [] => [j, r]
def Desc.sizes2 (d : Desc) : List Nat := if d.size.length = 1 then d.size ++ [1] else d.size
def Desc.inside (d : Desc) (i : List Nat) : Bool := (i.zip d.sizes2).all fun x => decide (x.1 < x.2)
/-- The tuple in the descriptor's own dimensions. -/
def Desc.own (d : Desc) (i : List Nat) : List Nat := i.take d.size.length

/-- What a STORE writes: index tuples of its destination with encodings. -/
def Xfer.storeItems (x : Xfer) (d : Desc) : List (List Nat × Nat) :=
  ((x.data.zipIdx.flatMap fun r => (unpackElems d.fmt r.1 x.cols).zipIdx.map fun q => (x.index r.2 q.2, q.1)).filter
    fun q => d.inside q.1).map fun q => (d.own q.1, q.2)

/-- The running tesserae that run items of a command. -/
def State.tessOf (s : State) (id : CmdId) : List (Nat × Tess) :=
  s.tess.filter fun x => (match x.2.item with
    | some i => i.cmd == id
    | none => false) && x.2.st == .running

/-- A STORE that a kill finds issued is not recalled (R367 step 3): its local bytes land and its whole remote granules leave. One
that would merge with a remote granule has not left: its read is discarded (step 2). -/
def State.landIssued (s : State) (c : Cmd) (tess : Nat) (x : Xfer) : State :=
  let d := c.descD 0x08
  match s.planElems ((c.eng (some (tess / 128))).by (tessSeer tess)) d (x.storeItems d) [] with
  | (.error _, s1) => s1
  | (.ok ws, s1) =>
    let rem := ws.filter fun w => isRemote w.1
    let gs := (granules (rem.map (·.1))).filter fun g => coversGranule rem g && (s.peer (remoteModule (g * 32))).reachable
    ((s1.landFor c (some (tess / 128)) (tessSeer tess) (ws.filter fun w => !isRemote w.1)).2).writeRuns c.id (tessSeer tess) rem []
      (granuleRuns (sortNat gs))

/-- The writes that a command's engines have issued land before the engines stop. -/
def State.landAllIssued (s : State) (c : Cmd) : State :=
  (s.tessOf c.id).foldl (fun t k => (k.2.xfers.filter fun x => !x.load).foldl (fun u x => u.landIssued c k.1 x) t) s

/-- A command's work is done with these last writes: it waits for its commit. -/
def State.complete (s : State) (id : CmdId) (e : Ending) (ws : List (Nat × Byte)) : State :=
  match s.cmd id with
  | none => s
  | some c => s.putWrites c c.writeDie c.seer.eng ws (fun a t => t.failCmd id (.ecc a)) fun t => t.finish id e

/- ---- engines (R362) ---- -/

/-- The key of an engine in accounts and turns. -/
def engineKey : EngineId → Nat
  | .tessGroup d => d
  | .attn d => 8 + d
  | .dma d => 16 + d
  | .registrar k => 32 + k
  | .courier l => 48 + l
  | .hostCopy p => 56 + p
  | .hostCtl p => 58 + p
  | .pinned d t => 64 + 128 * d + t

/-- The engine class of L_E (R376). -/
def engineCls : EngineId → Nat
  | .tessGroup _ | .pinned _ _ => 1
  | .attn _ => 2
  | .dma _ => 3
  | .registrar _ => 4
  | .courier _ => 5
  | .hostCopy _ => 6
  | .hostCtl _ => 7

/-- Engines that exist on the part. -/
def State.engineExists (s : State) : EngineId → Bool
  | .tessGroup d | .attn d | .dma d => decide (d < 8)
  | .registrar k => decide (k < 16)
  | .courier l => decide (l < 6)
  | .hostCopy p | .hostCtl p => decide (p < 2)
  | .pinned d t => decide (d < 8) && decide (t < s.tessPerCd)

/-- SPREAD takes effect (R97): unpinned RUN_GRID whose present descriptors are all striped. -/
def spreadEffective (raw : List Byte) (ds : Descs) : Bool :=
  cls raw == 1 && spreadAsked raw && !pinned raw && ds.all fun d => !d.2.bank

/-- SPREAD was requested and has no effect (R97, R98, R237, R273, R332); a class that says nothing of SPREAD is judged by R97
alone (log entry 21). -/
def spreadIgnored (raw : List Byte) (ds : Descs) : Bool :=
  spreadAsked raw && ([2, 4, 5].contains (cls raw) || pinned raw || ds.any fun d => d.2.bank)

/-- The stacks of an attention layer's heads (R301). -/
def layerStacks (l : Layout) (layer : Nat) : List Nat :=
  (List.range 16).filter fun k => (List.range l.hkv).any fun h => (layer * l.hkv + h) % 16 == k

/-- Stacks whose rows a SCRUB covers, and every stack with an element of a docent command. -/
def stacksOf (banks : List (Nat × Nat)) : List Nat := (List.range 16).filter fun k => banks.any fun b => b.1 == k

/-- The engines a checked command uses; `banks` are those of its groups (R268). -/
def State.enginesOf (s : State) (ctx : Nat) (raw : List Byte) (ds : Descs) (banks : List (Nat × Nat)) : List EngineId :=
  let p := (s.ctx ctx).port
  match cls raw with
  | 1 => if pinned raw then [.pinned (targetDie raw) (targetTess raw)]
      else if spreadEffective raw ds then (List.range 8).map fun i => .tessGroup ((targetDie raw + i) % 8)
      else [.tessGroup (targetDie raw)]
  | 2 => [.attn (targetDie raw)]
  | 3 => [.dma (targetDie raw)]
  | 4 =>
    if opc raw = 3 then
      match (s.ctx ctx).layout with
      | some l => (layerStacks l (u16 raw 0x22)).map .registrar
      | none => []
    else if 0x10 ≤ opc raw then (List.range 16).map .registrar
    else (stacksOf banks).map .registrar
  | 5 => (List.range 6).map .courier
  | 6 => [.hostCopy p]
  | _ => [.hostCtl p]

/-- A command that holds engine-queue entries: accepted, its record not written, and not refused (R362). -/
def Cmd.holds (c : Cmd) (e : EngineId) : Bool := c.engines.contains e

/-- The queue an engine's entries lie in: the four engines of a compute die share one, as do the two kinds of a host DMA
engine. -/
def engineQueue : EngineId → Nat
  | .tessGroup d | .pinned d _ | .attn d | .dma d => d
  | .registrar k => 8 + k
  | .courier l => 24 + l
  | .hostCopy p | .hostCtl p => 30 + p

/-- Entries of an engine queue (R362). -/
def State.queueRoom (s : State) : Nat → Nat
  | q => if q < 8 then 32 * s.tessPerCd else if q < 24 then 1024 else 2048

/-- Every engine queue a command needs has a free entry. -/
def State.roomFor (s : State) (es : List EngineId) : Bool :=
  es.all fun e => decide ((s.cmds.filter fun c => c.engines.any fun x => engineQueue x == engineQueue e).length < s.queueRoom (engineQueue e))

/-- Every part of the command has been started by its engine. -/
def Cmd.allStarted (c : Cmd) : Bool := c.stage == .running && c.engines.all fun e => c.startedOn.contains e

/-- Whether a running command still takes a unit of an engine: a docent command frees a stack when its part has no task
left (R293). -/
def Cmd.occupies (c : Cmd) (e : EngineId) : Bool :=
  (c.stage == .running || c.stage == .killing) && c.startedOn.contains e &&
  match e, c.work with
  | .registrar k, .doc d => !d.planned.contains k || d.tasks.any fun t => t.stack == k
  | _, _ => true

end Sys2Proof.Machine
end

