-- ==== Sys2Proof/Machine/Ledger.lean ====
section
/-! DEFINITION. The couriers' two sides (spec 12): frames as bytes, the ledger and its handles, the judging of copies and
the bins. Each courier takes one frame at a time (R340). -/

namespace Sys2Proof.Machine

/- ---- frames (R357) ---- -/

def frameBytes (f : Frame) : List Byte :=
  leBytes f.type 1 ++ leBytes (f.reason % 8 + 8 * (f.reserved % 32)) 1 ++ leBytes f.omod 1 ++ leBytes f.old 1 ++
  leBytes f.ledger 2 ++ leBytes f.gen 2 ++ leBytes f.expert 2 ++ leBytes f.rrow 2 ++ leBytes f.step 4 ++ leBytes f.binref 4 ++
  leBytes f.payload.length 2 ++ leBytes f.fmt 1 ++ leBytes (f.reserved / 32) 9 ++ f.payload

/-- The frame that bytes hold; `reserved` gathers every reserved bit. -/
def frameOf (b : List Byte) : Frame :=
  { type := u8 b 0, reason := u8 b 1 % 8, omod := u8 b 2 % 64, old := u8 b 3 % 8, ledger := u16 b 4, gen := u16 b 6,
    expert := u16 b 8 % 4096, rrow := u16 b 10, step := u32 b 12, binref := u32 b 16, fmt := u8 b 22,
    reserved := u8 b 1 / 8 + 32 * (u8 b 2 / 64 + 4 * (u8 b 3 / 8) + 128 * (u16 b 8 / 4096) + 2048 * ofLe ((b.drop 23).take 9)),
    payload := (b.drop 32).take (u16 b 20) }

/-- Send a frame from a courier to a module's couriers: over the links, or over the fabric to a courier of this module. -/
def State.sendFrame (s : State) (src m ld : Nat) (f : Frame) : State :=
  if m = s.modid then { s with frames := s.frames ++ [(src, ld, f)] }
  else
    let bs := frameBytes f
    s.originate m 0x21 0 (ceilDiv bs.length 32) 0 0 (padTo (32 * ceilDiv bs.length 32) bs)

/- ---- the ledger (R339 to R342) ---- -/

def ledgerKey (ld i : Nat) : Nat := 65536 * ld + i
def handleKey (ctx h : Nat) : Nat := 64 * ctx + h

/-- Keys of the entries of a handle. -/
def State.entriesOf (s : State) (ctx h : Nat) : List Nat :=
  (s.ledger.filter fun e => e.2.st != .free && e.2.ctx == ctx && e.2.handle == h).map (·.1)

/-- Bytes of result space an entry of a handle takes (R336). -/
def Handle.row (h : Handle) : Nat := h.rout * (Fmt.ofCode h.rfmt).bytes

/-- Free ledger entries of a link die. -/
def State.ledgerFree (s : State) (ld : Nat) : Nat :=
  65536 - (s.ledger.filter fun e => e.1 / 65536 == ld && e.2.st != .free).length

/-- The first number at or above i that is not in a list (fuel: the list's length and one). -/
def firstFree (used : List Nat) : Nat → Nat → Nat
  | 0, i => i
  | n + 1, i => if i ∈ used then firstFree used n (i + 1) else i

/-- An entry returns to FREE (R339, R341): its generation rises and its result space is given back. -/
def State.freeEntry (s : State) (k : Nat) : State :=
  let e := s.entry k
  let row := (s.handle (handleKey e.ctx e.handle)).row
  (s.modEntry k fun x => { gen := (x.gen + 1) % 65536 }).modCourier (k / 65536) fun c => { c with resUsed := c.resUsed - row }

/-- An ORPHAN handle whose last entry is gone becomes FREE (R334). -/
def State.settleHandle (s : State) (ctx h : Nat) : State :=
  let k := handleKey ctx h
  if (s.handle k).st = .orphan ∧ s.entriesOf ctx h = [] then s.modHandle k fun _ => {} else s

/-- An entry of an ORPHAN handle is freed at once (R341). -/
def State.orphanEntry (s : State) (k : Nat) : State :=
  let e := s.entry k
  ((s.freeEntry k).modCourier (k / 65536) fun c => { c with orphaned := sat64 (c.orphaned + 1) }).settleHandle e.ctx e.handle

/-- An entry reaches an outcome state, which its courier counts (R339, R360). -/
def State.outcome (s : State) (k : Nat) (st : LSt) (res : List Byte := []) : State :=
  let e := s.entry k
  let s1 := (s.modEntry k fun x => { x with st := st, res := res }).modCourier (k / 65536) fun c =>
    match st with
    | .doneP => { c with processed := sat64 (c.processed + 1) }
    | .doneC => { c with capacity := sat64 (c.capacity + 1) }
    | _ => { c with unreach := sat64 (c.unreach + 1) }
  if (s.handle (handleKey e.ctx e.handle)).st = .orphan then s1.orphanEntry k else s1

/-- A frame that no rule applies to (R342). -/
def State.staleFrame (s : State) (ld : Nat) : State :=
  s.modCourier ld fun c => { c with stale := sat64 (c.stale + 1) }

/-- The entry a frame names, if its generation matches (R342). -/
def State.matching (s : State) (ld : Nat) (f : Frame) : Option LEntry :=
  let e := s.entry (ledgerKey ld f.ledger)
  if e.st != .free && e.gen == f.gen && f.omod == s.modid && f.old == ld then some e else none

/-- A context leaves OPEN or a DISPATCH fails: a handle becomes ORPHAN and its finished and unsent entries go (R334, R341). -/
def State.orphanHandle (s : State) (ctx h : Nat) : State :=
  let k := handleKey ctx h
  match (s.handle k).st with
  | .sending | .out =>
    let s1 := s.modHandle k fun x => { x with st := .orphan }
    let gone := (s1.entriesOf ctx h).filter fun i => match (s1.entry i).st with
      | .reserved | .doneP | .doneC | .doneU => true
      | _ => false
    (gone.foldl (fun t i => t.orphanEntry i) s1).settleHandle ctx h
  | _ => s

def State.orphanHandles (s : State) (ctx : Nat) : State := (List.range 64).foldl (fun t h => t.orphanHandle ctx h) s

/- ---- the running DISPATCH and its verdicts (R336, R337) ---- -/

/-- The four words of a DISPATCH's record, from its entries as they stand. -/
def State.dispatchEnding (s : State) (ctx h : Nat) (w : DispWork) : Ending :=
  let es := (s.entriesOf ctx h).map s.entry
  let n (p : LSt → Bool) : Nat := es.countP fun e => p e.st
  { status := .ok, detail := es.length, r0 := n fun x => x == .accepted || x == .doneP, r1 := n (· == .doneC),
    r2 := n (· == .doneU), r3 := w.padding }

/-- A DISPATCH is done when every copy has a verdict or is recorded as unreachable. -/
def State.dispatchDone (s : State) (c : Cmd) : State :=
  match c.work with
  | .disp w =>
    let h := u8 c.raw 0x20
    if c.stage == .running && w.sent &&
        (s.entriesOf c.id.ctx h).all (fun k => (s.entry k).st != .reserved && (s.entry k).st != .sent) then
      s.finish c.id (s.dispatchEnding c.id.ctx h w)
    else s
  | _ => s

def State.settleDispatches (s : State) : State := s.cmds.foldl State.dispatchDone s

/- ---- bins (R343 to R346) ---- -/

def Slot.bin (x : Slot) (step : Nat) : BinSet := if step % 2 = 0 then x.even else x.odd
def Slot.setBin (x : Slot) (step : Nat) (b : BinSet) : Slot := if step % 2 = 0 then { x with even := b } else { x with odd := b }
/-- The bin of a step, empty where the set holds another step. -/
def Slot.binOf (x : Slot) (step : Nat) : BinSet := let b := x.bin step; if b.step = step ∧ b.copies ≠ [] then b else {}

/-- A slot has a step open. -/
def Slot.opens (x : Slot) (step : Nat) : Bool := x.isOpen && (match x.newest with
  | some n => n.1 == step
  | none => false)

/-- A courier answers a copy: a VERDICT or RETURN to its origin courier. -/
def State.answer (s : State) (ld : Nat) (f : Frame) (type reason binref : Nat) : State :=
  s.sendFrame ld f.omod f.old { f with type := type, reason := reason, binref := binref, payload := [], reserved := 0 }

/-- What R343 says of a copy at its home courier. -/
inductive Verdict where
  | accept
  | refuse (reason : Nat)
  | hold
deriving DecidableEq, Repr

/-- The table of R343, first row that applies; a row longer than BROW is refused (R345). -/
def State.judge (s : State) (ld slot owner : Nat) (f : Frame) : Verdict :=
  let x := s.slot slot
  if (s.ctx owner).st ≠ .opened then .refuse 5
  else match x.newest with
    | none => .hold
    | some (step, cap, brow) =>
      if f.step = step then
        if !x.isOpen then .refuse 2
        else if brow < f.payload.length then .refuse 4
        else if cap ≤ (x.binOf step).copies.length then .refuse 1
        else if s.binMib * 1048576 < (s.courier ld).used + f.payload.length then .refuse 4
        else .accept
      else if step < f.step then .hold
      else .refuse 2

/-- A copy enters its bin, with a fresh BINREF. -/
def State.binCopy (s : State) (ld slot : Nat) (f : Frame) : State :=
  let ref := 6 * (s.courier ld).nextRef + ld
  let s1 := s.modSlot slot fun x =>
    let b := x.binOf f.step
    x.setBin f.step { used := true, step := f.step, gathered := false, copies := b.copies ++ [{ ref := ref, frame := f }] }
  (s1.modCourier ld fun c => { c with nextRef := c.nextRef + 1, used := c.used + f.payload.length }).answer ld f 2 0 ref

/-- Apply a verdict: whether the copy was accepted, refused or is held. -/
def State.giveVerdict (s : State) (ld slot owner : Nat) (f : Frame) : Option Bool × State :=
  match s.judge ld slot owner f with
  | .accept => (some true, s.binCopy ld slot f)
  | .refuse r => (some false, s.answer ld f 2 r 0)
  | .hold => (none, s.modCourier ld fun c => { c with held := c.held ++ [(slot, f)] })

/-- This module's own map gives an expert no slot here (the first row of R343). -/
def State.notHere (s : State) (f : Frame) : Bool :=
  let e := s.expertEntry f.expert
  !expertValid e || expertModule e != s.modid

/-- A COPY frame at a courier (R343): its own map decides the slot; a map entry that names no slot here is answered by the
courier that got the frame. -/
def State.takeCopy (s : State) (ld : Nat) (f : Frame) : State :=
  let e := s.expertEntry f.expert
  if s.notHere f then s.answer ld f 2 6 0
  else
    let home := expertSlot e % 6
    (((s.modCourier home fun c => { c with received := sat64 (c.received + 1) }).giveVerdict home (expertSlot e) (expertOwner e) f)).2

/-- Bytes a bin set takes. -/
def BinSet.size (b : BinSet) : Nat := (b.copies.map fun c => c.frame.payload.length).foldl (· + ·) 0

/-- Empty the bin set of a step. -/
def State.emptyBin (s : State) (slot step : Nat) : State :=
  let n := ((s.slot slot).binOf step).size
  (s.modSlot slot fun x => if (x.bin step).step = step then x.setBin step {} else x).modCourier (slot % 6) fun c => { c with used := c.used - n }

/-- Slots of a context (R332, R329). -/
def State.slotsOf (s : State) (ctx : Nat) : List Nat :=
  (List.range 256).filter fun i => s.slotOwner i == some ctx

/-- R355: the owner of a slot left OPEN. -/
def State.closeSlotFor (s : State) (slot : Nat) : State :=
  let ld := slot % 6
  let x := s.slot slot
  let held := ((s.courier ld).held.filter fun h => h.1 == slot).map (·.2)
  let binned := (x.even.copies ++ x.odd.copies).filter fun c => !c.acked && !c.gone
  let s1 := (held ++ binned.map (·.frame)).foldl (fun t f => t.answer ld f 5 5 0) s
  (s1.modSlot slot fun y => { y with isOpen := false, even := {}, odd := {} }).modCourier ld fun c =>
    { c with held := c.held.filter fun h => h.1 != slot, used := c.used - x.even.size - x.odd.size }

/-- Both sides of a context that leaves OPEN (R334, R355). -/
def State.courierTeardown (s : State) (ctx : Nat) : State :=
  (s.slotsOf ctx).foldl State.closeSlotFor (s.orphanHandles ctx)

/- ---- EXPERT_RETURN's answers (R348, R358) ---- -/

/-- The copies of a command's step bins. -/
def State.binsOf (s : State) (first count step : Nat) : List BinCopy :=
  (List.range count).flatMap fun i => ((s.slot (first + i)).binOf step).copies

/-- An EXPERT_RETURN is done when every copy is acknowledged or its origin unreachable. -/
def State.returnDone (s : State) (c : Cmd) : State :=
  if c.stage == .running && c.work == .returning then
    let cs := s.binsOf (u16 c.raw 0x24) (u16 c.raw 0x26) (u32 c.raw 0x20)
    if cs.all fun b => b.acked || b.gone then
      s.finish c.id { status := .ok, detail := sat32 (cs.countP (·.acked)), r0 := sat32 (cs.countP (·.gone)) }
    else s
  else s

def State.settleReturns (s : State) : State := s.cmds.foldl State.returnDone s

/-- Change the copies of every bin. -/
def State.mapBins (s : State) (f : BinCopy → BinCopy) : State :=
  { s with slots := s.slots.map fun x => (x.1, { x.2 with
      even := { x.2.even with copies := x.2.even.copies.map f }, odd := { x.2.odd with copies := x.2.odd.copies.map f } }) }

/-- R354 and R348 when a module becomes unreachable: its entries end in DONE_U, and its unanswered copies will be counted, even if
it joins again first. -/
def State.courierUnreachable (s : State) (m : Nat) : State :=
  let lost := (s.ledger.filter fun e => (e.2.st == .sent || e.2.st == .accepted) && e.2.dest == m).map (·.1)
  let s1 := lost.foldl (fun t k => t.outcome k .doneU) s
  let s2 := s1.mapBins fun b => if b.frame.omod = m ∧ !b.acked then { b with gone := true } else b
  (s2.settleDispatches).settleReturns

end Sys2Proof.Machine
end

