-- ==== Sys2Proof/Machine/Sched.lean ====
section
/-! DEFINITION. When a command may start (R84, R89, R333), who goes first (R363, R364), and who is killed (R365, R367). -/

namespace Sys2Proof.Machine

/- ---- conditions to start ---- -/

/-- Every earlier command of the queue has started, was refused, ended by WAIT_TIMEOUT, or its record is written (R83, R84). -/
def State.prevStarted (s : State) (c : Cmd) : Bool :=
  s.cmds.all fun p => !(p.id.ctx == c.id.ctx && p.id.q == c.id.q && decide (p.id.pos < c.id.pos)) || p.hasStarted || p.ending.isSome

/-- Every earlier command of the queue has committed or failed. -/
def State.earlierDone (s : State) (id : CmdId) : Bool :=
  s.cmds.all fun p => !(p.id.ctx == id.ctx && p.id.q == id.q && decide (p.id.pos < id.pos))

/-- The conditions of R84 except the wait. -/
def State.orderMet (s : State) (c : Cmd) : Bool :=
  s.prevStarted c && (!afterCommit c.raw || s.earlierDone c.id)

/-- The value of the command's wait semaphore meets WAIT_VALUE (R89). -/
def State.valueMet (s : State) (c : Cmd) : Bool :=
  let r := u16 c.raw 0x14
  !present r || decide (u32 c.raw 0x18 ≤ (s.sem (semNo r)).toNat)

/- ---- a DISPATCH before it starts (R336 steps 1 and 2) ---- -/

/-- What the expert numbers ask for: the copies (q, expert), or the smallest bad position. A rerun judges only copies that have no
entry yet (R338); `made` are the others. -/
def dispatchCopies (s : State) (made : List Nat) (ns : List Nat) : Except Nat (List (Nat × Nat)) :=
  let bad (n : Int) : Bool := decide (0 ≤ n) && (decide (4096 ≤ n) || !expertValid (s.expertEntry n.toNat))
  let idx := ns.zipIdx.map fun x => (x.2, toSigned 32 x.1)
  match idx.find? fun x => !made.contains x.1 && bad x.2 with
  | some x => .error x.1
  | none => .ok ((idx.filter fun x => decide (0 ≤ x.2)).map fun x => (x.1, x.2.toNat))

/-- The sending courier of a copy to an expert (R330). -/
def State.senderOf (s : State) (expert : Nat) : Nat :=
  let e := s.expertEntry expert
  if expertModule e = s.modid then expertSlot e % 6 else s.routeDie (expertModule e)

/-- Read the whole expert-number tensor. -/
def State.expertNumbers (s : State) (c : Cmd) : Except Fail (List Nat × List Nat) × State :=
  let d := c.descD 0x0C
  s.readElems (c.eng none) d (tuples d.size)

/-- Result row bytes of a DISPATCH. -/
def dispatchRow (raw : List Byte) : Nat := u16 raw 0x22 * (Fmt.ofCode (u8 raw 0x21)).bytes

/-- The copies that have an entry under a handle. -/
def State.madeCopies (s : State) (ctx h : Nat) : List Nat := (s.entriesOf ctx h).map fun k => (s.entry k).copyNo

/-- Copies of a list that have no entry under the handle yet (R338). -/
def State.newCopies (s : State) (ctx h : Nat) (l : List (Nat × Nat)) : List (Nat × Nat) :=
  l.filter fun x => !(s.madeCopies ctx h).contains x.1

/-- Every courier can supply the entries and result space at once (R336 step 2). -/
def State.canReserve (s : State) (row : Nat) (l : List (Nat × Nat)) : Bool :=
  (List.range 6).all fun ld =>
    let n := l.countP fun x => s.senderOf x.2 == ld
    decide (n ≤ s.ledgerFree ld) && decide ((s.courier ld).resUsed + n * row ≤ s.resMib * 1048576)

/-- A COMBINE's mismatch (R351): the handle holds no such exchange. -/
def State.combineMismatch (s : State) (c : Cmd) : Bool :=
  let h := s.handle (handleKey c.id.ctx (u8 c.raw 0x20))
  h.st == .free || h.st == .orphan ||
  h.t != (c.descD 0x08).dim 1 || h.k != (c.descD 0x0C).dim 0 || h.rout != (c.descD 0x08).dim 0 || h.rfmt != u8 c.raw 0x24

/-- A COMBINE is ready (R351). -/
def State.combineReady (s : State) (c : Cmd) : Bool :=
  let h := u8 c.raw 0x20
  s.combineMismatch c || (s.entriesOf c.id.ctx h).all fun k => match (s.entry k).st with
    | .doneP | .doneC | .doneU => true
    | _ => false

/-- The conditions to start of a CLASS 0x05 opcode (R333, R336, R346, R351); a DISPATCH waits until its expert numbers have been
read, also from another module. -/
def State.courierCond (s : State) (c : Cmd) : Bool :=
  let step := u32 c.raw 0x20
  let slots := (List.range (u16 c.raw 0x26)).map fun i => s.slot (u16 c.raw 0x24 + i)
  match opc c.raw with
  | 1 =>
    let h := u8 c.raw 0x20
    (s.handle (handleKey c.id.ctx h)).st == .free &&
    match (s.expertNumbers c).1 with
    | .error _ => true
    | .ok (ns, miss) => miss == [] && match dispatchCopies s [] ns with
      | .error _ => true
      | .ok l => s.canReserve (dispatchRow c.raw) (s.newCopies c.id.ctx h l)
  | 2 => (s.handle (handleKey c.id.ctx (u8 c.raw 0x20))).st != .sending
  | 3 => slots.all fun x => (x.bin step).copies == []
  | 5 => slots.all fun x => !x.opens step
  | 6 => slots.all fun x => !x.opens step && ((x.binOf step).copies == [] || (x.binOf step).gathered)
  | _ => true

/-- A command may be chosen by an engine (R362): first run or rerun (R369). -/
def State.readyNow (s : State) (c : Cmd) : Bool :=
  c.stage == .queued && c.ending.isNone && c.waitMet &&
  (if c.hasStarted then c.unacked == 0 && c.writes == [] else s.orderMet c) &&
  (cls c.raw != 6 || (s.func (s.ctx c.id.ctx).fn).busMaster) &&
  (cls c.raw != 5 || c.hasStarted || s.courierCond c)

/-- Bring one command's wait and readiness up to date. -/
def State.refreshCmd (s : State) (c : Cmd) : Cmd :=
  let lim := c.limitOn || (c.stage == .queued && c.ending.isNone && s.orderMet c)
  let met := c.waitMet || (lim && c.stage == .queued && s.valueMet c)
  let c1 := { c with limitOn := lim, waitMet := met }
  { c1 with readyAt := if s.readyNow c1 then (match c.readyAt with
    | some t => some t
    | none => some s.clock) else if c.stage == .running then c.readyAt else none }

/-- Bring every command up to date after a change: every value of a semaphore is examined (R90). -/
def State.refresh (s : State) : State := { s with cmds := s.cmds.map s.refreshCmd }

/-- A command may end by WAIT_TIMEOUT: its limit runs and its wait is not satisfied (R89, R333). -/
def State.mayTimeOut (s : State) (c : Cmd) : Bool :=
  c.limitOn && c.ending.isNone && decide (0 < u16 c.raw 0x1E) &&
  ((c.stage == .queued && !c.hasStarted && (!c.waitMet || (cls c.raw == 5 && !s.courierCond c))) ||
   (c.stage == .running && cls c.raw == 5 && opc c.raw == 2 && !s.combineReady c))

/- ---- shares and order (R363, R364) ---- -/

def accountKey (e : EngineId) (ctx : Nat) : Nat := 256 * engineKey e + ctx

/-- A command of a context is within share on an engine. -/
def State.withinShare (s : State) (e : EngineId) (ctx : Nat) : Bool :=
  decide (0 < (s.ctx ctx).share) && decide (0 ≤ s.account (accountKey e ctx))

/-- The context that last started a command of a priority class on an engine. -/
def State.lastOf (s : State) (e : EngineId) (prio : Nat) : Nat := Assoc.get 255 s.lastCtx (4 * engineKey e + prio)

/-- The rank of a ready command: smaller goes first. -/
def State.rank (s : State) (e : EngineId) (c : Cmd) : List Nat :=
  let x := s.ctx c.id.ctx
  let at_ := c.readyAt.getD 0
  if s.withinShare e c.id.ctx then [0, at_, c.id.ctx, c.id.q, c.id.pos]
  else [1 + x.prio, (c.id.ctx + 255 - s.lastOf e x.prio) % 256, at_, c.id.q, c.id.pos]

/-- Lexicographic order. -/
def lexLt : List Nat → List Nat → Bool
  | a :: r, b :: t => decide (a < b) || (a == b && lexLt r t)
  | _, _ => false

/-- The least of a list by a rank. -/
def leastBy (f : Cmd → List Nat) : List Cmd → Option Cmd
  | [] => none
  | c :: r => match leastBy f r with
    | none => some c
    | some d => if lexLt (f d) (f c) then some d else some c

/- ---- units (R362) ---- -/

/-- Units of an attention command still to hand out. -/
def Cmd.attnLeft (c : Cmd) : Bool :=
  match c.work with
  | .attn a => decide (a.next < attnUnits c.raw c.descs)
  | _ => false

def Cmd.isStep (c : Cmd) : Bool := cls c.raw == 4 && decide (0x10 ≤ opc c.raw)

/-- The tessera of a pinned engine, and the group item it runs. -/
def State.groupItem (s : State) (d t : Nat) : Option CmdId :=
  match (s.tessera (128 * d + t)).item with
  | some i => match s.cmd i.cmd with
    | some c => if pinned c.raw then none else some c.id
    | none => none
  | none => none

/-- Commands that keep an engine from starting c (R362). -/
def State.blockers (s : State) (e : EngineId) (c : Cmd) : List Cmd :=
  let run := s.cmds.filter fun x => x.occupies e
  match e with
  | .tessGroup _ => run
  | .pinned d t => run ++ (match s.groupItem d t with
      | some y => s.cmds.filter fun x => x.id == y
      | none => [])
  | .attn _ => run.filter fun x => x.stage == .killing || x.attnLeft
  | .dma _ => if run.length < 4 then [] else run
  | .registrar _ => run ++ (if c.isStep then s.cmds.filter fun x =>
      x.isStep && x.id.ctx == c.id.ctx && x.id != c.id && x.hasStarted && !(x.stage == .queued) && !(x.occupies e) else [])
  | .courier _ => []
  | .hostCopy _ => run
  | .hostCtl _ => run.filter fun x => x.id.ctx == c.id.ctx

/-- Whether a halted or clearing tessera keeps a pinned engine (R131). -/
def State.siteFree (s : State) (e : EngineId) : Bool :=
  match e with
  | .pinned d t => (s.tessera (128 * d + t)).st != .halted
  | _ => true

def State.canStart (s : State) (e : EngineId) (c : Cmd) : Bool := (s.blockers e c).isEmpty && s.siteFree e

/-- Commands an engine may choose from: ready, or started on another engine and not yet on this one. -/
def State.candidates (s : State) (e : EngineId) : List Cmd :=
  s.cmds.filter fun c => c.engines.contains e && !c.startedOn.contains e && c.ending.isNone &&
    ((c.stage == .queued && c.readyAt.isSome) || c.stage == .running)

/-- A running command may be killed by preemption on an engine for X (R365): conditions on share and class. -/
def State.outranked (s : State) (e eY : EngineId) (x y : Cmd) : Bool :=
  let wx := s.withinShare e x.id.ctx
  let wy := s.withinShare eY y.id.ctx
  !wy && (wx || decide ((s.ctx x.id.ctx).prio < (s.ctx y.id.ctx).prio))

/-- The engine on which a running command is judged. -/
def judgedOn (e : EngineId) (y : Cmd) : EngineId :=
  if y.engines.contains e then e else match e with
    | .pinned d _ => .tessGroup d
    | x => x

/-- The command that a ready X makes an engine kill: of those outranked the one that ranks last, then started last; one X has one
kill on an engine (log entry 78). -/
def State.victim (s : State) (e : EngineId) (x : Cmd) : Option Cmd :=
  let run := s.blockers e x
  if e == .courier 0 || x.killedOn.contains e then none
  else
    let may := run.filter fun y => y.stage == .running && y.id != x.id && s.outranked e (judgedOn e y) x y &&
      (match e with
       | .hostCtl _ => false
       | _ => true)
    leastBy (fun y => [4 - (s.ctx y.id.ctx).prio, 2 ^ 64 - y.startAt]) may

/- ---- kills (R131, R367) ---- -/

/-- A preemption or quiescent-point kill begins (R367, R371): what the engines have issued lands, and bytes of this run may still
show until the command commits (R87). RERUN is set now (DESIGN CHOICE, log entry 79: R78 says killed and restarted). -/
def State.kill (s : State) (id : CmdId) : State :=
  match s.cmd id with
  | none => s
  | some c =>
    if c.stage = .running then
      let s1 := (s.landAllIssued c).stopWork id
      let s2 : State := { s1 with mem := { s1.mem with killed := insertNat s1.mem.killed c.stamp } }
      (s2.modCmd id fun x => { x with stage := .killing, rerun := true }).modCtx id.ctx fun x =>
        { x with kills := satAdd 0xFFFFFFFF x.kills 1 }
    else s

/-- No engine starts a command: a quiescent point or relock is in progress, or the package is in S2 (R373, R57, R548). -/
def State.stopped (s : State) : Bool := s.quiesce || s.relocking || s.pkg == .s2

end Sys2Proof.Machine
end

