-- ==== Sys2Proof/Machine/Remote.lean ====
section
/-! DEFINITION. What a lost peer or link group does (R425 to R428), and how a context begins to drain (R71, R72). -/

namespace Sys2Proof.Machine

/- ---- endings that come from outside the command's own work ---- -/

/-- A command whose status is not fixed, or whose work succeeded and waits for its commit, takes another ending. -/
def Cmd.open_ (c : Cmd) : Bool :=
  match c.ending with
  | none => true
  | some e => e.status == .ok || e.status == .okScaleRerun

/-- End a command with a status it did not produce itself, whatever it has; a killed one keeps its place until the kill completes,
and writes that its engines issued land (R367). -/
def State.endWith (s : State) (id : CmdId) (e : Ending) : State :=
  match s.cmd id with
  | none => s
  | some c =>
    (if c.stage = .running then (s.landAllIssued c).stopWork id else s).modCmd id fun x =>
      { x with ending := some e, unacked := 0, writes := [], stage := if x.stage = .killing then .killing else .finished }

/-- End a command whose status is not fixed. -/
def State.endCmd (s : State) (id : CmdId) (e : Ending) : State :=
  match s.cmd id with
  | none => s
  | some c => if c.open_ then s.endWith id e else s

/- ---- an unreachable peer (R425) ---- -/

/-- Commands with a request to m outstanding: writes and signals first. -/
def State.resolvePeer (s : State) (m : Nat) : State :=
  let mine := s.reqs.filter fun r => r.peer == m
  let isRead (r : Req) : Bool := match r.kind with
    | .read _ _ => true
    | _ => false
  let lost := (mine.filter fun r => !isRead r).map (·.cmd)
  let reads := (mine.filter isRead).map (·.cmd)
  let s1 := lost.foldl (fun t id => t.endCmd id { status := .remoteIndeterminate, detail := m }) s
  let s2 := reads.foldl (fun t id => t.endCmd id { status := .remoteUnreachable, detail := m }) s1
  { s2 with reqs := s2.reqs.filter fun r => r.peer != m }

/-- Waiting flits without the packets of VC0 to VC2 from one module to another whose first flit waits; `dropping` are the channels
on which such a packet goes on. -/
def dropPackets (src dst : Nat) : List Nat → List Flit → List Flit
  | _, [] => []
  | dropping, f :: r =>
    let h := Packet.ofBytes (padTo 16 f.payload)
    let d := if f.sop then f.vc != 3 && h.smod == src && h.dmod == dst else dropping.contains f.vc
    let rest := dropPackets src dst ((if d && !f.eop then [f.vc] else []) ++ dropping.filter (· != f.vc)) r
    if d then rest else f :: rest

/-- Mark module m unreachable (R425): what waits for a route or for credit is discarded. A JOIN already out is repeated still when m
was unreachable before (R427). -/
def State.markUnreachable (s : State) (m : Nat) : State :=
  let s1 := s.modPeer m fun p =>
    { p with reachable := false, marks := satAdd 255 p.marks 1, epoch := (p.epoch + 1) % 65536, joining := p.joining && !p.reachable }
  let s2 := (List.range 6).foldl (fun t ld => t.modCourier ld fun c =>
    { c with waiting := c.waiting.filter fun w => w.dmod != m }) s1
  let s3 := (List.range 48).foldl (fun t g => if (t.group g).wait = [] then t else t.modGroup g fun x =>
    { x with wait := dropPackets s.modid m [] x.wait }) s2
  (s3.courierUnreachable m).resolvePeer m

/- ---- transit (R417, R418, R428) ---- -/

/-- A fence for a packet's triple; the newest of a pair of modules stands. -/
def State.setFence (s : State) (ld : Nat) (p : Packet) : State :=
  s.modCourier ld fun c =>
    { c with fences := c.fences.filter (fun f => !(f.1 == p.smod && f.2.1 == p.dmod)) ++ [(p.smod, p.dmod, p.pepoch)] }

/-- A packet passes the fences of a link die: discarded, or it lifts the fence of its pair. -/
def State.fenceCheck (s : State) (ld : Nat) (p : Packet) : Bool × State :=
  if (s.courier ld).fences.any fun f => f == (p.smod, p.dmod, p.pepoch) then
    (true, s.modCourier ld fun c => { c with pkFenced := sat64 (c.pkFenced + 1) })
  else (false, s.modCourier ld fun c => { c with fences := c.fences.filter fun f => !(f.1 == p.smod && f.2.1 == p.dmod) })

/-- Forward a packet for another module (R417, R418). -/
def State.forward (s : State) (ld : Nat) (p : Packet) : State :=
  let drop (t : State) : State := t.modCourier ld fun c => { c with pkHop := sat64 (c.pkHop + 1) }
  match s.fenceCheck ld p with
  | (true, s1) => s1
  | (false, s1) =>
    if p.hops = 0 then drop s1
    else if s1.routeValid p.dmod && (s1.routeOut p.dmod).isSome then
      let out := s1.routeDie p.dmod
      match (if out = ld then (false, s1) else s1.fenceCheck out p) with
      | (true, s2) => s2
      | (false, s2) => s2.sendPacket { p with hops := p.hops - 1 }
    else
      let s2 := drop s1
      if vcOf p.ptype = 3 then s2 else s2.pathLostTo p

/- ---- a group goes DOWN (R414, R428) ---- -/

/-- Headers in discarded flits: those that begin a packet. -/
def headersOf (fs : List Flit) : List Packet := (fs.filter (·.sop)).map fun f => Packet.ofBytes (padTo 16 f.payload)

/-- One discarded packet header. -/
def State.lostPacket (s : State) (ld : Nat) (p : Packet) : State :=
  if p.smod = s.modid then if (s.peer p.dmod).reachable then s.markUnreachable p.dmod else s
  else if p.dmod = s.modid then s
  else (s.pathLostTo p).setFence ld p

/-- A group's last port left UP: its buffers are emptied and counted, its packets resolved. -/
def State.groupDown (s : State) (g : Nat) : State :=
  let gr := s.group g
  let ld := s.groupDie g
  let fs := gr.replay.map (·.2) ++ gr.wait ++ gr.ahead
  let half := gr.asm.map fun a => a.2
  let n := fs.length + (half.map fun b => ceilDiv b.length 244).foldl (· + ·) 0
  let s1 := s.modGroup g fun x => { lepoch := x.lepoch }
  let s2 := s1.modCourier ld fun c => { c with pkLost := sat64 (c.pkLost + n) }
  (headersOf fs ++ half.map fun b => Packet.ofBytes (padTo 16 b)).foldl (fun t p => t.lostPacket ld p) s2

/-- A port leaves UP (R414): the transceiver side of its crossing is reset (R63); its flits are resent on the group's other ports, or the group goes DOWN. -/
def State.portLeave (s : State) (p : Nat) : State :=
  let was := (s.port p).st == .up
  let s1 := (s.modPort p fun x => { x with st := .training, fails := [] }).resync (portCrossing p)
  match s.portGroup p with
  | none => s1
  | some g =>
    if !was then s1
    else if s1.groupUp g then s1.resendList g ((s1.group g).replay.filter fun x => x.1 == p)
    else s1.groupDown g

/- ---- DRAINING (R71, R72) ---- -/

/-- The status of a command stays when its context leaves OPEN (R71): it was refused, it ended by WAIT_TIMEOUT, or its failure is
the cause. -/
def Cmd.keepsStatus (c : Cmd) : Bool :=
  match c.ending with
  | none => false
  | some e => c.engines.isEmpty || e.status == .waitTimeout || e.status.tears

/-- What a command of a draining context becomes: a running one is killed, and all but those of R71's exceptions complete with
CONTEXT_TORN_DOWN. -/
def State.tearCmd (s : State) (cause : Cause) (c : Cmd) : State :=
  if c.keepsStatus then s
  else s.endWith c.id { status := .contextTornDown, detail := cause.code } |>.modCmd c.id fun x =>
    if c.stage = .running then { x with stage := .killing } else x

/-- A context leaves OPEN (R70, R71 steps 1 and 2); later causes change nothing (R72). -/
def State.enterDraining (s : State) (ctx : Nat) (cause : Cause) : State :=
  if (s.ctx ctx).st = .opened then
    let s1 := s.modCtx ctx fun c => { c with st := .draining, cause := cause }
    let s2 := (s1.cmds.filter fun c => c.id.ctx == ctx).foldl (fun t c => t.tearCmd cause c) s1
    s2.courierTeardown ctx
  else s

/-- A failure that tears the context down: the failing command keeps its own status (R71). -/
def State.failTears (s : State) (id : CmdId) (e : Ending) (cause : Cause) : State :=
  (((s.stopWork id).finish id e)).enterDraining id.ctx cause

/-- The teardown cause of a status (R70, R80). -/
def Status.cause : Status → Cause
  | .engineHalted => .engineHalt
  | _ => .translationFault

/-- A command fails; a status that tears the context down does so (R80, R379). -/
def State.fail (s : State) (id : CmdId) (e : Ending) : State :=
  if e.status.tears then s.failTears id e e.status.cause else (s.stopWork id).finish id e

end Sys2Proof.Machine
end

