-- ==== Sys2Proof/Machine/Registrar.lean ====
section
/-! DEFINITION. The registrars' page accounts (spec 11): the plans of STEP_RESERVE, STEP_COMMIT and STEP_ABORT, the placards,
and what their commits change. -/

namespace Sys2Proof.Machine

/- ---- frames (R306, R315) ---- -/

/-- The key of a frame in the table of last owners. -/
def frameKey (f : FrameId) : Nat := f.stack * 2 ^ 23 + f.bank * 2 ^ 13 + f.frame

/-- The entries that uncommitted step commands will make reserved: they hold the frames (R314). -/
def State.heldPages (s : State) : List PageEntry :=
  (s.cmds.flatMap fun c => match c.work with
    | .step p => if (c.ending.map (·.status)) == some .ok then p.pages else []
    | _ => []).filter fun e => e.st == .reserved

/-- Frames that a page holds or that an uncommitted step command has taken, in a stack (R307, R314). -/
def State.takenFrames (s : State) (k : Nat) : List FrameId :=
  ((s.pages.filter (·.st != .invalid) ++ s.heldPages).filter (·.stack == k)).map PageEntry.frameId

/-- The bank and frame a stack gives next (R315): the bank with most free frames, ties to the lowest, its lowest free one. -/
def nextFrame (perBank k : Nat) (taken : List FrameId) : Option FrameId :=
  let used := taken.map (·.bank)
  let n (b : Nat) : Nat := used.count b
  let fresh := firstFree (dedup used) (used.length + 1) 0
  let best := if fresh < 1024 then fresh
    else (List.range 1024).foldl (fun a b => if n b < n a then b else a) 0
  if n best < perBank then
    let fs := (taken.filter fun f => f.bank == best).map (·.frame)
    some ⟨k, best, firstFree fs (fs.length + 1) 0⟩
  else none

/- ---- STEP_RESERVE (R313 to R315) ---- -/

/-- The step list as (sequence, length) pairs. -/
def stepList : List Nat → List (Int × Int)
  | a :: b :: r => (toSigned 32 a, toSigned 32 b) :: stepList r
  | _ => []

/-- Whether an entry is the last that names its sequence. -/
def lastNamed (l : List (Int × Int)) (i : Nat) : Bool :=
  match l[i]? with
  | some e => !((l.drop (i + 1)).any fun x => x.1 == e.1)
  | none => false

/-- The tests of R313 step 2 on entry i. -/
def State.stepEntryBad (s : State) (ctx : Nat) (l : Layout) (es : List (Int × Int)) (i : Nat) : Bool :=
  match es[i]? with
  | none => false
  | some (q, n) =>
    if q < 0 ∨ n < 0 ∨ (l.seqMax : Int) ≤ q ∨ (l.maxPos : Int) < n then true
    else lastNamed es i &&
      ((decide (0 < n) && decide (n < ((s.ctx ctx).clenOf q.toNat : Int))) ||
       (n != 0 && s.pages.any fun e => e.ctx == ctx && e.seq == q.toNat && e.st == .leaving))

/-- The counting entries. -/
def countingEntries (es : List (Int × Int)) : List (Nat × Nat) :=
  ((List.range es.length).filter (lastNamed es)).filterMap fun i => (es[i]?).map fun e => (e.1.toNat, e.2.toNat)

/-- A reservation in the making: pages in new states, new pages, frames lacking per stack. -/
structure Hold where
  changed : List PageEntry := []
  taken   : List FrameId := []
  lack    : List (Nat × Nat) := []
  newPages : Nat := 0
  returned : Nat := 0
deriving DecidableEq, Repr

/-- Take a frame for a page, unless the stack has none or its table area no room for the page's block (R314). -/
def State.holdPage (s : State) (ctx seq pair page : Nat) (h : Hold) : Hold :=
  let k := pairStack pair
  let short := { h with lack := Assoc.set 0 h.lack k (Assoc.get 0 h.lack k + 1) }
  let all := s.pages ++ s.heldPages ++ h.changed
  let before := (blocksIn k all).length
  let e0 : PageEntry := ⟨ctx, seq, pair, page, .reserved, k, 0, 0⟩
  let after := (blocksIn k (e0 :: all)).length
  let base := (blocksIn k s.pages).length
  if after ≠ before ∧ s.tblFree k + base < after then short
  else match nextFrame (s.stack k).frames k (s.takenFrames k ++ h.taken.filter fun f => f.stack == k) with
    | none => short
    | some f => { h with
        changed := { e0 with bank := f.bank, frame := f.frame } :: h.changed, taken := f :: h.taken, newPages := h.newPages + 1 }

/-- One page of a counting entry (R310, R313 step 4). -/
def State.stepPage (s : State) (ctx : Nat) (l : Layout) (seq len pair : Nat) (h : Hold) (page : Nat) : Hold :=
  let needed := decide (page * l.n < len)
  match s.page ctx seq pair page with
  | none => if needed then s.holdPage ctx seq pair page h else h
  | some e =>
    match e.st with
    | .reserved => if needed then h else { h with changed := { e with st := .invalid } :: h.changed, returned := h.returned + 1 }
    | .mapped => if len = 0 then { h with changed := { e with st := .leaving } :: h.changed } else h
    | _ => h

/-- The page numbers a change of length from a to b can touch. -/
def touchedPages (l : Layout) (a b : Nat) : List Nat := List.range (ceilDiv (max a b) l.n)

/-- All pages of a counting entry. -/
def State.stepSeq (s : State) (ctx : Nat) (l : Layout) (h : Hold) (e : Nat × Nat) : Hold :=
  let c := s.ctx ctx
  (List.range (l.layers * l.hkv)).foldl (fun a pair =>
    (touchedPages l (max (c.rlenOf e.1) (c.clenOf e.1)) e.2).foldl (s.stepPage ctx l e.1 e.2 pair) a) h

/-- Where a frame lies. -/
def State.frameRange (s : State) (f : FrameId) : Nat × Nat :=
  let a := s.frameAddr f
  (a, a + 16384 + sideBytes (s.stack f.stack).sidemax)

/-- A range becomes part of a command's destination. -/
def State.veilRange (s : State) (stamp lo hi : Nat) : State := { s with mem := { s.mem with veil := ⟨lo, hi, stamp⟩ :: s.mem.veil } }

/-- The frames that a STEP_RESERVE zeroes are its destination, and until its commit they hold old bytes, zeros or anything
(R315, R85). -/
def State.veilFrames (s : State) (stamp : Nat) (fs : List FrameId) : State :=
  fs.foldl (fun t f => t.veilRange stamp (t.frameRange f).1 (t.frameRange f).2)
    { s with mem := { s.mem with killed := insertNat s.mem.killed stamp } }

/-- Frames of a plan to zero: their last owner is another context or none (R315). -/
def State.toZero (s : State) (ctx : Nat) (fs : List FrameId) : List FrameId :=
  fs.filter fun f => s.owner (frameKey f) != some ctx

/-- The whole of R313 to R315: an ending, and the plan when it is OK. -/
def State.planReserve (s : State) (ctx : Nat) (l : Layout) (es : List (Int × Int)) : Ending × StepPlan :=
  match (List.range es.length).find? (s.stepEntryBad ctx l es) with
  | some i => ({ status := .indexOutOfRange, detail := i }, {})
  | none =>
    let cs := countingEntries es
    let h := cs.foldl (s.stepSeq ctx l) {}
    if h.lack ≠ [] then
      ({ status := .pagesExhausted, detail := (h.lack.map (·.2)).foldl (· + ·) 0,
         r0 := (h.lack.map fun x => 2 ^ x.1).foldl (· + ·) 0 }, {})
    else
      let c := s.ctx ctx
      let z := s.toZero ctx h.taken
      ({ status := .ok, detail := sat32 h.newPages, r0 := cs.countP fun e => c.rlenOf e.1 == 0 && e.2 != 0,
         r1 := cs.countP fun e => c.rlenOf e.1 != 0 && e.2 == 0, r2 := sat32 z.length, r3 := sat32 h.returned },
       { pages := h.changed, lens := cs, zero := z,
         shrunk := (cs.filter fun e => decide (0 < e.2) && decide (e.2 < c.rlenOf e.1)).map (·.1) })

/- ---- placards (R303) ---- -/

/-- An exact value rounded to BF16 toward +infinity or toward -infinity. -/
def bf16Dir (up : Bool) : Fp → Nat
  | .nan => Fmt.bf16.nanEnc
  | .inf n => Fmt.bf16.signed n Fmt.bf16.infMag
  | .fin n m e =>
    let away := up != n
    let r := roundMag (if away then .up else .down) .bf16 m e
    Fmt.bf16.signed n (if r.2 && away then Fmt.bf16.infMag else r.1)

/-- The widened value of a K or V element with its group scale (R302). -/
def widen (l : Layout) (data scales : List Byte) (t c : Nat) : Fp :=
  let x := l.fmt.decode (elemAt l.fmt data ((t * l.d + c) * l.fmt.nibbles))
  match l.scale with
  | none => x
  | some (sf, g) => x.mul (sf.decode (ofLe ((scales.drop ((t * l.groups + c / g) * l.sb)).take l.sb)))

/-- The placard of a page over its first `count` tokens. -/
def placard (l : Layout) (kdata scales : List Byte) (count : Nat) : List Byte :=
  let col (c : Nat) : List Fp := (List.range count).map fun t => widen l kdata scales t c
  let top (f : Fp → Fp → Fp) (xs : List Fp) : Fp := match xs with
    | [] => .nan
    | x :: r => r.foldl f x
  (List.range l.d).flatMap (fun c => leBytes (bf16Dir true (top Fp.max (col c))) 2) ++
  (List.range l.d).flatMap (fun c => leBytes (bf16Dir false (top Fp.min (col c))) 2)

/-- The pages a commit rebuilds (R316 step 1). -/
def State.rebuilt (s : State) (ctx : Nat) (l : Layout) : List PageEntry :=
  let c := s.ctx ctx
  s.pages.filter fun e =>
    let lo := c.clenOf e.seq
    let hi := c.rlenOf e.seq
    let a := e.page * l.n
    e.ctx == ctx && e.st != .leaving && e.st != .invalid &&
    (decide (max lo a < min hi (a + l.n)) || (c.shrunk.contains e.seq && decide (0 < lo) && decide (a < hi) && decide (hi < a + l.n)))

/-- Rebuild the placard of one page: an uncorrectable granule among its tokens stops it. -/
def State.rebuildPage (s : State) (ctx : Nat) (l : Layout) (e : PageEntry) : Except Nat (List (Nat × Byte)) × State :=
  let base := s.frameAddr e.frameId
  let count := min l.n ((s.ctx ctx).rlenOf e.seq - e.page * l.n)
  let sb := l.n * l.groups * l.sb
  match s.readGranules ctx (granulesOf base (count * l.row) ++ granulesOf (base + 0x4000 + l.pb) (count * l.groups * l.sb)) with
  | (some a, s1) => (.error a, s1)
  | (none, s1) =>
    let kd := s1.peeks none base (count * l.row)
    let sc := s1.peeks none (base + 0x4000 + l.pb) sb
    (.ok (spread (base + 0x4000) (placard l kd sc count)), s1)

/-- The rebuilt placards of a STEP_COMMIT land, stack by stack; until its commit they are undefined (R316). -/
def State.putPlacards (s : State) (c : Cmd) (l : Layout) (ps : List PageEntry) (ws : List (Nat × Byte)) : State :=
  let s1 := ps.foldl (fun t e => t.veilRange c.stamp (t.frameAddr e.frameId + 0x4000) (t.frameAddr e.frameId + 0x4000 + l.pb)) s
  (List.range 16).foldl (fun t k => (t.landFor c none (registrarSeer k) (ws.filter fun w => t.stackAt w.1 == k)).2) s1

/-- Rebuild pages in order; the stacks whose part failed, with the addresses. -/
def State.rebuildPages (s : State) (ctx : Nat) (l : Layout) : List PageEntry → List (Nat × Byte) × List (Nat × Ending) × State
  | [] => ([], [], s)
  | e :: r =>
    match s.rebuildPage ctx l e with
    | (.error a, s1) =>
      let x := s1.rebuildPages ctx l r
      (x.1, (e.stack, (Fail.ecc a).ending) :: x.2.1, x.2.2)
    | (.ok ws, s1) =>
      let x := s1.rebuildPages ctx l r
      (ws ++ x.1, x.2.1, x.2.2)

/-- The ending of a command some of whose parts failed (R81, R273): one part reports its own status; a status that tears
the context down is reported as such. -/
def partsEnding (nparts : Nat) (fs : List (Nat × Ending)) : Option Ending :=
  match fs with
  | [] => none
  | f :: r =>
    match (f :: r).find? fun x => x.2.status.tears with
    | some x => some x.2
    | none =>
      if nparts ≤ 1 then some f.2
      else
        let low := (f :: r).foldl (fun a x => if x.1 < a.1 then x else a) f
        some { status := .partialFailure, detail := (dedup ((f :: r).map (·.1))).foldl (fun a k => a + 2 ^ k) 0,
               r0 := low.2.status.code }

/- ---- commits (R310, R316 to R318) ---- -/

/-- Pages with some entries replaced; an invalid entry is dropped. -/
def replacePages (ps : List PageEntry) (new : List PageEntry) : List PageEntry :=
  (ps.filter fun e => !(new.any fun x => x.ctx == e.ctx && x.seq == e.seq && x.pair == e.pair && x.page == e.page)) ++
    new.filter fun e => e.st != .invalid

/-- The account moves of one entry's change (R310). -/
def moveAccount (old : Option PageSt) (new : PageSt) (k : Stack) : Stack :=
  match old, new with
  | none, .reserved | some .invalid, .reserved => { k with free := k.free - 1, reserved := k.reserved + 1 }
  | some .reserved, .invalid => { k with reserved := k.reserved - 1, free := k.free + 1 }
  | some .reserved, .mapped => { k with reserved := k.reserved - 1, mapped := k.mapped + 1 }
  | some .mapped, .invalid | some .leaving, .invalid => { k with mapped := k.mapped - 1, free := k.free + 1 }
  | _, _ => k

/-- Apply changed entries with their account moves. -/
def State.movePages (s : State) (new : List PageEntry) : State :=
  let s1 := new.foldl (fun t e => t.modStack e.stack (moveAccount ((s.page e.ctx e.seq e.pair e.page).map (·.st)) e.st)) s
  { s1 with pages := replacePages s1.pages new }

/-- STEP_RESERVE commits. -/
def State.applyReserve (s : State) (ctx : Nat) (p : StepPlan) : State :=
  let s1 := s.movePages p.pages
  let s2 := (p.pages.filter fun e => e.st == .reserved).foldl (fun t e => t.modOwner (frameKey e.frameId) fun _ => some ctx) s1
  let s3 := p.zero.foldl (fun t f =>
    let a := (t.frameRange f).1
    let hi := (t.frameRange f).2
    { t with mem := { t.mem.zero a hi with bad := t.mem.bad.filter (fun g => !(decide (a / 32 ≤ g) && decide (g < hi / 32))),
                                           weak := t.mem.weak.filter (fun g => !(decide (a / 32 ≤ g) && decide (g < hi / 32))) } }) s2
  s3.modCtx ctx fun c =>
    { c with
      rlen := p.lens.foldl (fun l e => Assoc.set 0 l e.1 e.2) c.rlen, stepOpen := true,
      shrunk := p.shrunk.foldl insertNat c.shrunk }

/-- The entries a STEP_COMMIT changes. -/
def State.commitPages (s : State) (ctx : Nat) : List PageEntry :=
  s.pages.filterMap fun e =>
    if e.ctx = ctx then match e.st with
      | .reserved => some { e with st := .mapped }
      | .leaving => some { e with st := .invalid }
      | _ => none
    else none

/-- STEP_COMMIT commits. -/
def State.applyCommit (s : State) (ctx : Nat) : State :=
  if (s.ctx ctx).stepOpen then
    (s.movePages (s.commitPages ctx)).modCtx ctx fun c => { c with clen := c.rlen, stepOpen := false, shrunk := [] }
  else s

/-- The entries a STEP_ABORT changes. -/
def State.abortPages (s : State) (ctx : Nat) : List PageEntry :=
  s.pages.filterMap fun e =>
    if e.ctx = ctx then match e.st with
      | .reserved => some { e with st := .invalid }
      | .leaving => some { e with st := .mapped }
      | _ => none
    else none

/-- STEP_ABORT commits. -/
def State.applyAbort (s : State) (ctx : Nat) : State :=
  (s.movePages (s.abortPages ctx)).modCtx ctx fun c => { c with rlen := c.clen, stepOpen := false, shrunk := [] }

/-- R318: free, reserved and mapped frames make up the pool. -/
def State.conserved (s : State) (k : Nat) : Bool :=
  let x := s.stack k
  x.free + x.reserved + x.mapped == 1024 * x.frames

/-- The stacks whose sum fails. -/
def State.unconserved (s : State) : List Nat := (List.range 16).filter fun k => !s.conserved k

/-- R326: at TORN_DOWN the step is aborted and every page of the context is freed. -/
def State.cacheTeardown (s : State) (ctx : Nat) : State :=
  let s1 := s.applyAbort ctx
  let s2 := s1.movePages ((s1.pages.filter fun e => e.ctx == ctx).map fun e => { e with st := .invalid })
  s2.modCtx ctx fun c => { c with clen := [], rlen := [] }

/-- Contexts whose layout places pages in a stack (R308). -/
def State.layoutsIn (s : State) (k : Nat) : Nat :=
  s.ctxs.countP fun c => match c.2.layout with
    | some l => decide (0 < l.pairsIn k)
    | none => false

end Sys2Proof.Machine
end

