-- ==== Sys2Proof/Machine/Commit.lean ====
section
/-! DEFINITION. The commit of a command (R79, R83, R85, R90), its record (R78, R452, R453) and its interrupt (R454). -/

namespace Sys2Proof.Machine

/- ---- MSI-X (R454) ---- -/

/-- A request for a message on a vector of a function; one whose message is pending already adds none. -/
def State.msixRequest (s : State) (fn vector : Nat) : State :=
  let f := s.func fn
  if !f.msixOn || Assoc.get 0 s.vectors fn ≤ vector then
    s.modHport (fn / 64) fun p => { p with msixdrop := satAdd 0xFFFFFFFF p.msixdrop 1 }
  else if !f.unmasked.contains vector || f.pend.contains vector then s.modFunc fn fun x => { x with pend := insertNat x.pend vector }
  else s.emit (.msix (fn / 64) (fn % 64) vector)

/- ---- records (R78, R452) ---- -/

def queueKey (id : CmdId) : Nat := 16 * id.ctx + id.q

/-- The 32 bytes of a record. -/
def recordBytes (c : Cmd) (e : Ending) (size : Nat) : List Byte :=
  let phase := if (c.id.pos / size) % 2 = 0 then 1 else 0
  (c.raw.drop 4).take 4 ++ leBytes e.status.code 1 ++ leBytes (cls c.raw) 1 ++ leBytes (opc c.raw) 1 ++
  leBytes (128 * phase + 2 * b2n c.spreadIgnored + b2n c.rerun) 1 ++ leBytes (16 * c.id.ctx + c.id.q) 2 ++
  leBytes (c.id.pos % 65536) 2 ++ leBytes e.detail 4 ++ leBytes e.r0 4 ++ leBytes e.r1 4 ++ leBytes e.r2 4 ++ leBytes e.r3 4

/-- A record was written, or counts as written. -/
def State.recorded (s : State) (id : CmdId) : State :=
  let q := s.queue (queueKey id)
  s.modQueue (queueKey id) fun x => { x with written := x.written + 1, cqTail := (q.written + 1) % 2 ^ q.log2 }

/-- A record that could not be written is counted in LOSTREC and tears the context down (R453). -/
def State.lostRecord (s : State) (id : CmdId) : State :=
  ((s.recorded id).modHport (s.ctx id.ctx).port fun p => { p with lostrec := satAdd 0xFFFFFFFF p.lostrec 1 }).enterDraining
    id.ctx .queueAccess

/-- Where the record of a position goes. -/
def State.recordVa (s : State) (id : CmdId) : Nat :=
  let q := s.queue (queueKey id)
  q.cqBase + 32 * (id.pos % 2 ^ q.log2)

/-- Whether a record of a queue can be written now: Bus Master Enable for host memory (R453), no held write for device memory
(R520). -/
def State.recordReady (s : State) (id : CmdId) : Bool :=
  (s.ctx id.ctx).flr || (if (s.queue (queueKey id)).cqDev then
    (match (s.resolve id.ctx (s.recordVa id) true { bank := none, remote := false }).1 with
     | .ok pa => (s.heldAt (spread pa (List.replicate 32 0))).isNone
     | .error _ => true)
  else (s.func (s.ctx id.ctx).fn).busMaster)

/-- Write the record of a command and ask for its interrupt (R393, R452 to R454, R458). -/
def State.writeRecord (s : State) (c : Cmd) (e : Ending) : State :=
  let q := s.queue (queueKey c.id)
  let x := s.ctx c.id.ctx
  let bs := recordBytes c e (2 ^ q.log2)
  let va := s.recordVa c.id
  let ring (t : State) : State := if interrupts c.raw then t.msixRequest x.fn q.vector else t
  if x.flr then (s.recorded c.id).modHport x.port fun p => { p with flrrec := satAdd 0xFFFFFFFF p.flrrec 1 }
  else if q.cqDev then
    match s.resolve c.id.ctx va true { bank := none, remote := false } with
    | (.ok pa, s1) => ring ((s1.land none (spread pa bs)).recorded c.id)
    | (.error _, s1) => s1.lostRecord c.id
  else ring ((s.emit (.hostWrite x.fn va bs)).recorded c.id)

/- ---- effects (R85) ---- -/

/-- Judge a held copy again, from the first row of R343 on. -/
def State.judgeAgain (s : State) (slot owner : Nat) (f : Frame) : Option Bool × State :=
  if s.notHere f then (some false, s.answer (slot % 6) f 2 6 0) else s.giveVerdict (slot % 6) slot owner f

/-- Judge the held copies of a slot for a step that was just opened, in order of arrival (R344). -/
def State.judgeHeld (s : State) (slot owner : Nat) : List (Nat × Frame) → (Nat × Nat) × State
  | [] => ((0, 0), s)
  | h :: r =>
    let x := s.judgeAgain slot owner h.2
    let y := x.2.judgeHeld slot owner r
    (match x.1 with
      | some true => (y.1.1 + 1, y.1.2)
      | some false => (y.1.1, y.1.2 + 1)
      | none => y.1, y.2)

/-- Open a step on one slot (R346). -/
def State.openSlot (s : State) (ctx step cap brow slot : Nat) : (Nat × Nat) × State :=
  let mine := (s.courier (slot % 6)).held.filter fun h => h.1 == slot && h.2.step == step
  let s1 := s.modSlot slot fun x =>
    let y := { x with newest := some (step, cap, brow), isOpen := true }
    if (x.bin step).copies = [] then y.setBin step { used := true, step := step } else y
  let s2 := s1.modCourier (slot % 6) fun c => { c with held := c.held.filter fun h => !(h.1 == slot && h.2.step == step) }
  s2.judgeHeld slot ctx mine

/-- Add to the words of an ending. -/
def Ending.plus (e : Ending) (d a b : Nat) : Ending := { e with detail := sat32 (e.detail + d), r0 := sat32 (e.r0 + a), r1 := sat32 (e.r1 + b) }

/-- One effect of a commit; it may complete the record's counts. -/
def State.effect (s : State) (c : Cmd) (e : Ending) : Effect → Ending × State
  | .semSet n v => (e, (s.modSem n fun _ => v).refresh)
  | .allocSet i r => (e, s.modAlloc (1024 * c.id.ctx + i) fun _ => r)
  | .descSet i d => (e, s.modDesc (4096 * c.id.ctx + i) fun _ => d)
  | .discard ds lo hi => (e, ds.foldl (fun t d => t.discardLines d lo hi) s)
  | .openCache l => (e, s.modCtx c.id.ctx fun x => { x with layout := some l, stepOpen := false, clen := [], rlen := [], shrunk := [] })
  | .stepReserve => (e, match c.work with
      | .step p => s.applyReserve c.id.ctx p
      | _ => s)
  | .stepCommit => (e, s.applyCommit c.id.ctx)
  | .stepAbort => (e, s.applyAbort c.id.ctx)
  | .handleOut h => (e, s.modHandle (handleKey c.id.ctx h) fun x => { x with st := .out, dispatched := e.detail })
  | .handleFree h => (e, ((s.entriesOf c.id.ctx h).foldl (fun t k => t.freeEntry k) s).modHandle (handleKey c.id.ctx h) fun _ => {})
  | .openSlots step first count cap brow =>
    (List.range count).foldl (fun (a : Ending × State) i =>
      let x := a.2.openSlot c.id.ctx step cap brow (first + i)
      (a.1.plus 1 x.1.1 x.1.2, x.2)) (e, s)
  | .closeSlots first count =>
    (List.range count).foldl (fun (a : Ending × State) i =>
      let x := a.2.slot (first + i)
      let n := match x.newest with
        | some m => (x.binOf m.1).copies.length
        | none => 0
      if x.isOpen then (a.1.plus 1 n 0, a.2.modSlot (first + i) fun y => { y with isOpen := false }) else a) (e, s)
  | .gatherBins step first count =>
    (e, (List.range count).foldl (fun t i => t.modSlot (first + i) fun x =>
      let b := x.binOf step
      if b.copies = [] then x else x.setBin step { b with gathered := true }) s)
  | .emptyBins step first count => (e, (List.range count).foldl (fun t i => t.emptyBin (first + i) step) s)

def State.effects (s : State) (c : Cmd) (e : Ending) : List Effect → Ending × State
  | [] => (e, s)
  | f :: r =>
    let x := s.effect c e f
    x.2.effects c x.1 r

/-- SIGNAL_ADD at commit (R90). -/
def State.signal (s : State) (c : Cmd) : State :=
  let r := u16 c.raw 0x16
  if present r then (s.modSem (semNo r) fun v => v + BitVec.ofNat 32 (u16 c.raw 0x1C)).refresh else s

/-- The command is gone: its record is written. -/
def State.removeCmd (s : State) (id : CmdId) : State := { s with cmds := s.cmds.filter fun c => c.id != id }

/-- No write that waits was translated to a frame that a context is leaving (R316 step 2). -/
def State.leavingClear (s : State) (ctx : Nat) : Bool :=
  (s.pages.filter fun e => e.ctx == ctx && e.st == .leaving).all fun e =>
    let r := s.frameRange e.frameId
    s.cmds.all fun c => c.writes.all fun w => !(decide (r.1 ≤ w.1) && decide (w.1 < r.2))

/-- A finished command may commit or fail now: every earlier command of its queue is done (R83), its remote writes are
acknowledged and its local ones land (R383, R520), its record can be written; the bin sets of an EXPERT_OPEN are still empty, and
nothing will land in the frames that a STEP_COMMIT frees. -/
def State.mayCommit (s : State) (c : Cmd) : Bool :=
  c.stage == .finished && s.earlierDone c.id && s.recordReady c.id &&
  match c.ending with
  | some e => !e.good || (c.unacked == 0 && (s.heldAt c.writes).isNone &&
      (!(cls c.raw == 5 && opc c.raw == 3) || s.courierCond c) &&
      (!(cls c.raw == 4 && opc c.raw == 0x12) || s.leavingClear c.id.ctx))
  | none => false

/-- The commit proper (R79, R85): its writes stand, those held back land, then effects, signal, record. The mark of a failed conservation check (R318) is left in
`resetWanted`, and then the command does not commit. -/
def State.commitGood (s : State) (c : Cmd) (e : Ending) : State :=
  let s1 := { s with mem := s.mem.unveil c.stamp false }
  let s2 := s1.land c.writeDie c.writes.reverse
  let x := s2.effects c e c.effects
  let bad := if c.isStep then x.2.unconserved else []
  if bad ≠ [] then
    (bad.foldl (fun t k => t.modStack k fun y => { y with fatal := true }) s).wantReset 2 0 (sbDie (bad.headD 0))
  else ((x.2.signal c).writeRecord c x.1).removeCmd c.id

/-- A failing command writes only its record; its destination is undefined (R86). -/
def State.commitBad (s : State) (c : Cmd) (e : Ending) : State :=
  let s1 := { s with mem := s.mem.unveil c.stamp true }
  let s2 := if cls c.raw = 5 ∧ opc c.raw = 1 ∧ c.hasStarted then s1.orphanHandle c.id.ctx (u8 c.raw 0x20) else s1
  (s2.writeRecord c e).removeCmd c.id

/-- The ending of a command one of whose writes merged with an uncorrectable granule (R491, R273). -/
def State.poisonEnding (s : State) (c : Cmd) (g : Nat) : Ending :=
  let e := (Fail.ecc (s.reportAddr (g * 32))).ending
  if cls c.raw = 4 then (partsEnding c.engines.length [(s.stackAt (g * 32), e)]).getD e else e

/-- Commit or fail one finished command; a write that was held back may yet meet an uncorrectable granule. -/
def State.commitCmd (s : State) (c : Cmd) : State :=
  match c.ending with
  | none => s
  | some e =>
    if e.good then match s.poisonHit c.writes with
      | some g => (s.land c.writeDie c.writes.reverse c.seer).commitBad c (s.poisonEnding c g)
      | none => s.commitGood c e
    else s.commitBad c e

/-- Commit a command if it may commit now. -/
def State.tryCommit (s : State) (id : CmdId) : State :=
  match s.cmd id with
  | some c => if s.mayCommit c then s.commitCmd c else s
  | none => s

/-- A control or registrar command's own row (R91, R206, R316): its work is done with these effects, and it commits at once when
its turn has come. -/
def State.finishNow (s : State) (id : CmdId) (e : Ending) (fx : List Effect) : State :=
  (((s.modCmd id fun c => { c with effects := fx }).finish id e).tryCommit id).refresh

end Sys2Proof.Machine
end

