-- ==== Sys2Proof/Machine/Image.lean ====
section
/-! DEFINITION. The flash (spec 17): slots and their checks (R463 to R468), the base configuration and the overlays (R473 to
R475), and the persistent area (R479, R480, R499, R536). -/

namespace Sys2Proof.Machine

/- ---- bytes of the flash ---- -/

def erased : Byte := 0xFF
def State.flashAt (s : State) (a : Nat) : Byte := Assoc.get erased s.flash a
def State.flashRun (s : State) (a n : Nat) : List Byte := (List.range n).map fun i => s.flashAt (a + i)
/-- Erase [lo, hi). -/
def State.flashErase (s : State) (lo hi : Nat) : State :=
  { s with flash := s.flash.filter fun c => decide (c.1 < lo) || decide (hi ≤ c.1) }
/-- Write bytes from an address on. -/
def State.flashWrite (s : State) (a : Nat) (bs : List Byte) : State :=
  { s with flash := (spread a bs).foldl (fun l c => Assoc.set erased l c.1 c.2) s.flash }

def slotBase (slot : Nat) : Nat := slot * 0x01800000
def markerOff : Nat := 0x017FF000
def copyBase (c : Nat) : Nat := 0x03000000 + c * 0x00100000

/-- A field of a slot, lowest byte first. -/
def State.slotField (s : State) (slot off n : Nat) : Nat := ofLe (s.flashRun (slotBase slot + off) n)
def State.slotZero (s : State) (slot lo hi : Nat) : Bool := (s.flashRun (slotBase slot + lo) (hi - lo)).all (· == 0)

/- ---- markers (R468) ---- -/

def State.markerOk (s : State) (slot : Nat) : Bool :=
  s.slotField slot markerOff 4 == 0x4B52414D && s.slotZero slot (markerOff + 8) (markerOff + 12) &&
  s.slotField slot (markerOff + 12) 4 == crc32 (s.flashRun (slotBase slot + markerOff) 12)

def State.markerGen (s : State) (slot : Nat) : Nat := s.slotField slot (markerOff + 4) 4

/-- The 16 bytes of a marker. -/
def markerBytes (gen : Nat) : List Byte :=
  let b := leBytes 0x4B52414D 4 ++ leBytes gen 4 ++ leBytes 0 4
  b ++ leBytes (crc32 b) 4

/- ---- sections (R465) ---- -/

structure Section_ where
  type : Nat
  off  : Nat
  len  : Nat
deriving DecidableEq, Repr

/-- The used section entries, with whether their reserved bytes are zero. -/
def State.sections (s : State) (slot : Nat) : List (Section_ × Bool) :=
  (List.range 16).filterMap fun i =>
    let b := s.flashRun (slotBase slot + 0x1000 + 16 * i) 16
    if b.all (· == 0) then none
    else some (⟨u8 b 0, u32 b 4, u32 b 8⟩, zeros b 1 4 && zeros b 12 16)

def sectionKnown (t : Nat) : Bool := [1, 2, 3, 4, 5, 6, 0x10].contains t || (decide (0x20 ≤ t) && decide (t ≤ 0x27))

def sectionsApart : List Section_ → Bool
  | [] => true
  | a :: r => r.all (fun b => a.type != b.type && (decide (a.off + a.len ≤ b.off) || decide (b.off + b.len ≤ a.off))) && sectionsApart r

/-- Check 0x7. -/
def State.sectionsOk (s : State) (slot imageLen : Nat) : Bool :=
  let ss := s.sections slot
  ss.all (fun x => x.2 && sectionKnown x.1.type && x.1.off % 4096 == 0 && decide (0x2000 ≤ x.1.off) && decide (1 ≤ x.1.len) &&
    decide (x.1.off + x.1.len ≤ imageLen) && (x.1.type != 0x10 || x.1.len == 1024) && (x.1.type < 0x20 || x.1.len == 24576)) &&
  sectionsApart (ss.map (·.1)) &&
  [1, 2, 3, 4, 5, 6, 0x10].all (fun t => ss.any fun x => x.1.type == t) && ss.any fun x => decide (0x20 ≤ x.1.type)

def State.sectionAt (s : State) (slot t : Nat) : Option Section_ := ((s.sections slot).find? fun x => x.1.type == t).map (·.1)

/- ---- overlays (R474, R475) ---- -/

/-- The bytes of an overlay section of a slot. -/
def State.overlayBytes (s : State) (slot i : Nat) : Option (List Byte) :=
  (s.sectionAt slot (0x20 + i)).map fun x => s.flashRun (slotBase slot + x.off) 24576

/-- Nonzero entries of a table of numbers, by index. -/
def tableOf (n : Nat) (f : Nat → Nat) : List (Nat × Nat) :=
  (List.range n).filterMap fun i => if f i = 0 then none else some (i, f i)

def overlayOf (b : List Byte) : Overlay :=
  { namesPlan := bit (u8 b 0) 0, plan := bits (u8 b 1) 1 0, split := bits (u8 b 2) 2 1, stripeAll := bit (u8 b 2) 0,
    sidemax := bits (u32 b 4) 28 27, base := bits (u32 b 4) 26 16, frames := bits (u32 b 4) 12 0,
    resMib := u16 b 10, binMib := u16 b 8, totalVf0 := u16 b 12, totalVf1 := u16 b 14, tblUnits := u16 b 16,
    vectors := tableOf 128 fun i => u16 b (0x40 + 2 * i),
    ctx := (List.range 256).filterMap fun c =>
      let o := 0x1000 + 16 * c
      let e := (u16 b o, u16 b (o + 2), u32 b (o + 4), u32 b (o + 8))
      if e = (0, 0, 0, 0) then none else some (c, e.1, e.2.1, e.2.2.1, e.2.2.2),
    expert := tableOf 4096 fun i => u32 b (0x2000 + 4 * i) }

/-- Reserved bits of an overlay are zero. -/
def overlayReserved (b : List Byte) : Bool :=
  bits (u8 b 0) 7 1 == 0 && bits (u8 b 1) 7 2 == 0 && bits (u8 b 2) 7 3 == 0 && u8 b 3 == 0 &&
  bits (u32 b 4) 31 29 == 0 && bits (u32 b 4) 15 13 == 0 && u16 b 18 == 0 && zeros b 0x14 0x40 && zeros b 0x140 0x1000 &&
  (List.range 256).all (fun c =>
    let o := 0x1000 + 16 * c
    !bit (u16 b o) 15 && decide (u16 b (o + 2) ≤ 4096) && bits (u32 b (o + 4)) 31 24 == 0 && bits (u32 b (o + 8)) 31 17 == 0 &&
    bits (u32 b (o + 8)) 9 6 == 0 && u32 b (o + 12) == 0) &&
  (List.range 4096).all fun i => let e := u32 b (0x2000 + 4 * i); !bit e 30 && bits e 7 0 == 0

def pairsAll {α : Type} (f : α → α → Bool) : List α → Bool
  | [] => true
  | a :: r => r.all (f a) && pairsAll f r

/-- R475. -/
def overlayValid (b : List Byte) : Bool :=
  let o := overlayOf b
  let port (e : Nat) : Nat := bits e 16 16
  let func (e : Nat) : Nat := bits e 15 10
  let total (p : Nat) : Nat := if p = 0 then o.totalVf0 else o.totalVf1
  let ctxOf (c : Nat) : Nat × Nat × Nat × Nat := Assoc.get (0, 0, 0, 0) o.ctx c
  let vec (i : Nat) : Nat := Assoc.get 0 o.vectors i
  overlayReserved b && o.split != 3 && decide (o.totalVf0 ≤ 63) && decide (o.totalVf1 ≤ 63) &&
  o.ctx.all (fun c => decide (func c.2.2.2.2 ≤ total (port c.2.2.2.2)) && decide (c.2.1 + c.2.2.1 ≤ 32768)) &&
  (List.range 2).all (fun p => (List.range 64).all fun f => f == 0 ||
    decide (((List.range 256).countP fun c => let e := (ctxOf c).2.2.2; port e == p && func e == f) ≤ 16)) &&
  decide ((o.ctx.map fun c => bits c.2.2.2.2 5 2).foldl (· + ·) 0 ≤ 16) &&
  pairsAll (fun (x y : Nat × Nat × Nat × Nat × Nat) => x.2.2.1 == 0 || y.2.2.1 == 0 ||
    decide (x.2.1 + x.2.2.1 ≤ y.2.1) || decide (y.2.1 + y.2.2.1 ≤ x.2.1)) o.ctx &&
  (List.range 2).all (fun p => decide (((List.range 64).map fun f => vec (64 * p + f)).foldl (· + ·) 0 ≤ 2048) &&
    (List.range 64).all fun f => decide (f ≤ total p) || vec (64 * p + f) == 0) &&
  pairsAll (fun (x y : Nat × Nat) => bits x.2 29 16 != bits y.2 29 16) (o.expert.filter fun e => bit e.2 31)

/-- The valid overlays of a slot. -/
def State.readOverlays (s : State) (slot : Nat) : List (Nat × Option Overlay) :=
  (List.range 8).filterMap fun i => match s.overlayBytes slot i with
    | some b => if overlayValid b then some (i, some (overlayOf b)) else none
    | none => none

/- ---- the slot checks (R466) ---- -/

/-- GL_IDENT (R27). -/
def State.ident (s : State) : Nat :=
  0x3A1 * 2 ^ 20 + 0xC90 * 2 ^ 8 + bits s.grade 1 0 * 64 + b2n s.longLife * 32 + bits s.stepping 4 0

/-- Whether the device reads the header of a slot without an uncorrectable error. -/
def State.headerReadable (s : State) (slot : Nat) : Bool :=
  match s.board with
  | some b => !b.flashErr.contains slot
  | none => true

/-- Check 0x2. -/
def State.headerFieldsOk (s : State) (slot : Nat) : Bool :=
  let f := s.slotField slot
  f 0 4 == 0x4B564E47 && f 4 2 == 1 && bits (f 6 2) 15 4 == 0 && f 8 4 % 4096 == 0 && decide (0x2000 ≤ f 8 4) &&
  decide (f 8 4 ≤ 0x017FF000) && decide (f 12 2 ≤ 127) && decide (f 14 2 ≤ f 12 2) && f 0x10 4 == s.ident / 256 * 256 &&
  decide (f 0x18 1 ≤ 3) && f 0x19 1 == 0 && decide (1 ≤ f 0x1A 2) && decide (f 0x1A 2 ≤ 1536) && s.slotZero slot 0x1C 0x40 &&
  s.slotZero slot (0x80 + 1793) 0x880 && s.slotZero slot (0x880 + f 0x1A 2) 0xE80 && s.slotZero slot 0xE80 0x1000 &&
  s.slotZero slot 0x1100 0x2000

/-- R473: reserved bytes of the base configuration are zero. -/
def State.baseOk (s : State) (slot : Nat) : Bool :=
  match s.sectionAt slot 0x10 with
  | some x => s.slotZero slot (x.off + 0x300) (x.off + 0x400)
  | none => false

/-- The checks of R466 from 0x2 on: none when all pass, else the code of the first that fails. -/
def State.bodyFail (s : State) (slot : Nat) : Option Nat :=
  let f := s.slotField slot
  let base := slotBase slot
  let key := s.flashRun (base + 0x80) 1793
  let digest := s.flashRun (base + 0x40) 64
  if !s.headerFieldsOk slot then some 2
  else if bit s.boot.revoked (f 0x18 1) || Config.shake256 key != Config.keyHash (f 0x18 1) then some 3
  else if Config.shake256 (s.flashRun base 0x40 ++ s.flashRun (base + 0x1000) (f 8 4 - 0x1000)) != digest then some 4
  else if !Config.falconVerify key digest (s.flashRun (base + 0x880) (f 0x1A 2)) then some 5
  else if f 12 2 < s.boot.counter then some 6
  else if !s.sectionsOk slot (f 8 4) then some 7
  else if !s.baseOk slot || (s.readOverlays slot).isEmpty then some 8
  else none

/-- All checks of R466. -/
def State.slotFail (s : State) (slot : Nat) : Option Nat :=
  if !s.markerOk slot || !s.headerReadable slot then some 1 else s.bodyFail slot

/-- The slot that R468 checks first. -/
def State.firstSlot (s : State) : Nat :=
  if s.markerOk 1 && (!s.markerOk 0 || decide (s.markerGen 0 < s.markerGen 1)) then 1 else 0

/- ---- the persistent area (R479, R480) ---- -/

def Remap.word (r : Remap) : Nat := 2 ^ 63 + r.spare * 2 ^ 58 + r.bank * 2 ^ 48 + r.row * 2 ^ 32 + r.cause * 2 ^ 24

def remapOf (w : Nat) : Option Remap :=
  if bit w 63 then some ⟨bits w 59 58, bits w 57 48, bits w 47 32, bits w 31 24⟩ else none

def Stack.remap (k : Stack) (i : Nat) : Option Remap := Assoc.get none k.remaps i

/-- The word of a remap table entry. -/
def State.remapWord (s : State) (k i : Nat) : Nat :=
  match (s.stack k).remap i with
  | some r => r.word
  | none => 0

def patinaRecBytes (r : PatinaRec) : List Byte :=
  leBytes r.hours 4 ++ leBytes r.kind 1 ++ leBytes r.g 1 ++ leBytes r.k 1 ++ leBytes 0 1 ++ leBytes (ofSigned 16 r.margin) 2 ++
  leBytes (256 * r.die + r.monitor) 2 ++ leBytes (ofSigned 16 r.temp) 2 ++ leBytes r.vset 2 ++ leBytes 0 16

def patinaRecOf (b : List Byte) : PatinaRec :=
  { hours := u32 b 0, kind := u8 b 4, g := u8 b 5, k := u8 b 6, margin := toSigned 16 (u16 b 8), die := u8 b 11, monitor := u8 b 10,
    temp := toSigned 16 (u16 b 12), vset := u16 b 14 }

def patinaSlots : Nat := 32000

/-- The patina history as bytes (R536), from copy offset 0x1040 on. -/
def Patina.bytes (p : Patina) : List Byte :=
  leBytes 0x41544150 4 ++ leBytes p.count 4 ++ leBytes p.nextSlot 4 ++ leBytes p.hours 4 ++ leBytes p.g 1 ++ leBytes p.k 1 ++
  leBytes (b2n p.exhausted) 1 ++ leBytes 0 45 ++
  (List.range (min p.count patinaSlots)).flatMap fun i =>
    patinaRecBytes (Assoc.get ⟨0, 0, 0, 0, 0, 0, 0, 0, 0⟩ p.ring i)

/-- A copy but for its CRC, which a running save writes last. -/
def State.copyBytes (s : State) : List Byte × List Byte :=
  let hist := s.patina.bytes
  let len := 0x1040 + hist.length
  (leBytes 0x54535250 4 ++ leBytes 1 2 ++ leBytes 0 2 ++ leBytes (s.persistSeq + 1) 4 ++ leBytes len 4 ++
     leBytes Config.deviceId.toNat 16 ++ leBytes 0 28,
   ((List.range 16).flatMap fun k => (List.range 32).flatMap fun i => leBytes (s.remapWord k i) 8) ++ hist)

/-- A field of a copy. -/
def State.copyField (s : State) (c off n : Nat) : Nat := ofLe (s.flashRun (copyBase c + off) n)

/-- The CRC that a copy's bytes call for. -/
def State.copyCrc (s : State) (c : Nat) : Nat :=
  crc32 (s.flashRun (copyBase c) 0x3C ++ s.flashRun (copyBase c + 0x40) (s.copyField c 12 4 - 0x40))

/-- R480: a copy is valid. -/
def State.copyOk (s : State) (c : Nat) : Bool :=
  s.copyField c 0 4 == 0x54535250 && s.copyField c 4 2 == 1 && decide (0x1040 ≤ s.copyField c 12 4) &&
  decide (s.copyField c 12 4 ≤ 0x00100000) && s.copyField c 0x3C 4 == s.copyCrc c

/-- The copy to use, if one is valid. -/
def State.copyUsed (s : State) : Option Nat :=
  match s.copyOk 0, s.copyOk 1 with
  | true, true => some (if s.copyField 0 8 4 < s.copyField 1 8 4 then 1 else 0)
  | true, false => some 0
  | false, true => some 1
  | false, false => none

/-- The patina history of a copy; one without its MAGIC is empty. -/
def State.patinaFrom (s : State) (c : Nat) (p : Patina) : Patina :=
  let f (o n : Nat) : Nat := s.copyField c (0x1040 + o) n
  if f 0 4 = 0x41544150 then
    { p with
      count := f 4 4, nextSlot := f 8 4, hours := f 12 4, g := f 16 1, k := f 17 1, exhausted := bit (f 18 1) 0,
      ring := (List.range (min (f 4 4) patinaSlots)).map fun i => (i, patinaRecOf (s.flashRun (copyBase c + 0x1080 + 32 * i) 32)) }
  else { p with count := 0, nextSlot := 0, hours := 0, g := 0, k := 0, exhausted := false, ring := [] }

/-- The remap table of a stack in a copy. -/
def State.remapsFrom (s : State) (c k : Nat) : List (Nat × Option Remap) :=
  (List.range 32).filterMap fun i => (remapOf (s.copyField c (0x40 + 0x100 * k + 8 * i) 8)).map fun r => (i, some r)

/- ---- saves (R480, R502) ---- -/

/-- A save begins: the copy not in use is erased and written but for its CRC. -/
def State.startSave (s : State) : State :=
  if s.persistBusy then { s with persistAgain := true }
  else
    let c := 1 - s.persistUse
    let x := s.copyBytes
    let s1 := ((s.flashErase (copyBase c) (copyBase c + 0x00100000)).flashWrite (copyBase c) x.1).flashWrite (copyBase c + 0x40) x.2
    (List.range 16).foldl (fun t k => t.modStack k fun y => { y with saving := y.unsaved, dirty := false })
      { s1 with persistBusy := true, persistAgain := false }

/-- A save ends: the copy becomes the one in use, and applied remaps count as saved (event 0x0106). -/
def State.endSave (s : State) : State :=
  if s.persistBusy then
    let c := 1 - s.persistUse
    let saved := (List.range 16).filter fun k => (s.stack k).saving
    let s1 := s.flashWrite (copyBase c + 0x3C) (leBytes (s.copyCrc c) 4)
    let s2 := saved.foldl (fun t k => t.modStack k fun x => { x with saving := false, unsaved := x.dirty, dirty := false }) s1
    let s3 := { s2 with persistBusy := false, persistUse := c, persistSeq := s.persistSeq + 1 }.emit (.persistWrite c (s.persistSeq + 1))
    let s4 := if saved = [] then s3 else s3.event hd0Die 0x0106 ((saved.map (2 ^ ·)).foldl (· + ·) 0) (s.persistSeq + 1)
    if s.persistAgain then s4.startSave else s4
  else s

end Sys2Proof.Machine
end

