-- ==== Sys2Proof/Machine/Posted.lean ====
section
/-! DEFINITION. Requests of the host that may have to wait for its earlier posted writes (spec 16, R392): doorbells (R440, R450) and
BAR4 reads (R443, R457), with those that wait. -/

namespace Sys2Proof.Machine

/-- The contexts of a function, in increasing number. -/
def State.ctxsOf (s : State) (fn : Nat) : List Nat := (List.range 256).filter fun c => (s.ctx c).fn == fn

/- ---- doorbells (R440, R450) ---- -/

/-- The context of a doorbell slot. -/
def State.slotCtx (s : State) (fn slot : Nat) : Option Nat :=
  if fn % 64 = 0 then (if slot < 256 then some slot else none)
  else if slot < 16 then (s.ctxsOf fn)[slot]? else none

/-- A doorbell with an index meets none of R450's cases. R70 says that TORN_DOWN ignores doorbells; R450 discards only tail doorbells
there. DESIGN CHOICE (log entry 82): R450's list decides, and a head doorbell moves HEAD in TORN_DOWN and CLOSED too. -/
def State.bellOk (s : State) (ctx q i : Nat) (head : Bool) : Bool :=
  let x := s.queue (16 * ctx + q)
  let size := 2 ^ x.log2
  let dist (a b : Nat) : Nat := (a + size - b % size) % size
  let st := (s.ctx ctx).st
  decide (i < size) && x.enable && !x.disabling &&
  (if head then decide (dist i x.cqHead ≤ dist x.cqTail x.cqHead)
   else (st == .opened || st == .draining) && decide (dist x.sqTail x.sqHead ≤ dist i x.sqHead))

def State.dropBell (s : State) (port : Nat) : State := s.modHport port fun p => { p with dbdrop := satAdd 0xFFFFFFFF p.dbdrop 1 }

/-- One aligned 32-bit doorbell word at a BAR2 offset: R450's cases discard and count it; one of a function that is not enabled is
discarded (R439). -/
def State.bellWord (s : State) (fn off v : Nat) : State :=
  let port := fn / 64
  let o := off % 0x10000
  match s.slotCtx fn (off / 0x10000) with
  | none => s.dropBell port
  | some c =>
    let q := o / 8
    let head := o % 8 == 4
    if (s.ctx c).port ≠ port ∨ 0x80 ≤ o ∨ 0x10000 ≤ v ∨ s.bellOk c q v head = false then s.dropBell port
    else if !s.fnEnabled (s.ctx c).fn then s
    else s.modQueue (16 * c + q) fun x => if head then { x with cqHead := v } else { x with sqTail := v }

/-- The doorbells of a write, in increasing address order; a narrow or misaligned write is one discarded doorbell. -/
def State.bellWrite (s : State) (fn off size value : Nat) : State :=
  if size < 4 ∨ off % 4 ≠ 0 ∨ size % 4 ≠ 0 then s.dropBell (fn / 64)
  else (List.range (size / 4)).foldl (fun t i => t.bellWord fn (off + 4 * i) (value / 2 ^ (32 * i) % 2 ^ 32)) s

/-- A port's earlier posted writes have landed, so that its doorbells are processed (R392, R520). -/
def State.postedLanded (s : State) (port : Nat) : Bool := s.held.all fun w => w.who != .host port

/-- A doorbell write arrives: it is processed, or waits for the port's held writes (R392). -/
def State.ring (s : State) (fn off size value : Nat) : State :=
  if s.postedLanded (fn / 64) then s.bellWrite fn off size value else { s with bells := s.bells ++ [(fn, off, size, value)] }

/-- Doorbells that waited are processed, in order of arrival. -/
def State.ringWaiting (s : State) : State :=
  let now := s.bells.filter fun b => s.postedLanded (b.1 / 64)
  now.foldl (fun t b => t.bellWrite b.1 b.2.1 b.2.2.1 b.2.2.2) { s with bells := s.bells.filter fun b => !s.postedLanded (b.1 / 64) }

/- ---- BAR4 reads (R443, R457, R520) ---- -/

/-- log2 of the size of a port's BAR4 (R440): 1 GiB to 2 TiB as the host set it. -/
def State.bar4Log (s : State) (port : Nat) : Nat := (s.func (64 * port)).cfg.bar4

/-- The device address of a BAR4 offset. -/
def State.bar4Addr (s : State) (port off : Nat) : Nat := (s.hport port).bar4 / 2 ^ s.bar4Log port * 2 ^ s.bar4Log port + off

/-- Every byte of a range is populated memory of regions 0b00 or 0b01. -/
def State.allPopulated (s : State) (pa n : Nat) : Bool := (List.range n).all fun i => s.populated (pa + i)

def State.unpop (s : State) (port : Nat) : State := s.modHport port fun p => { p with unpop := satAdd 0xFFFFFFFF p.unpop 1 }

/-- Count the granules of a read that goes to memory for the host or a peer; true when one is uncorrectable. -/
def State.scanGranules (s : State) : List Nat → Bool × State
  | [] => (false, s)
  | g :: r =>
    if s.mem.bad.contains g then let x := (s.countUncorr (g * 32) (some 0)).scanGranules r; (true, x.2)
    else if s.mem.weak.contains g then (s.countCorr (g * 32)).scanGranules r
    else s.scanGranules r

/-- The bytes of a read; those of a bad granule are free values. -/
def State.rawBytes (s : State) (pa n : Nat) : List Byte :=
  (List.range n).map fun i => if s.mem.bad.contains ((pa + i) / 32) then Config.freeByte s.fresh (pa + i) else s.mem.read (pa + i)

/-- A host read through BAR4. -/
def State.bar4Read (s : State) (port off len : Nat) : State :=
  let pa := s.bar4Addr port off
  if !s.allPopulated pa len then (s.unpop port).emit (.bar4Ur port off)
  else
    let x := (s.share (granulesOf pa len)).scanGranules (granulesOf pa len)
    let s1 := if x.1 then x.2.bump.modHport port fun p => { p with poisoned := satAdd 0xFFFFFFFF p.poisoned 1 } else x.2
    s1.emit (.bar4Data port off (s.rawBytes pa len) x.1)

/-- A read overlaps a held write (R520). -/
def State.readWaits (s : State) (pa n : Nat) : Bool := (granulesOf pa n).any s.heldGranule

/-- A host read arrives: it is answered, or waits while it overlaps a held write. -/
def State.readBar4 (s : State) (port off len : Nat) : State :=
  if s.readWaits (s.bar4Addr port off) len then { s with reads4 := s.reads4 ++ [(port, off, len)] } else s.bar4Read port off len

/-- Reads that waited are answered, in order of arrival. -/
def State.answerReads (s : State) : State :=
  let waits (r : Nat × Nat × Nat) : Bool := s.readWaits (s.bar4Addr r.1 r.2.1) r.2.2
  (s.reads4.filter fun r => !waits r).foldl (fun t r => t.bar4Read r.1 r.2.1 r.2.2) { s with reads4 := s.reads4.filter waits }

/-- What waited for held writes goes on as far as it can. -/
def State.flushPosted (s : State) : State := if s.bells = [] ∧ s.reads4 = [] then s else s.ringWaiting.answerReads

end Sys2Proof.Machine
end

