-- ==== Sys2Proof/Machine/Heat.lean ====
section
/-! DEFINITION. Temperature, power and supply (spec 19): sensors and die states (R512 to R516), write windows and held writes
(R520, R521), allowances (R525, R526, R529), rails (R528), and the patina planner (R532 to R536). -/

namespace Sys2Proof.Machine

/- ---- sensors (R512, R513) ---- -/

/-- Sensors of a logic die. -/
def logicSensors (d : Nat) : Nat := if d < 8 then 24 else if d < 24 then 8 else if d < 30 then 6 else 4

/-- Healthy sensors with their readings. -/
def Therm.healthy (t : Therm) : List (Nat × Int) :=
  (t.readings.zipIdx.filter fun x => !t.failed.contains x.2).map fun x => (x.2, x.1)

/-- Healthy sensors of a die with n. -/
def Therm.healthyCount (n : Nat) (t : Therm) : Nat := n - t.failed.length

/-- The die temperature: the largest healthy reading, 100 °C for a degraded die; the last one stays when nothing was read. -/
def Therm.measure (t : Therm) : Therm :=
  if t.degraded then { t with temp := 800 }
  else match t.healthy.map (·.2) with
    | [] => t
    | x :: r => { t with temp := r.foldl max x }

/-- Insert in rising order. -/
def insertInt (x : Int) : List Int → List Int
  | [] => [x]
  | y :: r => if x ≤ y then x :: y :: r else y :: insertInt x r

/-- Twice the median of a list. -/
def median2 (l : List Int) : Int :=
  let s := l.foldr insertInt []
  s.getD ((s.length - 1) / 2) 0 + s.getD (s.length / 2) 0

/-- A sensor reads more than 8 °C off the median of its healthy neighbours. -/
def Therm.off (t : Therm) (sensor : Nat) : Bool :=
  let ns := (t.healthy.filter fun x => x.1 != sensor).map (·.2)
  match t.healthy.find? fun x => x.1 == sensor with
  | some x => decide (ns ≠ []) && decide (128 < (2 * x.2 - median2 ns).natAbs)
  | none => false

/-- A sensor is excluded; fewer than two healthy ones degrade the die. -/
def Therm.exclude (t : Therm) (n sensor : Nat) : Therm :=
  let f := insertNat t.failed sensor
  ({ t with failed := f, degraded := t.degraded || decide (n - f.length < 2) }).measure

/- ---- logic dies (R515, R516) ---- -/

/-- Thresholds in 1/8 °C of WARNING, THROTTLE, HARDLIMIT, SHUTDOWN. -/
def logicThreshold : Nat → Int
  | 1 => 760
  | 2 => 800
  | 3 => 840
  | _ => 920

/-- The highest state a temperature enters, and the lowest it lets a die fall to. -/
def logicUp (t : Int) : Nat := if 920 ≤ t then 4 else if 840 ≤ t then 3 else if 800 ≤ t then 2 else if 760 ≤ t then 1 else 0
def logicNext (st : Nat) (t : Int) : Nat :=
  if st = 4 then 4 else max (logicUp t) (min st (logicUp (t + 15)))

/-- The controlling temperature of a compute die (R516). -/
def State.controlling (s : State) (d : Nat) : Int :=
  ([d, sbDie (2 * d), sbDie (2 * d + 1)] ++ (List.range 6).map ldDie ++ [hd0Die, hd1Die]).foldl
    (fun a k => max a (s.logicTherm k).temp) (s.logicTherm d).temp

/-- A_t at once at 105 °C. -/
def State.hardLimits (s : State) : State :=
  (List.range 8).foldl (fun t d => if 840 ≤ t.controlling d then t.modDie d fun x => { x with atherm := 4 } else t) s

/-- THERM_ALERT# (R519). -/
def State.alerting (s : State) : Bool :=
  s.therm.any (fun x => x.2.st != 0) || s.atherm.any (fun x => s.docentsStopped (x.1 / 16) (x.1 % 16)) || (s.rail 2).warn ||
  s.boot.wait == .coolDown

def State.updateAlert (s : State) : State := { s with thermAlert := s.alerting }

/- ---- held writes (R520, R521) ---- -/

/-- Answer a remote write that was held: WRITE_ACK with a status (R422). -/
def State.ackRemote (s : State) (w : HeldWrite) (status : Nat) : State :=
  match w.who with
  | .remote _ m tag _ => s.originate m 0x12 tag 0 status 0 []
  | .host _ => s

/-- A write of a command that was held met an uncorrectable granule (R491): the command fails. -/
def State.failHeld (s : State) (c : Cmd) (e : Ending) : State :=
  match c.stage with
  | .running => (s.stopWork c.id).finish c.id e
  | .finished => s.modCmd c.id fun x => { x with ending := some e, writes := [] }
  | _ => s

/-- The held writes of a command to array dies that take writes again land, of the addresses that `at_` names. -/
def State.performCmd (at_ : Nat → Bool) (s : State) (c : Cmd) : State :=
  let now := c.writes.filter fun w => at_ w.1 && !s.holdsAt w.1
  if now = [] then s
  else
    let s1 := (s.modCmd c.id fun x => { x with writes := x.writes.filter fun w => !at_ w.1 || s.holdsAt w.1 }).land c.writeDie now.reverse c.seer
    match s.poisonHit now with
    | none => s1
    | some g => s1.failHeld c (s.poisonEnding c g)

/-- A held write of the host or of another module is performed, after what commands had held before it on that array die. -/
def State.performOne (s : State) (w : HeldWrite) : State :=
  let s1 := (s.cmds.filter fun c => w.behind.contains c.id).foldl (State.performCmd fun a => s.arrayDieOf a == some (w.stack, w.adie)) s
  ((s1.poisonEvents (spread w.pa w.bytes)).land none (spread w.pa w.bytes)).ackRemote w 0

/-- Perform the held writes whose array die takes writes again, in order of arrival (R521; those of commands: log entry 80). -/
def State.performHeld (s : State) : State :=
  let now := s.held.filter fun w => !s.holdsWrites w.stack w.adie
  let s1 := { s with held := s.held.filter fun w => s.holdsWrites w.stack w.adie }
  let s2 := now.foldl State.performOne s1
  (s2.cmds.filter fun c => c.writes != []).foldl (State.performCmd fun _ => true) s2

/-- Some byte of writes lies on an array die that holds writes. -/
def State.touchesHeld (s : State) (k a : Nat) (ws : List (Nat × Byte)) : Bool :=
  s.holdsWrites k a && ws.any fun w => s.arrayDieOf w.1 == some (k, a)

/-- Commands with writes held for an array die. -/
def State.heldBy (s : State) (k a : Nat) : List CmdId := (s.cmds.filter fun c => s.touchesHeld k a c.writes).map (·.id)

/-- A host or remote write arrives at memory: it lands, or array die by array die it is held. Answers whether it was held. -/
def State.arrive (s : State) (pa : Nat) (bs : List Byte) (who : Holder) : Bool × State :=
  match s.arrayDieOf pa with
  | some (k, a) =>
    if s.holdsWrites k a then (true, { s with held := s.held ++ [⟨k, a, pa, bs, who, s.heldBy k a⟩] })
    else (false, (s.poisonEvents (spread pa bs)).land none (spread pa bs))
  | none => (false, s)

/- ---- array dies (R522) ---- -/

/-- The band of a temperature, entered from below. -/
def bandUp (t : Int) : Nat := if t < 0 then 0 else if t < 360 then 1 else if t < 680 then 2 else if t ≤ 800 then 3 else 4
def bandNext (b : Nat) (t : Int) : Nat := max (bandUp t) (min b (if 784 < t then 4 else bandUp (t + 15)))

/-- Set an array die's band. -/
def Therm.withBand (t : Therm) (b : Nat) : Therm := { t with st := (b + 4) % 5 }

/-- Bits of SB_ARRAY_TEMP that event 0x0204 also carries. -/
def State.bandWord (s : State) (k a : Nat) : Nat :=
  bandOf (s.arrayTherm (16 * k + a)) + 8 * b2n (s.holdsWrites k a) + 16 * b2n (s.docentsStopped k a)

/-- Docent tasks pause and resume with their array die (R520). -/
def State.pauseDocents (s : State) : State :=
  { s with cmds := s.cmds.map fun c => match c.work with
      | .doc d => { c with work := .doc { d with tasks := d.tasks.map fun t =>
          { t with paused := t.st == .active && s.docentsStopped t.stack (t.bank / 64) } } }
      | _ => c }

/-- After any change of temperature or rails: writes that may land do, docents pause or go on, the alert follows. -/
def State.settleHeat (s : State) : State := (s.performHeld.pauseDocents).updateAlert

/-- A temperature as an event argument. -/
def tempArg (t : Int) : Nat := ofSigned 16 t

/-- A die's code in R493's DIE field. -/
def dieCode (d : Nat) : Nat := if d < 8 then d else if d < 24 then d - 8 else if d < 30 then d - 24 else if d = 30 then 0xE else 0xF

/-- Thermal shutdown is requested (R517). During a reset that already runs, that reset keeps its cause and the cool-down hold
applies (R538). -/
def State.shutdown (s : State) (die code : Nat) (t : Int) : State :=
  let s1 := s.event hd1Die 0x0205 die (tempArg t)
  if s.boot.st = .ready ∨ s.boot.st = .recovery then s1.wantReset 6 code hd1Die
  else { s1 with boot := { s1.boot with st := .rom, wait := .coolDown } }

/-- A logic die has a new temperature: it enters the state of R515, which is recorded where it differs. -/
def State.setLogic (s : State) (d : Nat) (t : Therm) : State :=
  let st := logicNext t.st t.temp
  let s1 := (s.modLogicTherm d fun _ => { t with st := st }).hardLimits
  if st = t.st then s1 else s1.event hd1Die 0x0203 (d + 256 * st) (tempArg t.temp)

/-- An array die has a new temperature: it enters the band of R522, which is recorded where it differs. -/
def State.setArray (s : State) (j : Nat) (t : Therm) : State :=
  let b := bandNext (bandOf t) t.temp
  let s1 := s.modArrayTherm j fun _ => t.withBand b
  if b = bandOf t then s1 else s1.event (sbDie (j / 16)) 0x0204 j (s1.bandWord (j / 16) (j % 16))

/-- New readings of a logic die. -/
def State.sampleLogic (s : State) (d : Nat) (rs : List Int) : State :=
  let old := s.logicTherm d
  let t := ({ old with readings := rs }).measure
  let s1 := s.setLogic d t
  (if logicNext old.st t.temp = 4 ∧ old.st ≠ 4 then s1.shutdown d (dieCode d) t.temp else s1).settleHeat

/-- New readings of an array die; R537 names it by its own number in event 0x0205, GL_RESET_CAUSE.DIE by its stack. -/
def State.sampleArray (s : State) (j : Nat) (rs : List Int) : State :=
  let old := s.arrayTherm j
  let t := ({ old with readings := rs }).measure
  let s1 := s.setArray j t
  (if 920 ≤ t.temp ∧ old.temp < 920 then s1.shutdown j (j / 16) t.temp else s1).settleHeat

/-- A sensor is declared failed (R513); the die's temperature and state follow. -/
def State.failSensor (s : State) (array : Bool) (d sensor : Nat) : State :=
  let n := if array then 4 else logicSensors d
  let old := if array then s.arrayTherm d else s.logicTherm d
  if old.off sensor then
    let t := old.exclude n sensor
    let who := if array then sbDie (d / 16) else hd1Die
    let kind := b2n array * 2 ^ 24 + d
    let s1 := s.event who 0x0201 kind sensor
    let s2 := if t.degraded && !old.degraded then s1.event who 0x0202 kind (n - t.failed.length) else s1
    (if array then s2.setArray d t else s2.setLogic d t).settleHeat
  else s

/-- The 100 µs step of A_t (R516). -/
def State.thermalStep (s : State) : State :=
  ((List.range 8).foldl (fun t d =>
    let c := t.controlling d
    t.modDie d fun x => { x with
      atherm := if 800 ≤ c then max 4 (x.atherm - 1) else if c ≤ 784 then min 16 (x.atherm + 1) else x.atherm }) s).hardLimits

/- ---- power (R525, R526) ---- -/

/-- A plan's pulse ceiling and its budget for a compute die in W (R21). -/
def planCeiling : Nat → Nat
  | 0 => 12
  | 1 => 14
  | _ => 16
def planWatts : Nat → Nat
  | 0 => 90
  | 1 => 120
  | 2 => 150
  | _ => 185

def State.pulses (s : State) (d : Nat) : Nat :=
  min (min (planCeiling s.planEff) (s.die d).atherm) (min (s.die d).apower s.asupply)

/-- The 100 µs step of A_p; event 0x0208 when it reaches 4. -/
def State.powerStep (s : State) (d watts : Nat) : State :=
  let old := (s.die d).apower
  let new := if planWatts s.planEff < watts then max 4 (old - 1)
    else if watts * 20 < planWatts s.planEff * 19 then min 16 (old + 1) else old
  let s1 := s.modDie d fun x => { x with apower := new, watts := watts }
  if new = 4 ∧ old ≠ 4 then s1.event hd1Die 0x0208 d watts else s1

/- ---- rails (R528, R529) ---- -/

/-- V_BASE of the part, within 0.62 V to 0.74 V (R533). -/
def vBase : Nat := max 4960 (min 5920 Config.vBase)

/-- The VDD_CORE set point in units of 0.125 mV (R534). -/
def State.vset (s : State) : Nat := vBase + 25 * s.patina.g

/-- The request for the set point (R48): the next multiple of 3.125 mV, which V_BASE need not be (log entry 81). -/
def State.avsLevel (s : State) : Nat := ceilDiv s.vset 25 * 25

/-- Request the set point, unless it is what was requested last (R48). -/
def State.requestVoltage (s : State) : State :=
  if s.vreq = some s.avsLevel then s else { s.emit (.avs s.avsLevel) with vreq := some s.avsLevel }

/-- Nominal voltage of a rail in units of 0.125 mV (R47): VDD_CORE as requested, 0.70 V until the first request. -/
def State.nominal (s : State) (r : Nat) : Nat :=
  match r with
  | 0 => s.vreq.getD 5600
  | 1 => 6400
  | 2 => 8400
  | 3 => 3200
  | 4 => 6800
  | 5 => 14400
  | _ => if (s.board.map fun b => bit b.straps 15) = some true then 26400 else 14400

/-- A voltage lies at or below a level (percent below nominal). -/
def State.below (s : State) (r mv pct : Nat) : Bool := decide (mv * 8 * 100 ≤ s.nominal r * (100 - pct))

/- ---- the patina planner (R533 to R536) ---- -/

/-- The worst of the corrected slacks: slack in 1/8 ps, die, monitor. -/
def worstSlack : List (Nat × Nat × Int) → Option (Nat × Nat × Int)
  | [] => none
  | x :: r => match worstSlack r with
    | none => some x
    | some y => some (if y.2.2 < x.2.2 then y else x)

def State.hottestCd (s : State) : Int := (List.range 8).foldl (fun a d => max a (s.logicTherm d).temp) (s.logicTherm 0).temp

/-- A record of the patina history, saved at once (R536). -/
def State.patinaRecord (s : State) (kind die monitor : Nat) : State :=
  let p := s.patina
  let r : PatinaRec := ⟨p.hours, kind, p.g, p.k, p.margin, die, monitor, s.hottestCd, s.vset⟩
  ({ s with patina := { p with
      count := p.count + 1, nextSlot := (p.nextSlot + 1) % patinaSlots,
      ring := Assoc.put (Assoc.erase p.ring p.nextSlot) p.nextSlot r } }).startSave

/-- The largest G (R534). -/
def gMax : Nat := min 19 ((6400 - vBase) / 25)

/-- A quiescent point is requested: no command starts and running ones are killed (R373); in S2 it waits for the exit. -/
def State.requestQuiesce (s : State) : State :=
  if s.pkg = .s2 ∨ s.quiesce then s
  else (s.cmds.map (·.id)).foldl (fun t id => t.kill id) { s with quiesce := true }

/-- Step 1 of R534 on a margin below 0: raise G; the set point is requested at once. -/
def State.raiseG (s : State) (die monitor : Nat) : State :=
  let m := s.patina.margin
  let g := min gMax (s.patina.g + ceilDiv m.natAbs (max 1 Config.sV))
  let s1 := { s with patina := { s.patina with g := g } }
  (s1.requestVoltage.event hd1Die 0x020A g (ofSigned 32 m)).patinaRecord 3 die monitor

/-- Steps 2 and 3: with G at its largest, ask for a lower root, or the margin is exhausted. -/
def State.raiseK (s : State) (die monitor : Nat) : State :=
  if s.patina.k < 8 then
    if s.patina.pendingK then s else ({ s with patina := { s.patina with pendingK := true } }).requestQuiesce
  else
    (({ s with patina := { s.patina with exhausted := true } }).event hd1Die 0x020C s.patina.hours
      (ofSigned 32 s.patina.margin)).patinaRecord 5 die monitor

/-- The planner acts on a measurement; `again` is what it measures after raising G. -/
def State.planPatina (s : State) (die monitor : Nat) (again : List (Nat × Nat × Int)) : State :=
  if 0 ≤ s.patina.margin then s
  else if s.patina.g < gMax then
    let s1 := s.raiseG die monitor
    match worstSlack again with
    | none => s1
    | some y =>
      let s2 := { s1 with patina := { s1.patina with margin := y.2.2 - 64 } }
      if 0 ≤ s2.patina.margin then s2
      else if s2.patina.g < gMax then s2.raiseG y.1 y.2.1
      else s2.raiseK y.1 y.2.1
  else s.raiseK die monitor

/-- A patina measurement (R532): the first since power-on is of kind 0x1. -/
def State.measurePatina (s : State) (slacks again : List (Nat × Nat × Int)) : State :=
  match worstSlack slacks with
  | none => s
  | some x =>
    let kind := if s.patina.measured then 2 else 1
    let s1 := { s with patina := { s.patina with margin := x.2.2 - 64, measured := true } }
    (s1.patinaRecord kind x.1 x.2.1).planPatina x.1 x.2.1 again

/-- Slack gained by root step k, in 1/8 ps times 2^16. -/
def rootGain (k : Nat) : Int := ((160000 * k * 65536 / (21 * (64 - k)) : Nat) : Int)

/-- The records in the order written. -/
def Patina.inOrder (p : Patina) : List PatinaRec :=
  ((p.ring.filter fun x => decide (p.nextSlot ≤ x.1)) ++ p.ring.filter fun x => decide (x.1 < p.nextSlot)).map (·.2)

/-- The projection (R535): a straight line through the last eight periodic measurements. -/
def Patina.projection (p : Patina) : Nat :=
  let all := p.inOrder.filter fun r => r.kind == 2
  let rs := all.drop (all.length - 8)
  let n : Int := rs.length
  let x (r : PatinaRec) : Int := r.hours
  let y (r : PatinaRec) : Int := (r.margin - Config.sV * r.g) * 65536 - rootGain r.k
  let sum (f : PatinaRec → Int) : Int := (rs.map f).foldl (· + ·) 0
  let num := n * sum (fun r => x r * y r) - sum x * sum y
  let den := n * sum (fun r => x r * x r) - sum x * sum x
  if all.length < 2 ∨ den ≤ 0 ∨ 0 ≤ num then 0xFFFFFFFF
  else
    let cap : Int := (Config.sV * gMax : Nat) * 65536 + rootGain 8
    -- a + b h = -cap with b = num/den and a = (sum y * den - num * sum x) / (n * den)
    let h := (-(cap * n * den) - (sum y * den - num * sum x)).ediv (num * n)
    if h < 0 then 0 else min h.toNat 0xFFFFFFFF

end Sys2Proof.Machine
end

