-- ==== Sys2Proof/Machine/Mailbox.lean ====
section
/-! DEFINITION. The firmware mailbox and the firmware update (spec 17, R481 to R484): what their operations do, and the registers they
report. The rows that issue them are in Boot.lean. -/

namespace Sys2Proof.Machine

/- ---- register words the mailbox also reports (R460, R470) ---- -/

def BootSt.code : BootSt → Nat
  | .rom => 0 | .flash => 1 | .verify => 2 | .load => 3 | .bringup => 4 | .ready => 5 | .recovery => 0xE

/-- GL_BOOT. -/
def State.bootWord (s : State) : Nat :=
  let b := s.boot
  b.st.code * 2 ^ 28 + b.reject * 2 ^ 24 + b.slot * 2 ^ 23 + b2n b.otherOk * 2 ^ 22 + b2n b.slow * 2 ^ 21 + b2n b.foreign * 2 ^ 20 +
  b2n b.persistNew * 2 ^ 19 + b.timeMs

/-- GL_IMGVER and GL_BUILD: zero in RECOVERY. -/
def State.imgver (s : State) : Nat := if s.boot.st = .recovery then 0 else s.boot.svn * 65536 + s.boot.counter * 256
def State.buildWord (s : State) : Nat := if s.boot.st = .recovery then 0 else s.boot.build

/-- The debug lock is in force (R486). -/
def State.locked (s : State) : Bool := bit s.boot.straps 16 || s.boot.dbgFuse

/- ---- the mailbox (R483, R484) ---- -/

/-- RESULT codes. -/
def mbOk : Nat := 0
def mbBadOp : Nat := 1
def mbBadLength : Nat := 2
def mbBadState : Nat := 3
def mbVerifyFailed : Nat := 4
def mbHeldElsewhere : Nat := 5
def mbFlashError : Nat := 6

/-- The slot that does not run. -/
def State.otherSlot (s : State) : Nat := 1 - s.boot.slot

/-- GET_INFO's response (its layout: log entry 30). -/
def State.infoBytes (s : State) : List Byte :=
  leBytes s.bootWord 4 ++ leBytes s.imgver 4 ++ leBytes s.buildWord 4 ++
  (if (s.slotFail s.otherSlot).isNone then leBytes (s.slotField s.otherSlot 12 2) 4 ++ leBytes (s.slotField s.otherSlot 0x14 4) 4 else [])

/-- The report of R482 but for its signature. -/
def State.reportHead (s : State) (nonce : List Byte) : List Byte :=
  padTo 32 nonce ++ leBytes Config.deviceId.toNat 16 ++ leBytes s.ident 4 ++ leBytes s.boot.svn 2 ++ leBytes s.boot.counter 1 ++
  leBytes (b2n s.locked + 2 * s.boot.slot) 1 ++ leBytes s.boot.straps 4 ++ leBytes s.active 1 ++ leBytes 0 3 ++ padTo 64 s.boot.digest ++
  padTo 64 (Config.shake256 ((s.overlayBytes s.boot.slot s.active).getD [])) ++
  padTo 64 (Config.shake256 (s.flashRun (copyBase s.persistUse + 0x1040) (s.copyField s.persistUse 12 4 - 0x1040)))

/-- The whole report (R482). -/
def State.report (s : State) (nonce : List Byte) : List Byte :=
  let head := s.reportHead nonce
  let n := 1 + Config.sigLength head % 1536
  let body := head ++ leBytes n 2 ++ leBytes 0 14
  body ++ padTo 1536 ((Config.falconSign (Config.shake256 body)).take n)

/-- The request payload of a mailbox. -/
def HPort.payload (p : HPort) (n : Nat) : List Byte := (List.range n).map fun i => Assoc.get 0 p.mbBuf i

/-- A response: its bytes lie in the buffer, DONE is set. -/
def State.respond (s : State) (port result : Nat) (bs : List Byte) : State :=
  s.modHport port fun p =>
    { p with mbDone := true, mbResult := result, mbRlen := bs.length
             mbBuf := (spread 0 bs).foldl (fun l c => Assoc.set 0 l c.1 c.2) p.mbBuf }

/-- An operation that takes a request of a fixed length. -/
def lengthThen (n : Nat) (k : State → Nat → List Byte → State) (s : State) (port : Nat) (bs : List Byte) : State :=
  if bs.length = n then k s port bs else s.respond port mbBadLength []

def State.getInfo (s : State) (port : Nat) (_ : List Byte) : State := s.respond port mbOk s.infoBytes
def State.attest (s : State) (port : Nat) (bs : List Byte) : State :=
  if s.boot.st = .recovery then s.respond port mbBadState [] else s.respond port mbOk (s.report bs)
def State.getCert (s : State) (port : Nat) (bs : List Byte) : State :=
  s.respond port mbOk ((Config.certificate.drop (u32 bs 0)).take 4096)

/-- The slot that does not run can be neither erased nor written (FLASH_ERROR). -/
def State.slotWorn (s : State) : Bool :=
  match s.board with
  | some b => b.flashWorn.contains s.otherSlot
  | none => false

/-- Take the update hold and erase the other slot. -/
def State.takeHold (s : State) (who : Holder484) (len : Nat) : State :=
  ({ s with update := some { who := who, len := len } }).flashErase (slotBase s.otherSlot) (slotBase s.otherSlot + 0x01800000)

/-- A body of this length fits a slot below its marker. -/
def bodyFits (len : Nat) : Bool := decide (0 < len) && decide (len ≤ markerOff)

def State.beginUpdate (s : State) (who : Holder484) (len : Nat) : Nat × State :=
  match s.update with
  | some u => (if u.who = who then mbBadState else mbHeldElsewhere, s)
  | none => if !bodyFits len then (mbBadLength, s) else if s.slotWorn then (mbFlashError, s) else (mbOk, s.takeHold who len)

/-- Do something with a held update. -/
def State.withHold (s : State) (who : Holder484) (k : Update → Nat × State) : Nat × State :=
  match s.update with
  | none => (mbBadState, s)
  | some u => if u.who = who then k u else (mbHeldElsewhere, s)

/-- Write the next data of the image. -/
def State.dataUpdate (s : State) (who : Holder484) (off : Nat) (bs : List Byte) : Nat × State :=
  s.withHold who fun u =>
    if off ≠ u.next then (mbBadState, s)
    else if u.len < off + bs.length then (mbBadLength, s)
    else if s.slotWorn then (mbFlashError, s)
    else (mbOk, ({ s with update := some { u with next := off + bs.length } }).flashWrite (slotBase s.otherSlot + off) bs)

/-- The checks of UPDATE_END on the other slot: the code of the first that fails. -/
def State.updateFail (s : State) : Option Nat :=
  if !s.headerReadable s.otherSlot then some 1 else s.bodyFail s.otherSlot

/-- The marker of the new image. -/
def State.writeMarker (s : State) : State :=
  s.flashWrite (slotBase s.otherSlot + markerOff) (markerBytes ((s.boot.generation + 1) % 2 ^ 32))

def State.dropHold (s : State) : State := { s with update := none }

/-- UPDATE_END: the result, with the code of a failed check as the response. -/
def State.endUpdate (s : State) (who : Holder484) : (Nat × List Byte) × State :=
  let x := s.withHold who fun _ => match s.updateFail with
    | none => if s.slotWorn then (mbFlashError, s.dropHold) else (mbOk, s.writeMarker.dropHold)
    | some _ => (mbVerifyFailed, s.dropHold)
  ((x.1, if x.1 = mbVerifyFailed then leBytes (s.updateFail.getD 0) 1 else []), x.2)

def State.abortUpdate (s : State) (who : Holder484) : Nat × State := s.withHold who fun _ => (mbOk, s.dropHold)

def State.mbBegin (s : State) (port : Nat) (bs : List Byte) : State :=
  let x := s.beginUpdate (.mailbox port) (u32 bs 0)
  x.2.respond port x.1 []
def State.mbData (s : State) (port : Nat) (bs : List Byte) : State :=
  if bs.length < 4 then s.respond port mbBadLength [] else
  let x := s.dataUpdate (.mailbox port) (u32 bs 0) (bs.drop 4)
  x.2.respond port x.1 []
def State.mbEnd (s : State) (port : Nat) (_ : List Byte) : State :=
  let x := s.endUpdate (.mailbox port)
  x.2.respond port x.1.1 x.1.2
def State.mbAbort (s : State) (port : Nat) (_ : List Byte) : State :=
  let x := s.abortUpdate (.mailbox port)
  x.2.respond port x.1 []

/-- The operation a mailbox command names (R484). -/
def mailRun (op : Nat) : State → Nat → List Byte → State :=
  match op with
  | 0x01 => lengthThen 0 State.getInfo
  | 0x02 => lengthThen 32 State.attest
  | 0x03 => lengthThen 4 State.getCert
  | 0x10 => lengthThen 4 State.mbBegin
  | 0x11 => State.mbData
  | 0x12 => lengthThen 0 State.mbEnd
  | 0x13 => lengthThen 0 State.mbAbort
  | _ => fun s port _ => s.respond port mbBadOp []

/-- The operation of a mailbox runs: its response ends BUSY. -/
def State.mailAnswer (s : State) (port : Nat) : State :=
  let p := s.hport port
  let s1 := s.modHport port fun x => { x with mbBusy := false }
  if 4096 < p.mbLen then s1.respond port mbBadLength [] else mailRun p.mbOp s1 port (p.payload p.mbLen)

/-- A busy mailbox comes nearer to its response with every step (log entry 86). -/
def State.mailPort (s : State) (port : Nat) : State :=
  if (s.hport port).mbBusy then
    if (s.hport port).mbWait ≤ 1 then s.mailAnswer port else s.modHport port fun p => { p with mbWait := p.mbWait - 1 }
  else s

def State.mailStep (s : State) : State := if s.hports.any (·.2.mbBusy) then (s.mailPort 0).mailPort 1 else s

/-- A reset of the PLDM session releases its hold (R484, log entry 87). -/
def State.dropSession (s : State) : State :=
  match s.update with
  | some u => if u.who = .pldm then s.dropHold else s
  | none => s

end Sys2Proof.Machine
end

