-- ==== Sys2Proof/Machine/Reset.lean ====
section
/-! DEFINITION. Start-up and resets (spec 17, 18, 20): the boot of R467, the device reset of R505 and R506, loss of power (R530),
quiescent points with their overlay switches, root changes and remaps (R373, R478, R501), and what ends every meaning. -/

namespace Sys2Proof.Machine

/- ---- the event log (R554, R555) ---- -/

/-- HD1 stores a record in the next slot. -/
def State.storeEvent (s : State) (die : Nat) (r : Nat × Nat × Nat × Nat × Nat) : State :=
  let n := s.evTotal
  let rec_ : EvRec := { tick := r.1, seq := r.2.1, code := r.2.2.1, src := 256 * s.modid + die, arg0 := r.2.2.2.1, arg1 := r.2.2.2.2,
                        boot := s.resetCount, num := n % 2 ^ 32 }
  let s1 := { s.modLogSlot (n % 4096) (fun _ => some rec_) with evTotal := n + 1 }
  match s.eventReceiver with
  | some e => if rec_.code / 256 = 2 then s1.emit (.pldm 0x0A [e, rec_.code, rec_.arg0, rec_.arg1]) else s1
  | none => s1

/-- The oldest record that waits in a die reaches HD1. -/
def State.storeFrom (s : State) (die : Nat) : State :=
  match (s.ev die).waiting with
  | [] => s
  | r :: rest => (s.modEv die fun e => { e with waiting := rest }).storeEvent die r

/-- Every waiting record of a die reaches the log. -/
def State.storeDie (s : State) (die : Nat) : State := (s.ev die).waiting.foldl (fun t _ => t.storeFrom die) s
def State.storeAll (s : State) : State := (List.range 32).foldl State.storeDie s

/- ---- plans (R21 to R24) ---- -/

def coolLimit : Nat → Nat
  | 0 => 2
  | 1 => 3
  | 2 => 1
  | _ => 0

def State.partLimit (s : State) : Nat := if s.longLife then 1 else 3

/-- The plan an overlay requests, and whether it names one. -/
def State.planOf (s : State) (o : Overlay) : Nat × Bool :=
  if o.namesPlan then (o.plan, true) else (bits s.boot.straps 12 11, false)

/-- Take the requested plan and compute the effective one; a clamp is recorded, by HD1: R23 and R537 name no die (DESIGN CHOICE, log
entry 85). -/
def State.takePlan (s : State) (o : Overlay) : State :=
  let r := s.planOf o
  let e := min r.1 (min s.partLimit (coolLimit (bits s.boot.straps 14 13)))
  let s1 := { s with planReq := r.1, planFromOverlay := r.2, planEff := e }
  if e < r.1 then s1.event hd1Die 0x020D r.1 e else s1

/- ---- overlay values ---- -/

/-- A context's overlay fields (R474). -/
def Overlay.ctxOf (o : Overlay) (c : Nat) : Nat × Nat × Nat × Nat := Assoc.get (0, 0, 0, 0) o.ctx c

def Ctx.fromOverlay (x : Ctx) (e : Nat × Nat × Nat × Nat) : Ctx :=
  { x with
    semFirst := e.1, semCount := e.2.1, itemCycles := bits e.2.2.1 23 0, port := bits e.2.2.2 16 16, func := bits e.2.2.2 15 10,
    share := bits e.2.2.2 5 2, prio := bits e.2.2.2 1 0 }

/-- Context fields of an overlay, SHARE as a write of it (R366), and the expert map. -/
def State.takeContexts (s : State) (o : Overlay) : State :=
  let s1 := (List.range 256).foldl (fun t c => t.modCtx c fun x => x.fromOverlay (o.ctxOf c)) s
  { s1 with accounts := [], expert := o.expert }

/-- The page pool and table area of every stack (R306, R309). -/
def State.takePool (s : State) (o : Overlay) : State :=
  (List.range 16).foldl (fun t k =>
    let p := t.poolBytes
    let tbl := if o.tblUnits * 65536 ≤ p then o.tblUnits else 0
    let top := p - tbl * 65536
    let frames := if o.base * 65536 + o.frames * (16384 + sideBytes o.sidemax) ≤ top then o.frames else 0
    let noPool := o.frames != 0 && frames == 0
    let noTbl := tbl == 0
    let t1 := t.modStack k fun x => { x with frames := frames, base := o.base, sidemax := o.sidemax, free := 1024 * frames, tblUnits := tbl }
    if noPool || noTbl then t1.event (sbDie k) 0x0303 k (b2n noPool + 2 * b2n noTbl) else t1) s

/-- Everything an overlay gives at a device reset. -/
def State.takeOverlay (s : State) (o : Overlay) : State :=
  let s1 := { s with
    memSplit := o.split, stripeAll := o.stripeAll, resMib := o.resMib, binMib := o.binMib,
    totalVf := Assoc.set 0 (Assoc.set 0 [] 0 o.totalVf0) 1 o.totalVf1, vectors := o.vectors, ovlKept := o }
  ((s1.takePool o).takeContexts o).takePlan o

/-- The overlay of a number, if valid. -/
def State.overlay (s : State) (i : Nat) : Option Overlay := Assoc.get none s.overlays i

/- ---- boot (R467 to R472, R476, R480) ---- -/

/-- Steps 1 to 3: sample the straps and choose a slot (R468); none passes: RECOVERY (R469). -/
def State.chooseSlot (s : State) : State :=
  let b := s.board.getD { straps := 0, flash := [] }
  let s1 := { s with boot := { s.boot with straps := b.straps, slow := !b.flashFast, dbgFuse := s.boot.dbgFuse } }
  let a := s1.firstSlot
  let fail (r : Nat) (slot : Nat) (other : Bool) : State :=
    { s1 with boot := { s1.boot with st := .verify, reject := r, slot := slot, otherOk := other } }
  match s1.slotFail a with
  | none => fail 0 a ((s1.slotFail (1 - a)).isNone)
  | some r =>
    match s1.slotFail (1 - a) with
    | none => fail r (1 - a) false
    | some q => { s1 with boot := { s1.boot with st := .recovery, reject := q, wait := .none } }

/-- The tables of the base configuration (R473), with an event for every ignored group entry (R416). -/
def State.loadBase (s : State) (slot : Nat) : State :=
  match s.sectionAt slot 0x10 with
  | none => s
  | some x =>
    let b := s.flashRun (slotBase slot + x.off) 1024
    let s1 := { s with
      groupTab := tableOf 48 fun i => u64 b (8 * i)
      routeTab := tableOf 64 fun i => u32 b (0x180 + 4 * i)
      exportTab := tableOf 16 fun i => u64 b (0x280 + 8 * i) }
    (List.range 48).foldl (fun t g =>
      if bit (t.groupEntry g) 63 then
        let t1 := if 1 < (entryPorts (t.groupEntry g)).length && !oneLinkDie (entryPorts (t.groupEntry g)) then t.event hd0Die 0x0304 g 1 else t
        if t.groupShares g then t1.event hd0Die 0x0304 g 2 else t1
      else t) s1

/-- The persistent area (R38, R480, R502, R536). -/
def State.loadPersist (s : State) : State :=
  match s.copyUsed with
  | none =>
    (({ s with persistUse := 1, persistSeq := 0, boot := { s.boot with persistNew := true } }).event hd0Die 0x0307 0 0).startSave.endSave
  | some c =>
    if s.copyField c 16 16 = Config.deviceId.toNat then
      let s1 := { s with persistUse := c, persistSeq := s.copyField c 8 4, patina := s.patinaFrom c s.patina }
      (List.range 16).foldl (fun t k => t.modStack k fun x => { x with remaps := s1.remapsFrom c k }) s1
    else
      (({ s with
        persistUse := c, persistSeq := s.copyField c 8 4
        boot := { s.boot with persistNew := true, foreign := true } }).event hd0Die 0x0306 (s.copyField c 16 4) (s.copyField c 8 4)).startSave.endSave

/-- Step 4: firmware, base configuration, overlays and the persistent area. -/
def State.loadImage (s : State) : State :=
  let slot := s.boot.slot
  let f := s.slotField slot
  let ovs := s.readOverlays slot
  let named := bits s.boot.straps 10 8
  let active := if ovs.any (fun o => o.1 == named) then named else ((ovs.head?).map (·.1)).getD 0
  let s1 := { s with
    boot := { s.boot with
      st := .load, svn := f 12 2, floor := f 14 2, build := f 0x14 4, digest := s.flashRun (slotBase slot + 0x40) 64,
      generation := s.markerGen slot }
    overlays := ovs, active := active, fallback := active != named }
  let s2 := (s1.loadBase slot).loadPersist
  if active != named then s2.event hd0Die 0x0308 named active else s2

/-- The key slots that the running image revokes: those set in REVOKE below KEYSLOT (R472). -/
def State.revokes (s : State) : Nat := s.slotField s.boot.slot 6 2 % 2 ^ s.slotField s.boot.slot 0x18 1

/-- Step 7, after READY: one counter fuse at a time up to FLOOR, then the revocation fuses (R471, R472). A loss of power leaves what
is burned; the next boot goes on. -/
def State.burnStep (s : State) : State :=
  if !s.boot.burning then s
  else if s.boot.counter < s.boot.floor then { s with boot := { s.boot with counter := s.boot.counter + 1 } }
  else { s with boot := { s.boot with revoked := s.boot.revoked ||| s.revokes, burning := false } }

/-- Fuses are still to be burned for the running image. -/
def State.mustBurn (s : State) : Bool :=
  decide (s.boot.counter < s.boot.floor) || (s.boot.revoked ||| s.revokes) != s.boot.revoked

/-- The FIFO crossings of the module, by key (R66). -/
def fifoKeys : List Nat := (List.range 1024).filter fun k => fifoCrossing (k / 32) (k % 32)

/-- Every die leaves reset: each FIFO crossing resynchronises its pointers once (R61, R62), before any data moves. -/
def State.resyncAll (s : State) : State :=
  { s with cross := fifoKeys.foldl (fun l k => Assoc.set {} l k
      (Assoc.get {} l k : Cross).resynced) s.cross }

/-- Steps 5 to 7: the dies come up, the overlay and the plan take effect, the set point is requested (R48 does not say when the first
request after a boot is made: DESIGN CHOICE, log entry 81), READY. TIME_MS is a free value within the bound of R467 where that
bound holds. -/
def State.bringUp (s : State) : State :=
  let s1 := match s.overlay s.active with
    | some o => s.takeOverlay o
    | none => s
  let ms := Config.freeNat s1.fresh
  let bounded := !s1.boot.slow && s1.boot.wait == .none
  let s2 := { s1.bump with boot := { s1.boot with st := .ready, wait := .none, timeMs := if bounded then ms % 801 else min ms 65535 } }
  let s3 : State := { s2.requestVoltage.resyncAll with ports := (List.range 48).map fun p => (p, { s2.port p with st := .training }) }
  { s3 with boot := { s3.boot with burning := s3.mustBurn } }

/-- Every logic die is at -20 °C or above; every array die at 0 °C or above (R518). -/
def State.logicWarm (s : State) : Bool := s.therm.all fun x => decide (-160 ≤ x.2.temp)
def State.arraysWarm (s : State) : Bool := s.atherm.all fun x => decide (0 ≤ x.2.temp)

/-- Step 5 when the array dies allow it. -/
def State.bootStep5 (s : State) : State :=
  if s.arraysWarm then s.bringUp else { s with boot := { s.boot with st := .bringup, wait := .arrayCold } }
/-- Step 4 when the logic dies allow it. -/
def State.bootStep4 (s : State) : State :=
  if s.logicWarm then s.loadImage.bootStep5 else { s with boot := { s.boot with st := .load, wait := .logicCold } }
/-- The whole boot from the release of reset. In RECOVERY no overlay is active: ACTIVE reads the strap (R477), and the plan is that
of the straps, clamped as R22 has it. R24 computes it at the device reset, R467 in step 5, which RECOVERY never reaches: DESIGN
CHOICE, log entry 85. -/
def State.bootNow (s : State) : State :=
  let s0 : State := { s with boot := { s.boot with wait := .none } }
  let s1 := s0.chooseSlot
  if s1.boot.st = .recovery then ({ s1 with active := bits s1.boot.straps 10 8 }).takePlan {} else s1.bootStep4

/- ---- what a reset leaves ---- -/

/-- What survives every reset: the part, its fuses, the flash, the board; and the model's own records. -/
def State.kept (s : State) : State :=
  { State.reset with
    pending := s.pending, out := s.out, clock := s.clock, fresh := s.fresh + 1
    grade := s.grade, longLife := s.longLife, stepping := s.stepping, board := s.board, flash := s.flash
    boot := { counter := s.boot.counter, revoked := s.boot.revoked, dbgFuse := s.boot.dbgFuse }
    mem := { undef := [{ lo := 0, hi := 2 ^ 43, stamp := s.fresh }] }
    therm := s.therm.map (fun (x : Nat × Therm) => (x.1, ({ x.2 with failed := [], degraded := false, st := 0 } : Therm).measure))
    atherm := s.atherm.map (fun (x : Nat × Therm) => (x.1, ({ x.2 with failed := [], degraded := false } : Therm).measure))
    packageW := s.packageW, cdMaxW := s.cdMaxW }

/-- The states of logic dies from their temperatures after a reset. -/
def State.reheat (s : State) : State :=
  let s1 : State := { s with therm := s.therm.map (fun (x : Nat × Therm) => (x.1, { x.2 with st := min 3 (logicUp x.2.temp) })) }
  s1.hardLimits.settleHeat

/-- Every die is reset (R505 step 3, R506): HD1's never-off domains keep the log, the sideband and the counts since power-on. -/
def State.resetDies (s : State) (cause die : Nat) : State :=
  let s1 := s.storeAll
  ({ s1.kept with
    boot := { s1.kept.boot with straps := s1.boot.straps }
    resetCause := cause, resetDie := die, resetCount := min 0xFFFF (s1.resetCount + 1)
    evlog := s1.evlog, evTotal := s1.evTotal, rails := s1.rails.map (fun (r : Nat × Rail) => (r.1, { r.2 with low := false }))
    asupply := if s1.rails.any (fun r => r.2.warn) then 8 else 16
    patina := { measured := s1.patina.measured, sub := s1.patina.sub }, vreq := s1.vreq
    s2Count := s1.s2Count, i3cAddr := s1.i3cAddr, eid := s1.eid, eventReceiver := s1.eventReceiver, sensors := s1.sensors
    jtagIr := s1.jtagIr }).reheat

/-- The stacks whose pending remap requests are discarded record it (R501). -/
def State.remapsLost (s : State) (old : List (Nat × Stack)) : State :=
  old.foldl (fun t k => if k.2.pending = [] then t else t.event (sbDie k.1) 0x0107 k.1 k.2.pending.length) s

/-- Power-on reset holds every die (R49, R530). -/
def State.powerOff (s : State) : State :=
  { s.kept with boot := { counter := s.boot.counter, revoked := s.boot.revoked, dbgFuse := s.boot.dbgFuse, wait := .power } }.remapsLost
    s.stackTab

/- ---- the device reset (R82, R505) ---- -/

/-- Complete a command with DEVICE_RESET. A record for host memory cannot be written while Bus Master Enable is 0 (R453): that
command ends without one (log entry 89). -/
def State.resetCmd (s : State) (c : Cmd) : State :=
  let s1 := { s with mem := s.mem.unveil c.stamp true }
  (if s1.recordReady c.id then s1.writeRecord c { status := .deviceReset } else s1).removeCmd c.id

/-- What each stack and courier reports before a reset takes effect (R327, R356, R501). -/
def State.reportLosses (s : State) : State :=
  let s1 := ((List.range 16).foldl (fun t k =>
    let x := t.stack k
    t.event (sbDie k) 0x0311 (k + 256 * x.reserved) x.mapped) s).remapsLost s.stackTab
  (List.range 6).foldl (fun t l =>
    let es := (t.ledger.filter fun e => e.1 / 65536 == l && e.2.st != .free).length
    let binned := ((t.slots.filter fun x => x.1 % 6 == l).map fun x => x.2.even.copies.length + x.2.odd.copies.length).foldl (· + ·) 0
    t.event (ldDie l) 0x0310 (l + 256 * es) ((t.courier l).held.length + binned)) s1

/-- Step 1 of R505: every accepted, uncommitted command completes with DEVICE_RESET (R82). -/
def State.resetCmds (s : State) : State := s.cmds.foldl (fun t c => (t.stopWork c.id).resetCmd c) s

/-- No message between dies is in flight: FIFO crossings are empty (R63). -/
def State.fifosEmpty (s : State) : Bool := s.inbox.isEmpty && s.frames.isEmpty

/-- A device reset other than for a host-die failure; a thermal shutdown holds the dies (R517). -/
def State.deviceReset (s : State) (cause die : Nat) : State :=
  let s2 := (s.event hd1Die 0x0108 cause 0).resetCmds
  let s3 := s2.reportLosses.endSave.endSave
  let s4 := s3.resetDies cause die
  if cause = 6 then { s4 with boot := { s4.boot with wait := .coolDown } }.updateAlert else s4.bootNow

/-- A host-die failure (R506): no records, and the host ports drop their links. -/
def State.hostDieFailure (s : State) : State :=
  ((((s.event hd1Die 0x0108 4 0).reportLosses).resetDies 4 0).emit (.linkDrop 0) |>.emit (.linkDrop 1)).bootNow

/- ---- quiescent points (R373, R478, R501) ---- -/

/-- The values of an overlay that a switch does not take, where they differ from those kept since the last device reset (event
0x0302). -/
def State.keptMask (s : State) (o : Overlay) : Nat :=
  let k := s.ovlKept
  b2n (o.split != k.split || o.stripeAll != k.stripeAll) +
  2 * b2n (o.sidemax != k.sidemax || o.base != k.base || o.frames != k.frames) + 4 * b2n (o.tblUnits != k.tblUnits) +
  8 * b2n (o.resMib != k.resMib || o.binMib != k.binMib) +
  16 * b2n (o.totalVf0 != k.totalVf0 || o.totalVf1 != k.totalVf1) + 32 * b2n (o.vectors != k.vectors)

/-- The overlay switch at its quiescent point (R478). -/
def State.switchOverlay (s : State) : State :=
  match s.ovlBusy with
  | none => s
  | some i =>
    match s.overlay i with
    | none => { s with ovlBusy := none }
    | some o =>
      let mask := s.keptMask o
      let s1 := { (s.takeContexts o).takePlan o with active := i, ovlBusy := none }
      if mask = 0 then s1 else s1.event hd0Die 0x0302 i mask

/-- The root change at its quiescent point (R57, R534). -/
def State.lowerRoot (s : State) : State :=
  if s.patina.pendingK then
    let s1 := { s with patina := { s.patina with k := min 8 (s.patina.k + 1), pendingK := false }, relocking := true }
    (s1.event hd1Die 0x020B s1.patina.k (ofSigned 32 s1.patina.margin)).patinaRecord 4 0 0
  else s

/-- The lowest spare of a bank that no entry uses. -/
def Stack.freeSpare (k : Stack) (bank : Nat) : Option Nat :=
  (List.range 4).find? fun sp => !(k.remaps.any fun e => match e.2 with
    | some r => r.bank == bank && r.spare == sp
    | none => false)

/-- The entry that maps a row already. -/
def Stack.entryOf (k : Stack) (bank row : Nat) : Option Nat :=
  (k.remaps.find? fun e => match e.2 with
    | some r => r.bank == bank && r.row == row
    | none => false).map (·.1)

/-- The granules of a DRAM row. -/
def State.rowGranules (s : State) (k bank row : Nat) : List Nat :=
  (List.range 64).map fun i => s.addrOf k bank (row * 2048 + i * 32) / 32

/-- A request is refused: REFUSE and an event. -/
def State.refuseRemap (s : State) (k code bank row : Nat) : State :=
  (s.modStack k fun x => { x with refuse := code }).event (sbDie k) 0x0105 (k + 16 * code) (bank * 65536 + row)

/-- Apply one pending request (R501). -/
def State.remapRow (s : State) (k : Nat) (q : Nat × Nat × Nat) : State :=
  let x := s.stack k
  let entry := match x.entryOf q.1 q.2.1 with
    | some i => some i
    | none => (List.range 32).find? fun i => (x.remap i).isNone
  match entry, x.freeSpare q.1 with
  | none, _ => s.refuseRemap k 1 q.1 q.2.1
  | _, none => s.refuseRemap k 2 q.1 q.2.1
  | some i, some sp =>
    let r : Remap := ⟨sp, q.1, q.2.1, q.2.2⟩
    let gs := s.rowGranules k q.1 q.2.1
    let poisoned := gs.countP fun g => s.mem.bad.contains g
    let s0 := gs.foldl (fun t g => if s.mem.bad.contains g then t.countUncorr (g * 32) none
      else if s.mem.weak.contains g then t.countCorr (g * 32) else t) s
    let s1 := s0.modStack k fun y => { y with remaps := Assoc.set none y.remaps i (some r), unsaved := true, dirty := s.persistBusy }
    let s2 := { s1 with mem := { s1.mem with weak := s1.mem.weak.filter fun g => !gs.contains g } }
    let s3 := s2.modEccBlock (sbBase k) fun e => { e with poison := sat64 (e.poison + poisoned) }
    s3.event (sbDie k) 0x0104 k (r.word / 2 ^ 32)

/-- Apply the pending requests of every stack whose array dies take writes; the tables are saved, after a save that already runs
once more (R502). -/
def State.remapAll (s : State) : State :=
  let s1 := (List.range 16).foldl (fun t k =>
    let now := (t.stack k).pending.filter fun q => !t.holdsWrites k (q.1 / 64)
    let t1 := t.modStack k fun x => { x with pending := x.pending.filter fun q => t.holdsWrites k (q.1 / 64) }
    now.foldl (fun u q => u.remapRow k q) t1) s
  if (List.range 16).any fun k => (s1.stack k).unsaved && (!(s1.stack k).saving || (s1.stack k).dirty) then s1.startSave else s1

/-- Something waits for a quiescent point. -/
def State.wantsQuiesce (s : State) : Bool := s.ovlBusy.isSome || s.patina.pendingK || s.applyReq

/-- S2 is entered at its quiescent point (R546): peers go, caches and docents lose their contents, domains switch off. -/
def State.enterS2 (s : State) : State :=
  let s1 := (List.range 64).foldl (fun t m => if (t.peer m).reachable then t.markUnreachable m else t) s
  let off := (List.range 442).filter fun n =>
    if n < 280 then n % 35 ≤ 32 else if n < 376 then 2 ≤ (n - 280) % 6 else false
  { s1 with
    dcache := [], tess := s1.tess.map (fun (t : Nat × Tess) => (t.1, { mustClear := true, context := t.2.context, lastCtx := t.2.lastCtx }))
    stackTab := s1.stackTab.map (fun (k : Nat × Stack) => (k.1, { k.2 with program := [] }))
    offDom := off.foldl insertNat s1.offDom, pkg := .s2, s2Count := min 0xFFFF (s1.s2Count + 1) }

/-- The quiescent point is reached: no command runs (R373); that of an S2 entry also waits for contexts that drain (R550) and for
FIFO crossings to be empty (R63). -/
def State.quiescent (s : State) : State :=
  if s.quiesce && s.cmds.all (fun c => c.stage != .running && c.stage != .killing) &&
      (s.pkg != .entering || (s.ctxs.all (fun c => c.2.st != .draining) && s.fifosEmpty)) then
    let s1 := (s.switchOverlay.lowerRoot).remapAll
    let s2 := { s1 with quiesce := false, applyReq := false }
    if s2.pkg = .entering then s2.enterS2 else s2
  else s

/- ---- what ends every meaning ---- -/

/-- The rest of a step: fuses burn, mailboxes answer, what waited for posted writes goes on, a requested device reset takes place
once no message between dies is in flight (R63; its records are written at once), and every command's readiness is brought up to
date. -/
def State.settle (s : State) : State :=
  let s1 := s.burnStep.mailStep.flushPosted
  match s1.resetWanted with
  | some w => if s1.fifosEmpty then ({ s1 with resetWanted := none }).deviceReset (w % 16) (w / 16) else s1.resetCmds
  | none => s1.refresh

/-- A step that answers a next state. -/
def done (s : State) : Ans := .next s.settle

/- ---- uncorrectable words of on-die SRAM (R489, R490, R492) ---- -/

/-- Count an uncorrectable word of SRAM at its die. -/
def State.countWord (s : State) (loc : Nat) : State :=
  s.modEccBlock (eccBase (locationDie loc)) fun e => { e with uncorr := sat64 (e.uncorr + 1), lastValid := true, last := loc }

/-- An uncorrectable word of the fatal class (R492): a device reset, or in HD0's configuration SRAM and firmware memory a host-die
failure. -/
def State.fatalSram (s : State) (loc : Nat) : State :=
  let s1 := (s.countWord loc).event (locationDie loc) 0x0103 (loc % 2 ^ 32) (loc / 2 ^ 32)
  if locKind loc = 9 ∧ locDie loc = 0xE then s1.hostDieFailure else s1.wantReset 3 (locDie loc) (locationDie loc)

/-- The environment of a step: errors strike and caches drop lines; true when a fatal error ends the step. -/
def State.enter (s : State) (e : Env) : Bool × State :=
  let s1 := s.environ e
  match e.fatal with
  | some loc => if locOk loc && locFatal loc then (true, s1.fatalSram loc) else (false, s1)
  | none => (false, s1)

/-- Run a step within its environment. A step one of whose reads overlaps a held write waits: it has no effect yet (R520). -/
def State.within (s : State) (e : Env) (k : State → State) : Ans :=
  match s.enter e with
  | (true, s1) => done s1
  | (false, s1) => let t := k s1; if t.stalled then done s1 else done t

/-- A line of a die cache holds an uncorrectable word (R489): it is discarded, to be filled again, and counted as corrected. The
word's OFFSET picks it among the die's lines (log entry 88). -/
def State.dropCached (s : State) (loc : Nat) : State :=
  let mine := s.dcache.filter fun c => c.1 / 2 ^ 36 == locationDie loc
  let key := mine[bits loc 22 0 / 16 % max 1 mine.length]?.map (·.1)
  { s with dcache := s.dcache.filter fun c => some c.1 != key }.modEccBlock (eccBase (locationDie loc)) fun e =>
    { e with corr := sat64 (e.corr + 1) }

/-- The ending of a command that reads an uncorrectable word of SRAM. -/
def sramEnding (loc : Nat) : Ending := { status := .eccUncorrectable, r0 := loc % 2 ^ 32, r1 := loc / 2 ^ 32 }

/-- An engine of a command reads a word of SRAM that the environment names (R489, R490, R493): an uncorrectable one outside the fatal
class makes `bad` of it, one of a die cache is served from memory. -/
def State.sramThen (s : State) (ctx : Nat) (sram : Option Nat) (bad : Ending → State → State) (k : State → State) : State :=
  match sram with
  | none => k s
  | some loc =>
    if !locOk loc then k s
    else if locFatal loc then s.fatalSram loc
    else if locKind loc = 4 then k (s.dropCached loc)
    else bad (sramEnding loc) ((s.countWord loc).event (locationDie loc) 0x0101 (loc % 2 ^ 32) (loc / 2 ^ 32 + ctx * 2 ^ 24))

/-- The same where the whole command fails. -/
def State.sramFail (s : State) (id : CmdId) (e : Env) (k : State → State) : State :=
  s.sramThen id.ctx e.sram (fun x t => t.fail id x) k

end Sys2Proof.Machine
end

