-- ==== Sys2Proof/Machine/Dma.lean ====
section
/-! DEFINITION. What every engine's work shares, and the DMA commands of class 0x03 (spec 07, R210 to R214; 06, R195, R196). -/

namespace Sys2Proof.Machine

/- ---- shared by the engines ---- -/

/-- A running command of a class and opcode whose every part has started. -/
def State.running (s : State) (id : CmdId) (cl op : Nat) : Option Cmd :=
  (s.cmd id).filter fun c => c.allStarted && c.ending.isNone && cls c.raw == cl && opc c.raw == op

/-- Go on with what a read brought; remote granules still missing are asked for, a failure ends the command. -/
def readThen {α : Type} (id : CmdId) (x : Except Fail (α × List Nat) × State) (k : α → State → State) : State :=
  match x with
  | (.error f, s) => s.fail id f.ending
  | (.ok (a, miss), s) => if miss = [] then k a s else s.fetch id miss

/-- Go on with planned writes. -/
def planThen {α : Type} (id : CmdId) (x : Except Fail α × State) (k : α → State → State) : State :=
  match x with
  | (.error f, s) => s.fail id f.ending
  | (.ok a, s) => k a s

/-- Consecutive pieces of n (all in one when n is 0); the fuel is the list's length. -/
def chunksAux {α : Type} (n : Nat) : Nat → List α → List (List α)
  | _, [] => []
  | 0, l => [l]
  | f + 1, l => l.take n :: chunksAux n f (l.drop n)
def chunks {α : Type} (n : Nat) (l : List α) : List (List α) := if n = 0 then (if l.isEmpty then [] else [l]) else chunksAux n l.length l

/-- Counts of converted elements (R175). -/
def clippedOf (l : List Conv) : Nat := l.countP (·.clipped)
def flushedOf (l : List Conv) : Nat := l.countP (·.flushed)

/-- The zeros of CG64 padding lanes of a destination (R201). -/
def Desc.padZeros (d : Desc) : List (List Nat × Nat) := d.rows.flatMap fun r => (d.padding r).map fun i => (i, 0)

/-- A row quantized in blocks of g (R195, R196): scales and elements. -/
def quantRow (f sf : Fmt) (inf : Bool) (g : Nat) (xs : List Fp) : List Scale × List Conv :=
  let bs := (chunks g xs).map fun b => let sc := deriveSym f sf b; (sc, b.map (scaleElem f inf sc))
  (bs.map (·.1), bs.flatMap (·.2))

/-- Elements of a row with index tuples. -/
def rowItems (rest : List Nat) (es : List Nat) : List (List Nat × Nat) := es.zipIdx.map fun x => (x.2 :: rest, x.1)

/- ---- the DMA commands ---- -/

/-- A DMA command's record (R213). -/
def dmaEnding (n : Nat) (cs : List Conv) (degenerate : Nat) : Ending :=
  { status := .ok, detail := sat32 n, r0 := sat32 (clippedOf cs), r1 := sat32 (flushedOf cs), r2 := sat32 degenerate }

/-- Store elements and padding through a destination, then complete. -/
def State.storeElems (s : State) (c : Cmd) (d : Desc) (items : List (List Nat × Nat)) (acc : List (Nat × Byte)) (k : List (Nat × Byte) → State → State) :
    State :=
  planThen c.id (s.planElems (c.eng (some (targetDie c.raw))) d (items ++ d.padZeros) acc) k

/-- COPY (R210, R211). -/
def State.copyCmd (s : State) (c : Cmd) : State :=
  let d := c.descD 0x08
  let src := c.descD 0x0A
  let idx := tuples d.size
  readThen c.id (s.readElems (c.eng (some (targetDie c.raw))) src idx) fun es s1 =>
    let cs := es.map fun e => if src.fmt = d.fmt then ⟨e, false, false⟩ else convert d.fmt (e5inf c.raw) (src.fmt.decode e)
    s1.storeElems c d (idx.zip (cs.map (·.enc))) [] fun ws s2 => s2.complete c.id (dmaEnding es.length cs 0) ws

/-- QUANTIZE (R212). -/
def State.quantizeCmd (s : State) (c : Cmd) : State :=
  let d := c.descD 0x08
  let src := c.descD 0x0A
  let sc := c.descD 0x0C
  readThen c.id (s.readElems (c.eng (some (targetDie c.raw))) src (tuples d.size)) fun es s1 =>
    let rows := d.rows.zip (chunks (d.dim 0) (es.map src.fmt.decode))
    let q := rows.map fun r => (r.1, quantRow d.fmt sc.fmt (e5inf c.raw) (groupOf (u8 c.raw 0x20)) r.2)
    let cs := q.flatMap fun r => r.2.2
    s1.storeElems c d (q.flatMap fun r => rowItems r.1 (r.2.2.map (·.enc))) [] fun ws s2 =>
      s2.storeElems c sc (q.flatMap fun r => rowItems r.1 (r.2.1.map (·.enc))) ws fun ws2 s3 =>
        s3.complete c.id (dmaEnding es.length cs ((q.map fun r => r.2.1.countP (·.degenerate)).foldl (· + ·) 0)) ws2

/-- DEQUANTIZE (R212): one exact product and one rounding. -/
def State.dequantizeCmd (s : State) (c : Cmd) : State :=
  let d := c.descD 0x08
  let src := c.descD 0x0A
  let sc := c.descD 0x0C
  let g := groupOf (u8 c.raw 0x20)
  let idx := tuples d.size
  readThen c.id (s.readElems (c.eng (some (targetDie c.raw))) src idx) fun es s1 =>
    readThen c.id (s1.readElems (c.eng (some (targetDie c.raw))) sc (idx.map fun i => (if g = 0 then 0 else i.headD 0 / g) :: i.drop 1)) fun ss s2 =>
      let cs := (es.zip ss).map fun x => convert d.fmt false ((src.fmt.decode x.1).mul (sc.fmt.decode x.2))
      s2.storeElems c d (idx.zip (cs.map (·.enc))) [] fun ws s3 => s3.complete c.id (dmaEnding es.length cs 0) ws

/-- Run a command's work within a step's environment; without such a running command the event has no effect. -/
def State.work (s : State) (id : CmdId) (cl op : Nat) (env : Env) (k : State → Cmd → State) : Ans :=
  match s.running id cl op with
  | none => .next s
  | some _ => s.within env fun s1 => match s1.running id cl op with
    | none => s1
    | some c => s1.sramFail id env fun s2 => k s2 c

def execCopy (id : CmdId) (env : Env) (s : State) : Ans := s.work id 3 1 env State.copyCmd
def execQuantize (id : CmdId) (env : Env) (s : State) : Ans := s.work id 3 2 env State.quantizeCmd
def execDequantize (id : CmdId) (env : Env) (s : State) : Ans := s.work id 3 3 env State.dequantizeCmd

end Sys2Proof.Machine
end

