-- ==== Sys2Proof/Machine/Softmax.lean ====
section
/-! DEFINITION. The special functions with the error bounds of R111, and the online soft maximum that the pipelines, the
docents and the merge units share (R242 to R250). -/

namespace Sys2Proof.Machine

/- ---- fixed-point references, 96 fraction bits ---- -/

def fixOne : Nat := 2 ^ 96
/-- ln 2 and log2 e. -/
def fixLn2 : Nat := 54916777467707473351141471128
def fixLog2e : Nat := 114302077158074026402637675936

/-- Terms of the series of e^t, from term number k on. -/
def expTerms (t : Nat) : Nat → Nat → Nat → Nat
  | 0, _, _ => 0
  | n + 1, k, term => term + expTerms t n (k + 1) (term * t / fixOne / (k + 1))

/-- 2^f for a fraction f. -/
def exp2Frac (f : Nat) : Nat := expTerms (f * fixLn2 / fixOne) 40 0 fixOne

/-- A value times 2^96, rounded down. -/
def fixOf (neg : Bool) (mag : Nat) (exp : Int) : Int :=
  let x := if 0 ≤ exp + 96 then mag * 2 ^ (exp + 96).toNat else mag / 2 ^ (-(exp + 96)).toNat
  if neg then -((x : Int) + (if exp + 96 < 0 then 1 else 0)) else x

/-- 2^x for x in 96 fraction bits. -/
def exp2Fix (x : Int) : Fp :=
  let n := x.ediv (fixOne : Int)
  let f := (x.emod (fixOne : Int)).toNat
  .fin false (exp2Frac f) (n - 96)

/-- Bits of log2 of m in [1, 2), by squaring. -/
def log2Bits : Nat → Nat → Nat → Nat
  | 0, _, acc => acc
  | n + 1, m, acc =>
    let q := m * m / fixOne
    if 2 * fixOne ≤ q then log2Bits n (q / 2) (2 * acc + 1) else log2Bits n q (2 * acc)

/-- log2 of a positive value, 64 fraction bits. -/
def log2Fix (mag : Nat) (exp : Int) : Fp :=
  let k := Nat.log2 mag
  let m := mag * fixOne / 2 ^ k
  let x : Int := ((k : Int) + exp) * 2 ^ 64 + (log2Bits 64 m 0 : Nat)
  .fin (decide (x < 0)) x.natAbs (-64)

/-- tanh of a value. -/
def tanhFix (neg : Bool) (mag : Nat) (exp : Int) : Fp :=
  let a := (fixOf false mag exp).toNat
  let u := if 40 * fixOne ≤ a then 0 else match exp2Fix (-((2 * a * fixLog2e / fixOne : Nat) : Int)) with
    | .fin _ m e => if 0 ≤ e + 96 then m * 2 ^ (e + 96).toNat else m / 2 ^ (-(e + 96)).toNat
    | _ => 0
  .fin neg ((fixOne - u) * fixOne / (fixOne + u)) (-96)

/- ---- a part's own result within the stated error ---- -/

/-- One unit in the last place at an exact value: the step between FP32 encodings of its binade (log entry 5). -/
def ulpOf : Fp → Fp
  | .fin _ m e => .fin false 1 (max (flog2 m e) (-126) - 23)
  | x => x

/-- A word with the sign of the rounded reference, within k ulp of the exact value; an infinity counts as 2^128. -/
def within (k : Nat) (x : Fp) (r w : W32) : Bool :=
  let v := match ofF32 w with
    | .inf n => Fp.fin n 1 128
    | y => y
  w.toNat / 2 ^ 31 == r.toNat / 2 ^ 31 && v.isFin && (v.sub x).abs.le ((ulpOf x).mul (.fin false k 0))

/-- A word whose value lies within 2^-k of an exact one. -/
def withinAbs (k : Nat) (x : Fp) (w : W32) : Bool :=
  (ofF32 w).isFin && ((ofF32 w).sub x).abs.le (.fin false 1 (-(k : Int)))

/-- The part's result where the bound admits it, else the rounded reference. -/
def chosen (ok : Bool) (ref part : W32) : W32 := if ok then part else ref

/-- exp2 (R111). -/
def sfuExp2 (w : W32) : W32 :=
  match ofF32 w with
  | .nan => f32nan
  | .inf n => if n then 0 else f32posInf
  | .fin n m e =>
    let x := Fp.fin n m e
    if (Fp.fin true 149 0).lt x && x.lt (.fin false 128 0) then
      let y := exp2Fix (fixOf n m e)
      chosen (within 2 y (toF32 y) (Config.exp2 w)) (toF32 y) (Config.exp2 w)
    else if n then (if x.eqv (.fin true 149 0) then 1 else 0) else f32posInf

/-- log2 (R111). -/
def sfuLog2 (w : W32) : W32 :=
  match ofF32 w with
  | .nan => f32nan
  | .inf n => if n then f32nan else f32posInf
  | .fin n m e =>
    if m = 0 then f32negInf
    else if n then f32nan
    else
      let x := log2Fix m e
      let r := toF32 x
      let near1 := (Fp.fin false 1 (-1)).le (.fin false m e) && (Fp.fin false m e).le (.fin false 2 0)
      chosen (if near1 then withinAbs 22 x (Config.log2 w) else within 2 x r (Config.log2 w)) r (Config.log2 w)

/-- Reciprocal (R111). -/
def sfuRcp (w : W32) : W32 :=
  match ofF32 w with
  | .nan => f32nan
  | .inf n => if n then 0x80000000 else 0
  | .fin n m e =>
    if m = 0 then (if n then f32negInf else f32posInf)
    else
      let y := Fp.one.div (.fin n m e)
      chosen (within 1 y (toF32 y) (Config.rcp w)) (toF32 y) (Config.rcp w)

/-- Reciprocal square root (R111). -/
def sfuRsqrt (w : W32) : W32 :=
  match ofF32 w with
  | .nan => f32nan
  | .inf n => if n then f32nan else 0
  | .fin n m e =>
    if m = 0 then (if n then f32negInf else f32posInf)
    else if n then f32nan
    else
      let y := Fp.one.div (Fp.sqrt (.fin n m e))
      chosen (within 1 y (toF32 y) (Config.rsqrt w)) (toF32 y) (Config.rsqrt w)

/-- tanh (R111). -/
def sfuTanh (w : W32) : W32 :=
  match ofF32 w with
  | .nan => f32nan
  | .inf n => if n then 0xBF800000 else f32one
  | .fin n m e =>
    if m = 0 then w
    else
      let x := tanhFix n m e
      let r := toF32 x
      chosen (within 2 x r (Config.tanh w) || withinAbs 24 x (Config.tanh w)) r (Config.tanh w)

/-- exp_f32 (R246). -/
def expF32 (x : W32) : W32 := if (ofF32 x).isZero then f32one else sfuExp2 (f32mul x 0x3FB8AA3B)

/- ---- scores (R242, R243, R245) ---- -/

/-- The exact dot product of two rows. -/
def dotFp : List Fp → List Fp → Fp
  | a :: r, b :: t => (a.mul b).add (dotFp r t)
  | _, _ => Fp.zero

def sumFp (l : List Fp) : Fp := l.foldl Fp.add Fp.zero

/-- 16-bit subnormal inputs of the arrays are zero (R177, R235). -/
def arrayValue (f : Fmt) (e : Nat) : Fp :=
  match f.decode e with
  | .fin n m x => if f.bits = 16 && (e >>> f.mbits) % 2 ^ f.ebits == 0 then .fin n 0 0 else .fin n m x
  | x => x

/-- The entry of the bias table for a distance (R245). -/
def bucket (a : Nat) : Nat :=
  if a < 32 then a else
    let e := Nat.log2 a
    32 + 4 * (e - 5) + (a >>> (e - 2)) % 4

/-- round_f32(dot * SM_SCALE + bias). -/
def score (dot : Fp) (scale : W32) (bias : Fp) : W32 := toF32 ((dot.mul (ofF32 scale)).add bias)

/- ---- the running state (R247, R248) ---- -/

/-- Row state (m, l, o). -/
structure Row where
  m : W32 := f32negInf
  l : W32 := 0
  o : List W32
deriving DecidableEq, Repr

def isNan32 (w : W32) : Bool := (ofF32 w).isNan
def maxF32 (a b : W32) : W32 := if (ofF32 a).lt (ofF32 b) then b else a

/-- A state that ended NaN. -/
def Row.nan (n : Nat) : Row := ⟨f32nan, f32nan, List.replicate n f32nan⟩

/-- update of R247: scores of a block, rows of v as exact values, round_P and sigma of the unit. -/
def Row.update (r : Row) (s : List W32) (v : List (List Fp)) (roundP : Fp → Fp) (sigma : Fp) : Row :=
  if isNan32 r.m then r
  else if s.any fun x => isNan32 x || x == f32posInf then Row.nan r.o.length
  else
    let bm := s.foldl maxF32 f32negInf
    if bm = f32negInf then r
    else
      let up := (ofF32 r.m).lt (ofF32 bm)
      let a := expF32 (f32sub r.m bm)
      let l1 := if up then f32mul r.l a else r.l
      let o1 := if up then r.o.map fun x => f32mul x a else r.o
      let m1 := if up then bm else r.m
      let p := s.map fun x => expF32 (f32sub x m1)
      let l2 := f32add l1 (toF32 (sumFp (p.map ofF32)))
      let pr := p.map fun x => roundP ((ofF32 x).mul sigma)
      let term (c : Nat) : Fp := sumFp ((pr.zip v).map fun x => if x.1.isZero then Fp.zero else x.1.mul (x.2.getD c Fp.zero))
      { m := m1, l := l2, o := o1.zipIdx.map fun x => f32add x.1 (toF32 ((term x.2).div sigma)) }

/-- merge of R248. -/
def Row.merge (a b : Row) : Row :=
  if isNan32 a.m || isNan32 b.m || a.m == f32posInf || b.m == f32posInf then Row.nan a.o.length
  else
    let sw := (ofF32 a.m).lt (ofF32 b.m)
    let x := if sw then b else a
    let y := if sw then a else b
    if y.m = f32negInf then x
    else
      let f := expF32 (f32sub y.m x.m)
      { m := x.m, l := f32add x.l (f32mul y.l f), o := (x.o.zip y.o).map fun z => f32add z.1 (f32mul z.2 f) }

/-- The written row (R250): encodings, and how many clipped. -/
def Row.out (r : Row) (f : Fmt) (isPartial : Bool) (vscale : W32) : List Nat × Nat :=
  let cs := r.o.map fun x =>
    if isPartial then convert .fp32 false ((ofF32 x).mul (ofF32 vscale))
    else if isNan32 r.m then convert f false .nan
    else if (ofF32 r.l).isZero then convert f false Fp.zero
    else convert f false (((ofF32 x).mul (ofF32 (sfuRcp r.l))).mul (ofF32 vscale))
  (cs.map (·.enc), cs.countP (·.clipped))

end Sys2Proof.Machine
end

