-- ==== Sys2Proof/Machine/TessNum.lean ====
section
/-! DEFINITION. What a tessera's units compute (spec 05, 06, 08): vector lanes (R143 to R146, R112), one streamed row of a pass
(R177 to R182, R216 to R223), and a drained element (R184 to R188). -/

namespace Sys2Proof.Machine

/- ---- instruction words (R136, R138) ---- -/

/-- Bits [hi:lo] of a word. -/
def field (w : W128) (hi lo : Nat) : Nat := bits w.toNat hi lo
/-- A signed field. -/
def sfield (w : W128) (hi lo : Nat) : Int := toSigned (hi + 1 - lo) (field w hi lo)
def flagAt (w : W128) (n : Nat) : Bool := field w n n == 1
def opcode (w : W128) : Nat := field w 7 0
/-- No bit outside the opcode and the given fields is set (R136). -/
def clean (w : W128) (fs : List (Nat × Nat)) : Bool :=
  w.toNat == (fs.map fun f => field w f.1 f.2 * 2 ^ f.2).foldl (· + ·) (opcode w)
/-- The 32-bit immediate of formats C and S. -/
def immOf (w : W128) : W32 := BitVec.ofNat 32 (field w 95 64)

/- ---- scalar operations (R142) ---- -/

/-- SALU and AALU by FUNC. -/
def scalarOp (f : Nat) (a b : W32) : W32 :=
  let sh := b.toNat % 32
  match f with
  | 0x0 => a + b
  | 0x1 => a - b
  | 0x2 => a &&& b
  | 0x3 => a ||| b
  | 0x4 => a ^^^ b
  | 0x5 => a <<< sh
  | 0x6 => a >>> sh
  | 0x7 => a.sshiftRight sh
  | 0x8 => b
  | 0x9 => if a.toInt < b.toInt then 1 else 0
  | 0xA => if a.toNat < b.toNat then 1 else 0
  | _ => a * b

/-- SMUL by FUNC: low, high signed, high unsigned. -/
def mulOp (f : Nat) (a b : W32) : W32 :=
  match f with
  | 0 => a * b
  | 1 => BitVec.ofInt 32 (a.toInt * b.toInt / 4294967296)
  | _ => BitVec.ofNat 32 (a.toNat * b.toNat / 4294967296)

/-- The condition of BR (R141). -/
def branchCond (c : Nat) (a b : W32) : Bool :=
  match c with
  | 0 => true
  | 1 => a == b
  | 2 => a != b
  | 3 => decide (a.toInt < b.toInt)
  | 4 => decide (b.toInt ≤ a.toInt)
  | 5 => decide (a.toNat < b.toNat)
  | _ => decide (b.toNat ≤ a.toNat)

/- ---- vector lanes (R143) ---- -/

/-- VINT by FUNC. -/
def vintLane (f : Nat) (a b : W32) : W32 :=
  if f < 8 then scalarOp f a b else
  match f with
  | 8 => if b.toInt < a.toInt then b else a
  | 9 => if a.toInt < b.toInt then b else a
  | 0xA => if b.toNat < a.toNat then b else a
  | _ => if a.toNat < b.toNat then b else a

/-- MIN and MAX of the vector unit: -0 below +0, NaN if either is (R143). -/
def laneMax (a b : Fp) : Fp :=
  if a.isNan || b.isNan then .nan else if a.lt b then b else if b.lt a then a else if a.sign then b else a
def laneMin (a b : Fp) : Fp :=
  if a.isNan || b.isNan then .nan else if a.lt b then a else if b.lt a then b else if a.sign then a else b

/-- VFP by FUNC on exact values. -/
def vfpValue (f : Nat) (a b c : Fp) : Fp :=
  match f with
  | 0 => a.add b
  | 1 => a.sub b
  | 2 => a.mul b
  | 3 => (a.mul b).add c
  | 4 => laneMin a b
  | 5 => laneMax a b
  | 6 => a.abs
  | _ => a.neg

/-- The floating compares of VCMP. -/
def fcmp (f : Nat) (a b : Fp) : Bool :=
  match f with
  | 0 => a.eqv b
  | 1 => a.lt b
  | 2 => a.le b
  | _ => a.isNan || b.isNan

/-- The integer compares of VCMP. -/
def icmp (f : Nat) (a b : W32) : Bool :=
  match f with
  | 4 => a == b
  | 5 => decide (a.toInt < b.toInt)
  | 6 => decide (a.toInt ≤ b.toInt)
  | 7 => decide (a.toNat < b.toNat)
  | _ => decide (a.toNat ≤ b.toNat)

/-- The two BF16 lanes of a 32-bit lane. -/
def lowHalf (w : W32) : Nat := w.toNat % 65536
def highHalf (w : W32) : Nat := w.toNat / 65536
def halves (lo hi : Nat) : W32 := BitVec.ofNat 32 (lo + 65536 * hi)

def vfpLane (bf : Bool) (f : Nat) (a b c : W32) : W32 :=
  if bf then
    let one (x y z : Nat) : Nat := (convert .bf16 false (vfpValue f (Fmt.bf16.decode x) (Fmt.bf16.decode y) (Fmt.bf16.decode z))).enc
    halves (one (lowHalf a) (lowHalf b) (lowHalf c)) (one (highHalf a) (highHalf b) (highHalf c))
  else toF32 (vfpValue f (ofF32 a) (ofF32 b) (ofF32 c))

def vcmpLane (bf : Bool) (f : Nat) (a b : W32) : W32 :=
  if bf then
    let one (x y : Nat) : Nat := if fcmp f (Fmt.bf16.decode x) (Fmt.bf16.decode y) then 0xFFFF else 0
    halves (one (lowHalf a) (lowHalf b)) (one (highHalf a) (highHalf b))
  else if f < 4 then (if fcmp f (ofF32 a) (ofF32 b) then 0xFFFFFFFF else 0)
  else if icmp f a b then 0xFFFFFFFF else 0

/-- Parts of a register for a format (R145). -/
def partsOf (f : Fmt) : Nat := 8 / f.nibbles
/-- One lane of VCVT. -/
def vcvtLane (fa fd : Fmt) (pa pd : Nat) (a d : W32) : W32 :=
  let wa := 4 * fa.nibbles
  let wd := 4 * fd.nibbles
  let e := (convert fd false (fa.decode (a.toNat / 2 ^ (wa * pa) % 2 ^ fa.bits))).enc
  let old := d.toNat / 2 ^ (wd * pd) % 2 ^ wd
  BitVec.ofNat 32 (d.toNat - old * 2 ^ (wd * pd) + e * 2 ^ (wd * pd))

/-- One step of VRED (R144). -/
def vredOp (f : Nat) (a b : W32) : W32 :=
  match f with
  | 0 => f32add a b
  | 1 => toF32 (laneMax (ofF32 a) (ofF32 b))
  | 2 => toF32 (laneMin (ofF32 a) (ofF32 b))
  | 3 => a + b
  | 4 => if a.toInt < b.toInt then b else a
  | _ => if b.toInt < a.toInt then b else a
/-- The pairwise tree of R144: n steps over 2^n lanes. -/
def vredTree (f : Nat) : Nat → List W32 → W32
  | 0, l => l.headD 0
  | n + 1, l => vredTree f n (List.zipWith (vredOp f) (l.take (2 ^ n)) (l.drop (2 ^ n)))

/-- VSFU by FUNC (R111). -/
def vsfuLane (f : Nat) (a : W32) : W32 :=
  match f with
  | 0 => sfuExp2 a
  | 1 => sfuLog2 a
  | 2 => sfuRcp a
  | 3 => sfuRsqrt a
  | _ => sfuTanh a

/-- Candidate a ranks above b in TOPK (R112). -/
def topkAbove (a b : W32 × W32) : Bool :=
  let x := ofF32 a.1
  let y := ofF32 b.1
  if x.isNan then y.isNan && decide (a.2.toNat < b.2.toNat)
  else y.isNan || y.lt x || (x.eqv y && decide (a.2.toNat < b.2.toNat))
/-- Put a candidate in its place. -/
def topkInsert (a : W32 × W32) : List (W32 × W32) → List (W32 × W32)
  | [] => [a]
  | b :: r => if topkAbove a b then a :: b :: r else b :: topkInsert a r
/-- The k largest with their indices, padded to 256 lanes; a selected NaN is canonical (R172). -/
def topkOf (k : Nat) (cands : List (W32 × W32)) : List W32 × List W32 :=
  let best := (cands.foldl (fun l c => (topkInsert c l).take k) []).map fun c => (if isNan32 c.1 then f32nan else c.1, c.2)
  (best.map (·.1) ++ List.replicate (256 - best.length) f32negInf, best.map (·.2) ++ List.replicate (256 - best.length) 0xFFFFFFFF)

/- ---- operand pairs (R101, R102, R179) ---- -/

def isF8 (f : Fmt) : Bool := [Fmt.e5m2, .e4m3, .e3m2, .e2m3].contains f
def isI8 (f : Fmt) : Bool := f == .int8 || f == .uint8
def isI4 (f : Fmt) : Bool := f == .int4 || f == .uint4

/-- Dense K and cycles per row of a pair; none where R101 lists none. -/
def pairOf (sf tf : Fmt) : Option (Nat × Nat) :=
  if isF8 sf && (isF8 tf || tf == .e2m1) then some (64, 1)
  else if sf == .e2m1 && isF8 tf then some (64, 1)
  else if sf == .e2m1 && tf == .e2m1 then some (128, 1)
  else if isI8 sf && (isI8 tf || isI4 tf) then some (64, 1)
  else if isI4 sf && isI8 tf then some (64, 1)
  else if isI4 sf && isI4 tf then some (128, 1)
  else if (sf == .bf16 || sf == .fp16) && (tf == sf || tf == .e5m2 || tf == .e4m3) then some (64, 4)
  else none

/-- K of a tile (R149). -/
def tileK (f : Fmt) (sparse : Nat) : Nat := (if f.nibbles = 1 then 128 else 64) * (if sparse = 0 then 1 else 2)
/-- Stored rows of a tile. -/
def tileRows (f : Fmt) : Nat := if f.nibbles = 1 then 128 else 64
def tileBytes (f : Fmt) : Nat := tileRows f * 64 * f.nibbles / 2
def metaBytes (f : Fmt) (sparse : Nat) : Nat := if sparse = 0 then 0 else 16 * tileRows f
/-- G of a group field. -/
def groupSize (g : Nat) : Nat := 16 * 2 ^ g
/-- Segments of a scale block over K (R180). DESIGN CHOICE: where G does not divide K the last, shorter group has a scale too (log
entry 95). -/
def scaleSegs (f : Fmt) (g k : Nat) : Nat := if g = 0 then 0 else if f.isInt then 1 else 1 + ceilDiv k (groupSize g)

/-- The group field of one operand is allowed (R179). -/
def groupOk (f : Fmt) (wide : Bool) (g k : Nat) : Bool :=
  g == 0 || (if f.isInt then g == 1 else !(wide && f.bits == 16) && k % groupSize g == 0)

/-- The shape of a pass: K, cycles per row and G; none where R152 halts it. -/
def passShape (sf tf : Fmt) (sparse sg tg : Nat) : Option (Nat × Nat × Nat) :=
  match pairOf sf tf with
  | none => none
  | some (k0, per) =>
    if sparse ≠ 0 ∧ per = 4 then none else
    let k := if sparse = 0 then k0 else 2 * k0
    let wide := per == 4
    if !groupOk sf wide sg k || !groupOk tf wide tg k then none
    else if sf.isInt then some (k, per, k)
    else if sg ≠ 0 ∧ tg ≠ 0 ∧ sg ≠ tg then none
    else some (k, per, if sg = 0 ∧ tg = 0 then k else groupSize (max sg tg))

/-- A scale-block header breaks R180 or R221. -/
def headerBad (f : Fmt) (g : Nat) (sparseTile : Bool) (b : List Byte) : Bool :=
  let b0 := u8' b 0
  let b1 := u8' b 1
  if f.isInt then b0 != 0 || (f.nibbles == 1 && b1 / 16 != 0) || (sparseTile && b1 != 0)
  else !(b0 == 0x0E || b0 == 0x0F) || b1 != 0 || (b0 == 0x0F && g == 3)
where
  u8' (b : List Byte) (i : Nat) : Nat := (b.getD i 0).toNat

/-- A 2-bit metadata field (R218). -/
def metaField (m : List Byte) (row col : Nat) : Nat := (m.getD (16 * row + col / 4) 0).toNat / 4 ^ (col % 4) % 4
/-- A 4:8 group mask. -/
def groupMask (m : List Byte) (g col : Nat) : Nat :=
  metaField m (4 * g) col + 4 * metaField m (4 * g + 1) col + 16 * metaField m (4 * g + 2) col + 64 * metaField m (4 * g + 3) col
/-- Set bits of a number below bit n. -/
def popBelow (x n : Nat) : Nat := (List.range n).countP fun i => bit x i
/-- One metadata segment, four kept rows, fails R219. -/
def metaBad (sparse : Nat) (seg : List Byte) : Bool :=
  (List.range 64).any fun j =>
    if sparse = 1 then (List.range 2).any fun g => !decide (metaField seg (2 * g) j < metaField seg (2 * g + 1) j)
    else popBelow (groupMask seg 0 j) 8 != 4

/-- The stored row of logical row k in column j; none where it is pruned (R218). -/
def keptRow (sparse : Nat) (m : List Byte) (k j : Nat) : Option Nat :=
  match sparse with
  | 0 => some k
  | 1 =>
    let g := k / 4
    if metaField m (2 * g) j = k % 4 then some (2 * g) else if metaField m (2 * g + 1) j = k % 4 then some (2 * g + 1) else none
  | _ =>
    let mask := groupMask m (k / 8) j
    if bit mask (k % 8) then some (4 * (k / 8) + popBelow mask (k % 8)) else none

/-- The zero point of an integer operand (R178, R180). -/
def zeroPoint (f : Fmt) (g : Nat) (block : List Byte) : Fp :=
  if f.isInt && g != 0 then f.decode ((block.getD 1 0).toNat % 2 ^ f.bits) else Fp.zero

/-- The value an array cell multiplies (R177, R178). -/
def cellValue (f : Fmt) (zp : Fp) (e : Nat) : Fp := if f.isInt then (f.decode e).sub zp else arrayValue f e

/-- The scale of group g for position j (R180). -/
def scaleAt (f : Fmt) (gf : Nat) (block : List Byte) (g j : Nat) : Fp :=
  if gf = 0 || f.isInt then .one
  else (Fmt.ofCode (block.getD 0 0).toNat).decode (block.getD (64 * (1 + g) + j) 0).toNat

/-- One operand side of a pass. -/
structure Side where
  fmt : Fmt
  gf : Nat
  block : List Byte
deriving DecidableEq, Repr

/-- The values of a stationary column over logical rows 0 to k - 1 (R149, R216, R217). -/
def columnOf (b : Side) (sparse : Nat) (data mdata : List Byte) (k j : Nat) : List Fp :=
  let zp := zeroPoint b.fmt b.gf b.block
  (List.range k).map fun r => match keptRow sparse mdata r j with
    | some q => cellValue b.fmt zp (elemAt b.fmt data ((64 * q + j) * b.fmt.nibbles))
    | none => Fp.zero

/-- Which 64-element groups of a streamed row are zero (R222). -/
def zeroGroups (row : List Fp) : List Bool := (List.range (ceilDiv row.length 64)).map fun g => ((row.drop (64 * g)).take 64).all Fp.isZero

/-- One output element of a pass (R182, R223). `g` is the group size, `sa` and `sb` the scales by group. -/
def passElem (int clear : Bool) (g : Nat) (a b : List Fp) (zero : List Bool) (sa sb : Nat → Fp) (old : W32) : W32 :=
  (List.range (ceilDiv a.length g)).foldl (fun acc n =>
    let ks := ((List.range g).map (· + n * g)).filter fun k => !(zero.getD (k / 64) true)
    let start : W32 := if clear && n == 0 then 0 else acc
    if ks = [] then start
    else
      let s := ks.foldl (fun t k => t.add ((a.getD k Fp.zero).mul (b.getD k Fp.zero))) Fp.zero
      if int then start + (match s with
        | .fin neg mag e => BitVec.ofInt 32 (signedMag neg (mag * 2 ^ e.toNat))
        | _ => 0)
      else f32add start (toF32 ((s.mul (sa n)).mul (sb n)))) old

/- ---- DRAIN (R184 to R189) ---- -/

/-- The combinations of R184. -/
def drainOk (accInt : Bool) (mode : Nat) (f : Fmt) : Bool :=
  match mode with
  | 0 => true
  | 1 => !f.isScale
  | _ => if accInt then f.isInt && f != .int32 else !f.isScale && f != .fp32 && f != .int32

/-- A parameter block as read: bytes by offset. -/
abbrev Params := Nat → Byte
def pU (p : Params) (o n : Nat) : Nat := ofLe ((List.range n).map fun i => p (o + i))
def pColumns (p : Params) : Bool := bit (pU p 0 1) 0
def pGuard (p : Params) : Bool := bit (pU p 0 1) 1
def pHist (p : Params) : Bool := bit (pU p 0 1) 2
def pInf (p : Params) : Bool := bit (pU p 0 1) 3
/-- Multiplier word, shift and zero point of a column. -/
def pMult (p : Params) (j : Nat) : Nat := if pColumns p then pU p (0x80 + 4 * j) 4 else pU p 4 4
def pShift (p : Params) (j : Nat) : Nat := (if pColumns p then pU p (0x180 + j) 1 else pU p 1 1) % 64
def pZp (p : Params) (f : Fmt) (j : Nat) : Int :=
  (satInt f (toSigned 16 (if pColumns p then pU p (0x1C0 + 2 * j) 2 else pU p 2 2))).1

/-- The Q31 path (R187). -/
def requantQ31 (f : Fmt) (acc mult : Int) (shift : Nat) (zp : Int) : Conv :=
  let u := acc * mult + (if shift = 0 then 0 else 2 ^ (shift - 1))
  let q := u.fdiv (2 ^ shift : Nat)
  let v := satInt f (q + zp)
  ⟨ofSigned f.bits v.1, v.2, decide (acc ≠ 0) && q == 0 && !v.2⟩

/-- The FP32 path (R188). -/
def requantFp (f : Fmt) (inf : Bool) (acc m : Fp) (zp : Int) : Conv :=
  let x := acc.mul m
  let live := acc.isFin && !acc.isZero
  if f.isInt then
    match x with
    | .nan => ⟨ofSigned f.bits zp, true, false⟩
    | .inf neg => ⟨ofSigned f.bits (if neg then f.qmin else f.qmax), true, false⟩
    | .fin neg mag e =>
      let v := satInt f (Fp.rint neg mag e + zp)
      ⟨ofSigned f.bits v.1, v.2, live && !v.2 && v.1 == zp⟩
  else
    let c := convert f inf x
    { c with flushed := live && !c.clipped && c.enc % 2 ^ (f.mbits + f.ebits) == 0 }

/-- The Q31 pair of a factor (R191): MULT and SHIFT. -/
def q31Pair : Fp → Nat × Int
  | .fin _ mag e =>
    if mag = 0 then (0, 0)
    else
      let sh := 30 - flog2 mag e
      let n := roundShift .even mag (e + sh)
      if n = 2 ^ 31 then (2 ^ 30, sh - 1) else (n, sh)
  | _ => (0, 0)

/-- One element of a DRAIN; `factor` replaces the multiplier of a guarded drain in a rerun (R191). -/
def drainElem (p : Params) (accInt : Bool) (mode : Nat) (f : Fmt) (factor : Option Fp) (j : Nat) (w : W32) : Conv :=
  let guarded := pGuard p
  match mode with
  | 0 => ⟨w.toNat, false, false⟩
  | 1 => convert f (pInf p) (if accInt then Fp.ofInt w.toInt else ofF32 w)
  | _ =>
    if accInt then
      match (if guarded then factor else none) with
      | some m => let q := q31Pair m; requantQ31 f w.toInt (toSigned 32 q.1) q.2.toNat (pZp p f j)
      | none => requantQ31 f w.toInt (toSigned 32 (pMult p j)) (pShift p j) (pZp p f j)
    else
      let m := match (if guarded then factor else none) with
        | some m => ofF32 (toF32 m)
        | none => ofF32 (BitVec.ofNat 32 (pMult p j))
      requantFp f (pInf p) (ofF32 w) m (pZp p f j)

/- ---- the scale guard (R190, R191) ---- -/

/-- n of a threshold code; code 7 is the smallest threshold. -/
def gtRank : Nat → Nat
  | 0 => 10 | 1 => 8 | 2 => 6 | 3 => 4 | 4 => 12 | 5 => 14 | 6 => 16 | _ => 100
def gtMin (a : Option Nat) (b : Nat) : Nat :=
  match a with
  | some x => if gtRank x < gtRank b then b else x
  | none => b

def optMin (a : Option Fp) (b : Fp) : Fp := match a with
  | some x => Fp.min x b
  | none => b
def optMax (a : Option Fp) (b : Fp) : Fp := match a with
  | some x => Fp.max x b
  | none => b

/-- The headrooms of a guarded drain over its columns. -/
def headrooms (p : Params) (f : Fmt) : List (Fp × Fp) :=
  (List.range 64).map fun j =>
    if f.isInt then (Fp.ofInt (f.qmax - pZp p f j), Fp.ofInt (pZp p f j - f.qmin)) else (f.fmax, f.fmax)

/-- The totals of a guarded DRAIN are added. -/
def Guard.add (g : Guard) (p : Params) (accInt : Bool) (f : Fmt) (rows : List (List W32)) (cs : List Conv) : Guard :=
  let vs := rows.flatten.map fun w => if accInt then Fp.ofInt w.toInt else ofF32 w
  let fin := vs.filter Fp.isFin
  { gt := some (gtMin g.gt (pU p 8 1 % 8)), c := g.c + cs.countP (·.clipped), t := g.t + cs.length
    hi := fin.foldl (fun a x => some (optMax a x)) g.hi, lo := fin.foldl (fun a x => some (optMin a x)) g.lo
    nonfinite := g.nonfinite || vs.any (fun x => !x.isFin)
    hpos := (headrooms p f).foldl (fun a x => some (optMin a x.1)) g.hpos
    hneg := (headrooms p f).foldl (fun a x => some (optMin a x.2)) g.hneg }

/-- The share of clipped elements exceeds the threshold (R191). -/
def Guard.exceeds (g : Guard) : Bool :=
  match g.gt with
  | none => false
  | some 7 => decide (0 < g.c)
  | some n => decide (g.t < g.c * 2 ^ gtRank n)

/-- The new factor m (R191); 0 where a guarded value is not finite. -/
def Guard.newFactor (g : Guard) : Fp :=
  let part (h : Option Fp) (v : Option Fp) (neg : Bool) : Option Fp :=
    match h, v with
    | some h, some v =>
      let x := if neg then v.neg else v
      if Fp.zero.lt x then some ((h.mul (.fin false 7 (-3))).div x) else none
    | _, _ => none
  if g.nonfinite then Fp.zero
  else match part g.hpos g.hi false, part g.hneg g.lo true with
    | some a, some b => Fp.min a b
    | some a, none => a
    | none, some b => b
    | none, none => Fp.zero

end Sys2Proof.Machine
end

