-- ==== Sys2Proof/Machine/Tessera.lean ====
section
/-! DEFINITION. A tessera cycle by cycle (spec 04, 05): its scratchpad ports, its units with the jobs they have in progress, its data
queues. -/

namespace Sys2Proof.Machine

/- ---- contents ---- -/

def segZero : List Byte := List.replicate 64 0
def rowZero : List W32 := List.replicate 64 0
def vecZero : List W32 := List.replicate 256 0

def Tess.seg (t : Tess) (n : Nat) : List Byte := Assoc.get segZero t.spad n
def Tess.setSeg (t : Tess) (n : Nat) (b : List Byte) : Tess := { t with spad := Assoc.set segZero t.spad n b }
def Tess.vr (t : Tess) (r : Nat) : List W32 := Assoc.get vecZero t.v r
def Tess.setV (t : Tess) (r : Nat) (x : List W32) : Tess := { t with v := Assoc.set vecZero t.v r x }
def Tess.sr (t : Tess) (r : Nat) : W32 := Assoc.get 0 t.sreg r
def Tess.setS (t : Tess) (r : Nat) (x : W32) : Tess := { t with sreg := Assoc.set 0 t.sreg r x }
def Tess.ar (t : Tess) (r : Nat) : W32 := Assoc.get 0 t.areg r
def Tess.setA (t : Tess) (r : Nat) (x : W32) : Tess := { t with areg := Assoc.set 0 t.areg r x }
def Tess.accRow (t : Tess) (bank row : Nat) : List W32 := Assoc.get rowZero t.acc (64 * bank + row)
def Tess.setAccRow (t : Tess) (bank row : Nat) (x : List W32) : Tess := { t with acc := Assoc.set rowZero t.acc (64 * bank + row) x }
/-- A bank accumulates INT32 (R152, R184); a bank without a pass in the item is FP32. -/
def Tess.bankInt (t : Tess) (bank : Nat) : Bool := (Assoc.get none (t.accInt.map fun x => (x.1, some x.2)) bank).getD false
def Tess.bankUsed (t : Tess) (bank : Nat) : Bool := t.accInt.any fun x => x.1 == bank
def Tess.tile (t : Tess) (n : Nat) : Tile := if n = 0 then t.tile0 else t.tile1
def Tess.setTile (t : Tess) (n : Nat) (x : Tile) : Tess := if n = 0 then { t with tile0 := x } else { t with tile1 := x }
def Tess.queueOf (t : Tess) (q : Nat) : List QEntry := Assoc.get [] t.queues q
def Tess.setQueue (t : Tess) (q : Nat) (l : List QEntry) : Tess := { t with queues := Assoc.set [] t.queues q l }
/-- Queue q is outbound: the X-stream pushes (R125, R133). -/
def Tess.outbound (t : Tess) (q : Nat) : Bool := bit t.qdir q

/-- Pending bits (R120): V registers are keys 0 to 31, S registers 32 to 63. -/
def Tess.pending (t : Tess) (c k : Nat) : Bool := t.vPend.contains k || decide (c < Assoc.get 0 t.ready k)
def Tess.readable (t : Tess) (k c : Nat) : Tess := { t with ready := Assoc.set 0 t.ready k c }
def Tess.aReadable (t : Tess) (r : Nat) : Nat := Assoc.get 0 t.aReady r

/-- The word of a stream at a PC; words beyond the stream's length are zero (R135). -/
def Tess.word (t : Tess) (x : Bool) (pc : Nat) : W128 := Assoc.get 0 (if x then t.ximem else t.aimem) pc

/-- A running item seen from inside: the tessera, its die's counters, the command's guard and rerun factor, a deferred halt
condition with its PC (R150, R180), the segments that the X port wrote in the current cycle, and whether a remote STORE of the
tessera is not acknowledged. -/
structure Sim where
  t : Tess
  d : Die
  g : Guard
  factor : Option Fp
  bad : Option (Nat × Nat) := none
  wrote : List Nat := []
  unacked : Bool := false
deriving DecidableEq, Repr

def Sim.mod (m : Sim) (f : Tess → Tess) : Sim := { m with t := f m.t }
def Sim.defer (m : Sim) (reason pc : Nat) : Sim := match m.bad with
  | some _ => m
  | none => { m with bad := some (reason, pc) }

/- ---- scratchpad ports (R113, R115) ---- -/

/-- Of presented segments those served, those left, and the banks then taken. -/
def serve {α : Type} (seg : α → Nat) : List Nat → List α → List α × List α × List Nat
  | taken, [] => ([], [], taken)
  | taken, a :: r =>
    if taken.contains (seg a % 32) then let x := serve seg taken r; (x.1, a :: x.2.1, x.2.2)
    else let x := serve seg (seg a % 32 :: taken) r; (a :: x.1, x.2.1, x.2.2)

/-- A unit presents its next 32 unserved segments. -/
def servePort {α : Type} (seg : α → Nat) (taken : List Nat) (l : List α) : List α × List α × List Nat :=
  let x := serve seg taken (l.take 32)
  (x.1, x.2.1 ++ l.drop 32, x.2.2)

/-- A write of segments landed in a cycle: the queue entries that waited for its job become visible (R127). -/
def Tess.landed (t : Tess) (id c : Nat) : Tess :=
  { t with queues := t.queues.map fun (q : Nat × List QEntry) => (q.1, q.2.map fun (e : QEntry) =>
      if e.waits.contains id then
        let w := e.waits.filter (· != id)
        { e with waits := w, visible := if w.isEmpty then max c e.visible else e.visible }
      else e) }

/-- The bytes of job segments 0 to n - 1. -/
def jobBytes (j : Job) (n : Nat) : List Byte := (List.range n).flatMap fun i => Assoc.get [] j.got i

/-- Words of bytes, lowest first. -/
def wordsOf (bs : List Byte) : List W32 := (chunks 4 bs).map fun b => BitVec.ofNat 32 (ofLe b)
def wordBytes (ws : List W32) : List Byte := ws.flatMap fun w => leBytes w.toNat 4

/-- One cycle of a job: reads first, then the writes whose cycle has come, in operand order. Answers what it served: bytes read
by index, or written by segment. -/
def Job.cycle (j : Job) (t : Tess) (c : Nat) (taken : List Nat) : Job × List (Nat × List Byte) × Tess × List Nat :=
  if c < j.start then (j, [], t, taken)
  else if j.reads ≠ [] then
    let x := servePort (fun (r : Nat × Nat) => r.2) taken j.reads
    let got := x.1.map fun (r : Nat × Nat) => (r.1, t.seg r.2)
    ({ j with reads := x.2.1, got := j.got ++ got }, got, t, x.2.2)
  else
    let now := j.writes.takeWhile fun (w : Nat × Nat × List Byte) => decide (w.1 ≤ c)
    let x := servePort (fun (w : Nat × Nat × List Byte) => w.2.1) taken now
    ({ j with writes := x.2.1 ++ j.writes.drop now.length }, x.1.map (·.2), x.1.foldl (fun (u : Tess) w => u.setSeg w.2.1 w.2.2) t, x.2.2)

/- ---- the matrix streamer (R105, R106, R181, R182) ---- -/

/-- Segments of streamed row r. -/
def Pass.rowSegs (p : Pass) (r : Nat) : List Nat :=
  (List.range (ceilDiv (p.k * p.sfmt.nibbles / 2) 64)).map fun i => (((p.saddr : Int) + r * p.sstride) / 64).toNat + i
/-- Segments of the streamed scale block. -/
def Pass.scaleSegs (p : Pass) (sg : Nat) : List Nat :=
  match p.sscale with
  | some a => (List.range (Machine.scaleSegs p.sfmt sg p.k)).map (· + a / 64)
  | none => []

/-- The group field of a pass's streamed operand, kept as its G when it has a scale block. -/
def Pass.sg (p : Pass) : Nat := match p.sscale with
  | some _ => if p.sfmt.isInt then 1 else Nat.log2 p.g - 4
  | none => 0

/-- Streamed row r is read, multiplied and added (R182, R223), and its groups are counted (R231). -/
def Sim.passRow (m : Sim) (p : Pass) : Sim :=
  let t := m.t
  let tl := t.tile p.tile
  let bytes := (p.rowSegs p.next).flatMap t.seg
  let a : Side := ⟨p.sfmt, p.sg, p.scales⟩
  let b : Side := ⟨tl.fmt, tl.tg, tl.scale⟩
  let zp := zeroPoint a.fmt a.gf a.block
  let row := (unpackElems p.sfmt bytes p.k).map (cellValue p.sfmt zp)
  let zero := zeroGroups row
  let old := t.accRow p.bank (p.row + p.next)
  let new := old.zipIdx.map fun x =>
    passElem p.sfmt.isInt p.clear p.g row (columnOf b tl.sparse tl.data tl.mdata p.k x.2) zero
      (fun g => scaleAt a.fmt a.gf a.block g p.next) (fun g => scaleAt b.fmt b.gf b.block g x.2) x.1
  { m with
    t := t.setAccRow p.bank (p.row + p.next) new
    d := { m.d with groups := sat64 (m.d.groups + zero.length), zgroups := sat64 (m.d.zgroups + zero.countP id) } }

/-- One cycle of the streamer. -/
def Sim.stream (m : Sim) (c : Nat) : Sim × List Nat :=
  match m.t.passes with
  | [] => (m, [])
  | p :: rest =>
    if c ≤ p.issue then (m, [])
    else
      let first := c == p.issue + 1
      let scSegs := if first then p.scaleSegs p.sg else []
      let p1 := if first then { p with scales := scSegs.flatMap m.t.seg } else p
      let m1 := if first && p1.sscale.isSome && headerBad p1.sfmt p1.sg false p1.scales then m.defer 0x30 p1.pc else m
      let due := decide (p1.next < p1.m) && c == p1.issue + 1 + p1.per * p1.next
      let taken := (scSegs ++ (if due then p1.rowSegs p1.next else [])).map (· % 32)
      let m2 := if due then m1.passRow p1 else m1
      let p2 := if due then { p1 with next := p1.next + 1 } else p1
      (m2.mod fun t => { t with passes := if p2.next < p2.m then p2 :: rest else rest }, taken)

/- ---- the tile loader (R107, R117, R150, R219 to R221) ---- -/

/-- One cycle of the loader: segments are checked as they are served. -/
def Sim.load (m : Sim) (c : Nat) (taken : List Nat) : Sim × List Nat :=
  match m.t.loader with
  | none => (m, taken)
  | some j =>
    match j.kind with
    | .ldtile n pc =>
      let tl := m.t.tile n
      let nT := tileBytes tl.fmt / 64
      let nM := metaBytes tl.fmt tl.sparse / 64
      let x := j.cycle m.t c taken
      let m1 := x.2.1.foldl (fun (a : Sim) s =>
        if s.1 < nT then a
        else if s.1 < nT + nM then (if metaBad tl.sparse s.2 then a.defer 0x31 pc else a)
        else if s.1 = nT + nM then (if headerBad tl.fmt tl.tg (tl.sparse != 0) s.2 then a.defer 0x30 pc else a)
        else a) m
      if x.1.reads = [] then
        let all := jobBytes x.1 (x.1.got.length)
        (m1.mod fun t => { t.setTile n { tl with
          data := all.take (64 * nT), mdata := (all.drop (64 * nT)).take (64 * nM), scale := all.drop (64 * (nT + nM)),
          loading := false, readyAt := c + 3 } with loader := none, loaderFree := c + 1 }, x.2.2.2)
      else (m1.mod fun t => { t with loader := some x.1 }, x.2.2.2)
    | _ => (m.mod fun t => { t with loader := none }, taken)

/- ---- the drain (R109, R153, R186 to R189) ---- -/

/-- Bytes of the parameter block as served, by offset. -/
def Job.params (j : Job) : Params := fun o => (Assoc.get [] j.got (o / 64)).getD (o % 64) 0

/-- The outputs of a DRAIN by rows. -/
def drainOut (p : Params) (rows : List (List W32)) (accInt : Bool) (mode : Nat) (f : Fmt) (factor : Option Fp) : List (List Conv) :=
  rows.map fun r => r.zipIdx.map fun x => drainElem p accInt mode f factor x.2 x.1

/-- Output rows as timed segment writes: row r from cycle 4 + r after issue, none before `from_`. -/
def outWrites (f : Fmt) (issue from_ daddr : Nat) (stride : Int) (out : List (List Conv)) : List (Nat × Nat × List Byte) :=
  out.zipIdx.flatMap fun r =>
    let bs := packElems f (r.1.map (·.enc))
    let segs := chunks 64 (padTo' (ceilDiv bs.length 64 * 64) bs)
    segs.zipIdx.map fun s => (max from_ (issue + 4 + r.2), (((daddr : Int) + r.2 * stride) / 64).toNat + s.2, s.1)
where
  padTo' (n : Nat) (bs : List Byte) : List Byte := bs ++ List.replicate (n - bs.length) 0

/-- A counter of the block raised, saturating (R185). -/
def bumpU32 (p : Params) (o n : Nat) : List Byte := leBytes (sat32 (pU p o 4 + n)) 4

/-- Segment 1 with the counters of STATS. -/
def statsSeg (p : Params) (cs : List Conv) : List Byte :=
  bumpU32 p 0x40 (clippedOf cs) ++ bumpU32 p 0x44 (flushedOf cs) ++ bumpU32 p 0x48 cs.length ++ (List.range 52).map fun i => p (0x4C + i)
/-- Segments 9 to 16 with the counters of HIST, as one run. -/
def histRun (p : Params) (out : List (List Conv)) : List Byte :=
  let col (j : Nat) : List Conv := out.map fun r => r.getD j ⟨0, false, false⟩
  (List.range 64).flatMap (fun j => bumpU32 p (0x240 + 4 * j) (clippedOf (col j))) ++
  (List.range 64).flatMap (fun j => bumpU32 p (0x340 + 4 * j) (flushedOf (col j)))

/-- The parameter segments a DRAIN uses beside segment 0, given its first byte (R186). -/
def paramSegs (mode : Nat) (stats : Bool) (flags : Nat) : List Nat :=
  (if stats then [1] else []) ++ (if bit flags 0 && mode == 2 then [2, 3, 4, 5, 6, 7, 8] else []) ++
  (if bit flags 2 then [9, 10, 11, 12, 13, 14, 15, 16] else [])

/-- What the drain does when the segments of its phase are served: 0 reads segment 0, 1 the other parameters, 2 writes rows, 3
writes updated counters. The PFLAGS byte that segment 0 delivers names the other parameter segments (R186); where one lies outside
the scratchpad, the DRAIN halts then (R139; log entry 17). -/
def Sim.drainNext (m : Sim) (j : Job) (c : Nat) : Sim :=
  match j.kind with
  | .drain rows accInt mode f paddr daddr stride stats phase =>
    let p := j.params
    let more := paramSegs mode stats (pU p 0 1)
    let out := more.any fun i => decide (12288 ≤ paddr / 64 + i)
    let plan (m : Sim) : Sim :=
      let out := drainOut p rows accInt mode f m.factor
      let cs := out.flatten
      let guarded := mode == 2 && pGuard p
      let m1 := if guarded then { m with g := m.g.add p accInt f rows cs } else m
      m1.mod fun t => { t with drainJ := some { j with
        kind := .drain rows accInt mode f paddr daddr stride stats 2, writes := outWrites f j.issue (c + 1) daddr stride out } }
    if phase = 0 ∧ out then (m.defer 0x03 j.pc).mod fun t => { t with drainJ := none }
    else if phase = 0 ∧ more ≠ [] then
      m.mod fun t => { t with drainJ := some { j with
        kind := .drain rows accInt mode f paddr daddr stride stats 1, start := c + 1, reads := more.map fun i => (i, paddr / 64 + i) } }
    else if phase ≤ 1 then plan m
    else
      let out := drainOut p rows accInt mode f m.factor
      let upd := (if stats then [(c + 1, paddr / 64 + 1, statsSeg p out.flatten)] else []) ++
        (if mode != 0 && pHist p then (chunks 64 (histRun p out)).zipIdx.map fun s => (c + 1, paddr / 64 + 9 + s.2, s.1) else [])
      if phase = 2 ∧ upd ≠ [] then
        m.mod fun t => { t with drainJ := some { j with
          kind := .drain rows accInt mode f paddr daddr stride stats 3, writes := upd } }
      else m.mod fun t => { t.landed j.id c with drainJ := none, drainFree := c + 1 }
  | _ => m.mod fun t => { t with drainJ := none }

/-- The segments that a job of the X port wrote in this cycle (R116). -/
def Sim.note (m : Sim) (j : Job) (served : List (Nat × List Byte)) : Sim :=
  if j.reads = [] then { m with wrote := served.map (·.1) ++ m.wrote } else m

/-- One cycle of the drain. -/
def Sim.drainCycle (m : Sim) (c : Nat) (taken : List Nat) : Sim × List Nat :=
  match m.t.drainJ with
  | none => (m, taken)
  | some j =>
    let x := j.cycle m.t c taken
    let m1 := (m.note j x.2.1).mod fun _ => { x.2.2.1 with drainJ := some x.1 }
    (if x.1.reads = [] ∧ x.1.writes = [] then m1.drainNext x.1 c else m1, x.2.2.2)

/- ---- the load/store unit (R117, R126, R147, R148) ---- -/

/-- Column c of 64 rows of 64 elements of `e` bytes. -/
def transposed (e c : Nat) (data : List Byte) : List Byte := (List.range 64).flatMap fun r => (data.drop (64 * e * r + e * c)).take e

/-- The entry of a PUSH gets the bytes it read. -/
def Tess.fillEntry (t : Tess) (q : Nat) (j : Job) : Tess :=
  t.setQueue q ((t.queueOf q).map fun (e : QEntry) =>
    if e.waits.contains j.id && e.bytes == [] then { e with bytes := jobBytes j 4 } else e)

/-- What the load/store unit does when the segments it could serve are served in cycle c. -/
def Sim.lsuNext (m : Sim) (j : Job) (c : Nat) : Sim :=
  let free (t : Tess) : Tess := { t with lsu := none, lsuFree := c + 1 }
  match j.kind with
  | .vld r => m.mod fun t => free (({ t with vPend := t.vPend.filter (· != r) }.setV r (wordsOf (jobBytes j 16))).readable r (c + 4))
  | .pushX q => m.mod fun t =>
      free ((t.fillEntry q j).landed j.id c)
  | .xpose e addr stride =>
    if j.got = [] then m.mod fun t => free (t.landed j.id c)
    else
      let data := jobBytes j (64 * e)
      let ws := (List.range 64).flatMap fun k =>
        (chunks 64 (transposed e k data)).zipIdx.map fun s => (c + 4, (((addr : Int) + k * stride) / 64).toNat + s.2, s.1)
      m.mod fun t => { t with lsu := some { j with got := [], writes := ws } }
  | _ => m.mod fun t => free (t.landed j.id c)

def Sim.lsuCycle (m : Sim) (c : Nat) (taken : List Nat) : Sim :=
  match m.t.lsu with
  | none => m
  | some j =>
    let x := j.cycle m.t c taken
    let m1 := (m.note j x.2.1).mod fun _ => { x.2.2.1 with lsu := some x.1 }
    if x.1.reads = [] ∧ x.1.writes = [] then m1.lsuNext x.1 c else m1

/- ---- cycles ---- -/

/-- No unit and no port has work in progress. -/
def Sim.quiet (m : Sim) : Bool :=
  m.t.passes.isEmpty && m.t.loader.isNone && m.t.drainJ.isNone && m.t.lsu.isNone && m.t.aJobs.isEmpty

/-- Rows of a box from the segments that a job read. -/
def Xfer.readRows (x : Xfer) (j : Job) : List (List Byte) :=
  let per := ceilDiv x.bytes 64
  (List.range x.rows).map fun r => ((List.range per).flatMap fun i => Assoc.get [] j.got (r * per + i)).take x.bytes

/-- An access of the A-stream has all its segments served in cycle c: a LOAD and a POP have landed, a PUSH's entry and a STORE have
their bytes. -/
def Tess.aServed (t : Tess) (j : Job) (c : Nat) : Tess :=
  let t1 := { t with aJobs := t.aJobs.filter (·.id != j.id) }
  match j.kind with
  | .pushA q => (t1.fillEntry q j).landed j.id c
  | .store => { t1 with xfers := t1.xfers.map fun (x : Xfer) => if x.id = j.id then { x with data := x.readRows j } else x }
  | .load => { t1.landed j.id c with xfers := t1.xfers.filter (·.id != j.id) }
  | _ => t1.landed j.id c

/-- One cycle of the A port: each bank serves the earliest access that waits for it (log entry 94). A read returns what stood there
before the cycle; of two writes to one segment the X port's is kept (R116). -/
def Sim.aCycle (m : Sim) (before : Tess) (c : Nat) : Sim :=
  let r := m.t.aJobs.foldl (fun (a : List Job × List (Nat × List Byte) × List Nat) j =>
    let x := j.cycle before c a.2.2
    (a.1 ++ [x.1], if j.reads = [] then a.2.1 ++ x.2.1 else a.2.1, x.2.2.2)) ([], [], [])
  let ws := r.2.1.filter fun w => !m.wrote.contains w.1
  let m1 := m.mod fun t => ws.foldl (fun (u : Tess) w => u.setSeg w.1 w.2) { t with aJobs := r.1 }
  (r.1.filter fun j => j.reads.isEmpty && j.writes.isEmpty).foldl (fun a j => a.mod fun t => t.aServed j c) m1

/-- The next arithmetic cycle: at the X port streamer, loader, drain, load/store unit; then the A port (R115). -/
def Sim.tick (m : Sim) : Sim :=
  let c := m.t.cycle + 1
  let a := ({ m with t := { m.t with cycle := c }, wrote := [] } : Sim).stream c
  let b := a.1.load c a.2
  let d := b.1.drainCycle c b.2
  (d.1.lsuCycle c d.2).aCycle m.t c

/-- Run up to a cycle; a deferred condition stops it (fuel: cycles with work in progress). -/
def Sim.upTo : Nat → Nat → Sim → Sim
  | 0, _, m => m
  | n + 1, k, m =>
    if m.bad.isSome || decide (k ≤ m.t.cycle) then m
    else if m.quiet then m.mod fun t => { t with cycle := k }
    else Sim.upTo n k m.tick

/-- Run until something holds. -/
def Sim.till (p : Sim → Bool) : Nat → Sim → Sim
  | 0, m => m
  | n + 1, m => if m.bad.isSome || p m then m else Sim.till p n m.tick

/-- Everything issued completes (R164). -/
def Sim.complete : Nat → Sim → Sim
  | 0, m => m
  | n + 1, m => if m.quiet then m else Sim.complete n m.tick

/-- Cycles no work of a tessera outlasts. -/
def simFuel : Nat := 65536

/- ---- the item and its command ---- -/

def tessKey (die t : Nat) : Nat := 128 * die + t

/-- The command of the item a tessera holds. -/
def State.itemCmd (s : State) (die t : Nat) : Option Cmd :=
  match (s.tessera (tessKey die t)).item with
  | some i => s.cmd i.cmd
  | none => none

def Cmd.grid (c : Cmd) : Option Grid := match c.work with
  | .grid g => some g
  | _ => none

def State.modGrid (s : State) (id : CmdId) (f : Grid → Grid) : State :=
  s.modCmd id fun c => match c.work with
    | .grid g => { c with work := .grid (f g) }
    | _ => c

/-- A running tessera with its command. -/
def State.sim (s : State) (die t : Nat) : Option (Cmd × Sim) :=
  let x := s.tessera (tessKey die t)
  match s.itemCmd die t with
  | some c => match c.grid with
    | some g =>
      if x.st = .running then
        some (c, { t := x, d := s.die die, g := g.guard, factor := g.factor, unacked := s.unackedBy c.id (tessSeer (tessKey die t)) })
      else none
    | none => none
  | none => none

def State.putSim (s : State) (die t : Nat) (c : Cmd) (m : Sim) : State :=
  ((s.modTessera (tessKey die t) fun _ => m.t).modDie die fun _ => m.d).modGrid c.id fun g => { g with guard := m.g }

end Sys2Proof.Machine
end

