-- ==== Sys2Proof/Machine/Streams.lean ====
section
/-! DEFINITION. The words of the two streams (spec 05): their fields and operands, what holds a word, and what halts it (R118 to R122,
R136, R156, R162); and how one of the streams halts (R131, R161 to R165, R560). -/

namespace Sys2Proof.Machine

/- ---- what a word asks for ---- -/

/-- The opcodes of R137 per stream. -/
def definedOp (x : Bool) (op : Nat) : Bool :=
  [0x01, 0x02, 0x03, 0x04, 0x08, 0x09, 0x10].contains op ||
  (if x then [0x11, 0x20, 0x21, 0x22, 0x23, 0x24, 0x25, 0x26, 0x28, 0x29, 0x2A, 0x30, 0x31, 0x32, 0x40, 0x41, 0x42].contains op
   else [0x50, 0x51, 0x52].contains op)

/-- The fields of format C for BR (R141), and of PUSH and POP (R147). -/
def brFields (w : W128) : List (Nat × Nat) :=
  if field w 20 18 = 0 then [(20, 18), (33, 22)]
  else [(12, 8), (20, 18), (21, 21), (33, 22)] ++ (if flagAt w 21 then [(95, 64)] else [(17, 13)])
def queueFields (w : W128) : List (Nat × Nat) := [(15, 13), (16, 16)] ++ (if flagAt w 16 then [(12, 8)] else [(47, 28), (67, 48)])
/-- The fields of format S (R142). -/
def scalarFields (w : W128) (mov : Bool) : List (Nat × Nat) :=
  [(12, 8), (23, 23), (27, 24)] ++ (if mov then [] else [(17, 13)]) ++ (if flagAt w 23 then [(95, 64)] else [(22, 18)])

/-- Rows drained, and rows streamed. -/
def countOf (w : W128) : Nat := field w 53 48 + 1
def fmtA (w : W128) : Fmt := Fmt.ofCode (field w 36 33)
def fmtD (w : W128) : Fmt := Fmt.ofCode (field w 40 37)
def drainMode (w : W128) : Nat := field w 68 67
def drainFmt (w : W128) : Fmt := if drainMode w = 0 then .fp32 else Fmt.ofCode (field w 72 69)

/-- Reserved or unused bits, or fields out of range, of an X-stream word (R136). -/
def xReserved (w : W128) : Bool :=
  let f := field w 31 28
  match opcode w with
  | 0x01 => !clean w []
  | 0x02 => !clean w []
  | 0x03 => !clean w [(71, 64)]
  | 0x04 => !clean w (brFields w) || decide (6 < field w 20 18)
  | 0x08 => !clean w (queueFields w)
  | 0x09 => !clean w (queueFields w)
  | 0x10 => !clean w (scalarFields w (field w 27 24 == 8)) || decide (0xA < field w 27 24)
  | 0x11 => !clean w (scalarFields w false) || decide (2 < field w 27 24)
  | 0x20 => !clean w [(12, 8), (17, 13), (22, 18), (31, 28)] || decide (0xB < f)
  | 0x21 => !clean w ([(12, 8), (17, 13), (22, 18), (31, 28)] ++ (if f < 4 then [(32, 32)] else [])) || decide (8 < f)
  | 0x22 => !clean w [(12, 8), (17, 13), (22, 18), (27, 23)]
  | 0x23 => !clean w ([(12, 8), (17, 13), (31, 28), (32, 32)] ++ (if f < 6 then [(22, 18)] else []) ++ (if f = 3 then [(27, 23)] else [])) ||
      decide (7 < f)
  | 0x24 => !clean w [(12, 8), (17, 13), (36, 33), (40, 37), (43, 41), (46, 44)] ||
      decide (partsOf (fmtA w) ≤ field w 43 41) || decide (partsOf (fmtD w) ≤ field w 46 44)
  | 0x25 => !clean w [(12, 8), (17, 13), (31, 28), (32, 32)] || decide (5 < f)
  | 0x26 => !clean w [(12, 8), (17, 13), (31, 28), (32, 32)] || decide (4 < f)
  | 0x28 => !clean w ([(12, 8), (17, 13), (32, 32), (50, 47), (51, 51), (56, 52)] ++ (if flagAt w 51 then [(22, 18)] else [])) ||
      field w 12 8 == 31 || (flagAt w 51 && field w 22 18 == 31)
  | 0x29 => !clean w [(12, 8), (56, 52)]
  | 0x2A => !clean w [(17, 13), (56, 52), (64, 57)]
  | 0x30 => !clean w [(12, 8), (47, 28), (67, 48)]
  | 0x31 => !clean w [(12, 8), (47, 28), (67, 48)]
  | 0x32 => !clean w [(18, 17), (47, 28), (67, 48), (87, 68), (107, 88)] || field w 18 17 == 3
  | 0x40 => !clean w ([(27, 8), (71, 68), (73, 72), (75, 74), (76, 76)] ++ (if field w 73 72 = 0 then [] else [(47, 28)]) ++
      (if field w 75 74 = 0 then [] else [(67, 48)])) || field w 73 72 == 3
  | 0x41 => !clean w ([(27, 8), (47, 28), (53, 48), (59, 54), (60, 60), (61, 61), (62, 62), (66, 63), (88, 87)] ++
      (if field w 88 87 = 0 then [] else [(86, 67)])) || decide (64 < field w 59 54 + countOf w)
  | 0x42 => !clean w ([(53, 48), (59, 54), (60, 60), (61, 61), (68, 67)] ++
      (if flagAt w 61 then [(66, 62)] else [(27, 8), (47, 28)]) ++ (if drainMode w = 0 then [] else [(72, 69), (92, 73), (93, 93)])) ||
      drainMode w == 3 || decide (64 < field w 59 54 + countOf w) ||
      (flagAt w 61 && (countOf w % 4 != 0 || decide (32 < field w 66 62 + countOf w / 4)))
  | _ => false

/-- Q above 3, or a queue used against its direction (R125). -/
def queueBad (t : Tess) (x : Bool) (w : W128) : Bool :=
  let q := field w 15 13
  match opcode w with
  | 0x08 => decide (3 < q) || t.outbound q != x
  | 0x09 => decide (3 < q) || t.outbound q == x
  | _ => false

/-- A data queue takes or gives through the scratchpad. -/
def movesEntry (w : W128) : Bool := (opcode w == 0x08 || opcode w == 0x09) && !flagAt w 16

/-- The unit of an instruction accepts it in the current cycle (R110, R117, R118). -/
def Sim.unitFree (m : Sim) (w : W128) : Bool :=
  let c := m.t.cycle
  let lsu := m.t.lsu.isNone && decide (m.t.lsuFree ≤ c)
  match opcode w with
  | 0x08 => flagAt w 16 || lsu
  | 0x09 => flagAt w 16 || lsu
  | 0x26 => decide (m.t.sfuFree ≤ c)
  | 0x28 => decide (m.t.topkFree ≤ c)
  | 0x30 => lsu
  | 0x31 => lsu
  | 0x32 => lsu
  | 0x40 => m.t.loader.isNone && decide (m.t.loaderFree ≤ c)
  | 0x41 => decide (m.t.arrayFree ≤ c)
  | 0x42 => m.t.drainJ.isNone && decide (m.t.drainFree ≤ c)
  | _ => true

/-- The cycle from which a queue can serve a PUSH or POP; none while it cannot (R126, R127). -/
def Tess.queueServes (t : Tess) (w : W128) : Option Nat :=
  let l := t.queueOf (field w 15 13)
  match opcode w with
  | 0x08 => if l.length < 16 then some 0 else none
  | 0x09 => match l with
    | [] => none
    | e :: _ => if e.waits = [] then some (e.visible + 2) else none
  | _ => some 0

/- ---- operands ---- -/

/-- Segment addresses addr + i * stride. -/
def stridedSegs (addr : Nat) (stride : Int) (n : Nat) : List Int := (List.range n).map fun (i : Nat) => (addr : Int) + i * stride
/-- Rows of consecutive segments. -/
def rowSegs (addr : Nat) (stride : Int) (n per : Nat) : List Int :=
  (List.range n).flatMap fun (r : Nat) => (List.range per).map fun (k : Nat) => (addr : Int) + r * stride + 64 * k
def runSegs (addr n : Nat) : List Int := stridedSegs addr 64 n
def segNos (l : List Int) : List Nat := l.map fun a => (a / 64).toNat

def xposeSize (w : W128) : Nat := 2 ^ field w 18 17
def xposeFrom (w : W128) : List Int := rowSegs (field w 47 28) (sfield w 67 48) 64 (xposeSize w)
def xposeTo (w : W128) : List Int := rowSegs (field w 87 68) (sfield w 107 88) 64 (xposeSize w)

/-- The stationary operand an LDTILE names: format, sparsity, group field. -/
def tileFmt (w : W128) : Fmt := Fmt.ofCode (field w 71 68)
def tileSparse (w : W128) : Nat := field w 73 72
def tileGroups (w : W128) : Nat := field w 75 74
/-- Its segments in the order they are served (R220). -/
def tileSegs (w : W128) : List Int :=
  runSegs (field w 27 8) (tileBytes (tileFmt w) / 64) ++ runSegs (field w 47 28) (metaBytes (tileFmt w) (tileSparse w) / 64) ++
  runSegs (field w 67 48) (Machine.scaleSegs (tileFmt w) (tileGroups w) (tileK (tileFmt w) (tileSparse w)))

/-- The shape of a MATMUL against the tile its buffer records; none: FORMAT_COMBINATION (R149, R152). -/
def Tess.passFor (t : Tess) (w : W128) : Option (Nat × Nat × Nat) :=
  let tl := t.tile (field w 61 61)
  if tl.holds then passShape (Fmt.ofCode (field w 66 63)) tl.fmt tl.sparse (field w 88 87) tl.tg else none
def streamFmt (w : W128) : Fmt := Fmt.ofCode (field w 66 63)
def streamRows (w : W128) (k : Nat) : List Int := rowSegs (field w 27 8) (sfield w 47 28) (countOf w) (ceilDiv (k * (streamFmt w).nibbles / 2) 64)
def streamScales (w : W128) (k : Nat) : List Int := runSegs (field w 86 67) (Machine.scaleSegs (streamFmt w) (field w 88 87) k)

/-- A streamed scale segment lies in a bank of a streamed row segment (R181). -/
def scaleClash (w : W128) (k : Nat) : Bool :=
  let banks (l : List Int) : List Nat := (segNos l).map (· % 32)
  (banks (streamScales w k)).any fun b => (banks (streamRows w k)).contains b

/-- A DRAIN's output segments, and the parameter segments that its own word names (R186). -/
def drainRows (w : W128) : List Int := rowSegs (field w 27 8) (sfield w 47 28) (countOf w) (ceilDiv (64 * (drainFmt w).nibbles / 2) 64)
def drainParams (w : W128) : List Int :=
  let pa := field w 92 73
  if drainMode w = 0 then [] else (0 :: paramSegs (drainMode w) (flagAt w 93) 0).map fun (i : Nat) => (pa : Int) + 64 * i

/-- Addresses and strides that must be multiples of 64 (R114, R139). -/
def xAligned (w : W128) : List Int :=
  let p : List Int := [((field w 47 28 : Nat) : Int), sfield w 67 48]
  match opcode w with
  | 0x08 => if flagAt w 16 then [] else p
  | 0x09 => if flagAt w 16 then [] else p
  | 0x30 => p
  | 0x31 => p
  | 0x32 => p ++ [((field w 87 68 : Nat) : Int), sfield w 107 88]
  | 0x40 => [((field w 27 8 : Nat) : Int), ((field w 47 28 : Nat) : Int), ((field w 67 48 : Nat) : Int)]
  | 0x41 => [((field w 27 8 : Nat) : Int), sfield w 47 28, ((field w 86 67 : Nat) : Int)]
  | 0x42 => [((field w 27 8 : Nat) : Int), sfield w 47 28, ((field w 92 73 : Nat) : Int)]
  | _ => []

/-- The scratchpad segments of an X-stream word. -/
def Tess.xSegs (t : Tess) (w : W128) : List Int :=
  let four := stridedSegs (field w 47 28) (sfield w 67 48) 4
  let sixteen := stridedSegs (field w 47 28) (sfield w 67 48) 16
  match opcode w with
  | 0x08 => if flagAt w 16 then [] else four
  | 0x09 => if flagAt w 16 then [] else four
  | 0x30 => sixteen
  | 0x31 => sixteen
  | 0x32 => xposeFrom w ++ xposeTo w
  | 0x40 => tileSegs w
  | 0x41 => match t.passFor w with
    | some s => streamRows w s.1 ++ streamScales w s.1
    | none => []
  | 0x42 => if flagAt w 61 then [] else drainParams w ++ drainRows w
  | _ => []

def spMisaligned (l : List Int) : Bool := l.any fun a => a % 64 != 0
def spOut (l : List Int) : Bool := l.any fun a => decide (a < 0) || decide (0xC0000 ≤ a)

/-- Pending-bit keys a word reads and writes (R119, R120). -/
def xReads (w : W128) : List Nat :=
  let a := field w 17 13
  let b := field w 22 18
  let f := field w 31 28
  match opcode w with
  | 0x04 => if field w 20 18 = 0 then [] else (32 + field w 12 8) :: (if flagAt w 21 then [] else [32 + a])
  | 0x08 => if flagAt w 16 then [32 + field w 12 8] else []
  | 0x10 => (if field w 27 24 = 8 then [] else [32 + a]) ++ (if flagAt w 23 then [] else [32 + b])
  | 0x11 => (32 + a) :: (if flagAt w 23 then [] else [32 + b])
  | 0x20 => [a, b]
  | 0x21 => [a, b]
  | 0x22 => [a, b, field w 27 23]
  | 0x23 => a :: ((if f < 6 then [b] else []) ++ (if f = 3 then [field w 27 23] else []))
  | 0x24 => [a, field w 12 8]
  | 0x25 => [a]
  | 0x26 => [a]
  | 0x28 => [a, 32 + field w 56 52] ++ (if flagAt w 51 then [b, b + 1] else [])
  | 0x29 => [32 + field w 56 52]
  | 0x2A => [a]
  | 0x31 => [field w 12 8]
  | _ => []
def xWrites (w : W128) : List Nat :=
  let d := field w 12 8
  match opcode w with
  | 0x09 => if flagAt w 16 then [32 + d] else []
  | 0x10 => [32 + d]
  | 0x11 => [32 + d]
  | 0x28 => [d, d + 1]
  | 0x2A => [32 + field w 56 52]
  | 0x30 => [d]
  | 0x42 => if flagAt w 61 then (List.range (countOf w / 4)).map (· + field w 66 62) else []
  | op => if 0x20 ≤ op ∧ op ≤ 0x29 then [d] else []

/-- FORMAT_COMBINATION at issue (R143, R145, R152, R154, R184). -/
def Tess.xFormat (t : Tess) (w : W128) : Bool :=
  match opcode w with
  | 0x24 => !convPair (fmtA w) (fmtD w)
  | 0x25 => flagAt w 32
  | 0x26 => flagAt w 32
  | 0x28 => flagAt w 32
  | 0x41 => match t.passFor w with
    | none => true
    | some s => (t.bankUsed (field w 60 60) && !flagAt w 62 && t.bankInt (field w 60 60) != (streamFmt w).isInt) || scaleClash w s.1
  | 0x42 => (flagAt w 61 && drainMode w != 0) || !drainOk (t.bankInt (field w 60 60)) (drainMode w) (drainFmt w)
  | _ => false

/-- A destination byte of XPOSE is a source byte (R148). -/
def xOverlap (w : W128) : Bool := opcode w == 0x32 && (xposeTo w).any fun a => (xposeFrom w).contains a

/-- The bank is being drained, or a DRAIN meets a pass in flight (R108). -/
def Tess.bankConflict (t : Tess) (w : W128) : Bool :=
  let b := field w 60 60
  let drained := decide (t.cycle < Assoc.get 0 t.bankDrain b)
  match opcode w with
  | 0x41 => drained
  | 0x42 => drained || (t.bankBusy.any (fun x => x.1 == b) && decide (t.cycle ≤ Assoc.get 0 t.bankBusy b))
  | _ => false

/-- A tile buffer is pending, or in use (R107). -/
def Tess.tilePending (t : Tess) (n : Nat) : Bool := (t.tile n).loading || decide (t.cycle < (t.tile n).readyAt)
def Tess.tileInUse (t : Tess) (n : Nat) : Bool := decide (t.cycle < (t.tile n).useThrough)

/-- The first condition of a list that holds. -/
def firstOf : List (Bool × Nat) → Option Nat
  | [] => none
  | (b, r) :: l => if b then some r else firstOf l

/-- What halts a word when it is presented, whatever its unit does (R136, R166): INSTRUCTION_BUDGET, ILLEGAL_OPCODE,
RESERVED_FIELD_SET, QUEUE_NUMBER_INVALID. -/
def presentHalt (t : Tess) (x : Bool) (reserved : Bool) (w : W128) : Option Nat :=
  let pc := if x then t.xpc else t.apc
  let spent := match (if x then t.xBudget else t.aBudget) with
    | some b => decide (b ≤ (if x then t.xRet else t.aRet))
    | none => false
  firstOf [(spent, 0x40), (decide (4096 ≤ pc) || !definedOp x (opcode w), 0x01), (reserved, 0x02), (queueBad t x w, 0x06)]

/-- What halts an X-stream word at issue, in the order of R162. -/
def Tess.xIssueHalt (t : Tess) (w : W128) : Option Nat :=
  firstOf
    [(t.xFormat w, 0x30), (spMisaligned (xAligned w), 0x04), (spOut (t.xSegs w), 0x03), (xOverlap w, 0x05),
     ((xReads w).any (t.pending t.cycle) || (opcode w == 0x41 && t.tilePending (field w 61 61)), 0x10),
     ((xWrites w).any (t.pending t.cycle) || (opcode w == 0x40 && (t.tilePending (field w 76 76) || t.tileInUse (field w 76 76))), 0x11),
     (t.bankConflict w, 0x12), (opcode w == 0x02 && t.queues != [], 0x21), (opcode w == 0x03, 0x41)]

/- ---- the A-stream's words (R122, R155, R156) ---- -/

/-- The command's descriptor a LOAD or STORE names (R155). -/
def Cmd.selected (c : Cmd) (w : W128) : Option Desc :=
  match field w 10 8 with
  | 0 => c.desc 0x08
  | 1 => c.desc 0x0A
  | 2 => c.desc 0x0C
  | 3 => c.desc 0x0E
  | 4 => c.desc 0x10
  | _ => none
def dimsOf (c : Cmd) (w : W128) : Nat := match c.selected w with
  | some d => d.size.length
  | none => 0

/-- Reserved or unused bits, or fields out of range, of an A-stream word (R136, R156). -/
def aReserved (c : Cmd) (w : W128) : Bool :=
  let rd := field w 12 8
  let ra := field w 17 13
  let rb := field w 22 18
  let mem := !clean w ([(10, 8), (15, 11), (21, 21), (41, 22), (61, 42), (67, 62), (78, 68)] ++ (if flagAt w 21 then [(20, 16)] else [])) ||
    (c.selected w).isNone || decide (16 < field w 15 11 + dimsOf c w) || decide (15 < field w 15 11) ||
    (flagAt w 21 && decide (15 < field w 20 16))
  match opcode w with
  | 0x01 => !clean w []
  | 0x02 => !clean w []
  | 0x03 => !clean w [(71, 64)]
  | 0x04 => !clean w (brFields w) || decide (6 < field w 20 18) || decide (15 < rd) || decide (15 < ra)
  | 0x08 => !clean w (queueFields w) || decide (15 < rd)
  | 0x09 => !clean w (queueFields w) || decide (15 < rd)
  | 0x10 => !clean w (scalarFields w (field w 27 24 == 8)) || (decide (0xA < field w 27 24) && field w 27 24 != 0xC) ||
      decide (15 < rd) || decide (15 < ra) || decide (15 < rb)
  | 0x50 => mem
  | 0x51 => mem || field w 10 8 != 0
  | 0x52 => !clean w []
  | _ => false

/-- A registers a word reads (R122). -/
def aReads (c : Cmd) (w : W128) : List Nat :=
  match opcode w with
  | 0x04 => if field w 20 18 = 0 then [] else field w 12 8 :: (if flagAt w 21 then [] else [field w 17 13])
  | 0x08 => if flagAt w 16 then [field w 12 8] else []
  | 0x10 => (if field w 27 24 = 8 then [] else [field w 17 13]) ++ (if flagAt w 23 then [] else [field w 22 18])
  | 0x50 => (List.range (dimsOf c w)).map (· + field w 15 11) ++ (if flagAt w 21 then [field w 20 16] else [])
  | 0x51 => (List.range (dimsOf c w)).map (· + field w 15 11) ++ (if flagAt w 21 then [field w 20 16] else [])
  | _ => []

/-- The box of a LOAD or STORE. -/
def boxRows (w : W128) : Nat := field w 67 62 + 1
def boxCols (w : W128) : Nat := field w 78 68 + 1
def Tess.boxBase (t : Tess) (w : W128) : Nat := (if flagAt w 21 then (t.ar (field w 20 16)).toNat else 0) + field w 41 22
/-- Bytes of a box row of a format (R140, R171). -/
def boxBytes (f : Fmt) (cols : Nat) : Nat := ceilDiv (cols * f.nibbles) 2

/-- The scratchpad segments of an A-stream word. -/
def Tess.aSegs (t : Tess) (c : Cmd) (w : W128) : List Int :=
  let four := stridedSegs (field w 47 28) (sfield w 67 48) 4
  let box := match c.selected w with
    | some d => rowSegs (t.boxBase w) (sfield w 61 42) (boxRows w) (ceilDiv (boxBytes d.fmt (boxCols w)) 64)
    | none => []
  match opcode w with
  | 0x08 => if flagAt w 16 then [] else four
  | 0x09 => if flagAt w 16 then [] else four
  | 0x50 => box
  | 0x51 => box
  | _ => []
def Tess.aAligned (t : Tess) (w : W128) : List Int :=
  match opcode w with
  | 0x08 => if flagAt w 16 then [] else [((field w 47 28 : Nat) : Int), sfield w 67 48]
  | 0x09 => if flagAt w 16 then [] else [((field w 47 28 : Nat) : Int), sfield w 67 48]
  | 0x50 => [((t.boxBase w : Nat) : Int), sfield w 61 42]
  | 0x51 => [((t.boxBase w : Nat) : Int), sfield w 61 42]
  | _ => []

/-- Segments an outstanding LOAD will write. -/
def Xfer.segs (x : Xfer) : List Int := if x.load then rowSegs x.sp x.spstride x.rows (ceilDiv x.bytes 64) else []

/-- Segments that a job has still to serve. -/
def Job.left (j : Job) : List Nat := j.reads.map (·.2) ++ j.writes.map (·.2.1)

/-- What holds an A-stream word beside queues and registers (R122, R157): an access that overlaps an earlier one which has not landed,
a 33rd transfer, and FENCE. -/
def Sim.aHeld (m : Sim) (c : Cmd) (w : W128) : Bool :=
  ((m.t.aSegs c w).any fun a => m.t.xfers.any (fun x => x.segs.contains a) || m.t.aJobs.any fun j => j.left.any fun n => decide ((n : Int) * 64 = a)) ||
  ((opcode w == 0x50 || opcode w == 0x51) && decide (32 ≤ m.t.xfers.length)) || (opcode w == 0x52 && (!m.t.xfers.isEmpty || m.unacked))

/-- What halts an A-stream word at issue, in the order of R162. -/
def Tess.aIssueHalt (t : Tess) (c : Cmd) (w : W128) : Option Nat :=
  firstOf [(spMisaligned (t.aAligned w), 0x04), (spOut (t.aSegs c w), 0x03), (opcode w == 0x02 && t.queues != [], 0x21), (opcode w == 0x03, 0x41)]

/- ---- halts (R131, R163 to R165, R560) ---- -/

/-- The bytes of a halt record. -/
def HaltRec.reg (h : HaltRec) (i : Nat) : Nat :=
  match i with
  | 0 => 2 ^ 31 * b2n h.valid + 2 ^ 30 * b2n h.second + 2 ^ 29 * b2n h.ovr + 2 ^ 28 * b2n h.stream + 2 ^ 20 * (h.reason % 256) + 2 ^ 7 * (h.pc % 8192)
  | 1 => 2 ^ 24 * (h.context % 256) + 2 ^ 20 * (h.queue % 16) + 2 ^ 4 * (h.seq % 65536)
  | 2 => 2 ^ 14 * b2n h.oEnded + 2 ^ 13 * b2n h.oWaiting + h.oPc % 8192
  | 3 => h.item
  | 4 => h.word.toNat % 2 ^ 32
  | 5 => h.word.toNat / 2 ^ 32 % 2 ^ 32
  | 6 => h.word.toNat / 2 ^ 64 % 2 ^ 32
  | 7 => h.word.toNat / 2 ^ 96
  | 8 => h.xret
  | 9 => h.aret
  | 10 => h.cycles
  | _ => 0

/-- A tile buffer as copied: its 8 KiB after clearing, else what was loaded. -/
def Tile.bytes (x : Tile) : List Byte := if x.holds then x.data ++ x.mdata ++ x.scale else List.replicate 8192 0

/-- The pieces of a snapshot (R560): offset and bytes. -/
def snapPieces (t : Tess) (pend : Nat × Nat) (h : HaltRec) : List (Nat × List Byte) :=
  [(0, (List.range 12288).flatMap t.seg),
   (0xC0000, (List.range 128).flatMap fun i => wordBytes (t.accRow (i / 64) (i % 64))),
   (0xC8000, t.tile0.bytes.take 8192), (0xCA000, t.tile1.bytes.take 8192),
   (0xCC000, (List.range 32).flatMap fun r => wordBytes (t.vr r)),
   (0xD4000, (List.range 32).flatMap fun r => leBytes (t.sr r).toNat 4),
   (0xD4080, (List.range 16).flatMap fun r => leBytes (t.ar r).toNat 4),
   (0xD40C0, (List.range 4).flatMap (fun q => leBytes (t.queueOf q).length 4) ++ leBytes pend.1 4 ++ leBytes pend.2 4),
   (0xD4100, (List.range 16).flatMap fun i => leBytes (h.reg i) 4)] ++
  (List.range 4).map fun q => (0xD5000 + 0x1000 * q, (t.queueOf q).flatMap (·.bytes))

/-- Write pieces granule by granule; true when an unpopulated address or an uncorrectable merge stopped it. -/
def State.snapWrite (s : State) : List (List (Nat × Byte)) → Bool × State
  | [] => (false, s)
  | ws :: r =>
    let a := (ws.headD (0, 0)).1
    if !s.populated a || (s.poisonHit ws).isSome then (true, s) else (s.land none ws).snapWrite r

/-- Places of a snapshot whose contents the spec does not give: the rest of a loaded tile buffer and of the queues' room. -/
def snapOpen (t : Tess) : List (Nat × Nat) :=
  let tile (o : Nat) (x : Tile) : List (Nat × Nat) := if x.holds then [(o + min 8192 x.bytes.length, o + 8192)] else []
  tile 0xC8000 t.tile0 ++ tile 0xCA000 t.tile1 ++
  (List.range 4).map fun q => (0xD5000 + 0x1000 * q + 256 * (t.queueOf q).length, 0xD6000 + 0x1000 * q)

/-- The first halt of the watched context on an armed die is the one to copy (R559, R560): ARMED falls, TESSERA names it. -/
def State.claimSnap (s : State) (die t ctx : Nat) (pend : Nat × Nat) : State :=
  let d := s.die die
  if d.snapArmed && d.snapCtx == ctx then
    (s.modDie die fun y => { y with snapArmed := false, snapTess := t }).modTessera (tessKey die t) fun x => { x with snapWait := some pend }
  else s

/-- The copy of a halted tessera (R560), once its LOADs have landed (R164); then DONE or FAILED. -/
def State.snapshot (s : State) (die t : Nat) : State :=
  let x := s.tessera (tessKey die t)
  match x.snapWait with
  | none => s
  | some pend =>
    if x.xfers ≠ [] then s
    else
      let base := (s.die die).snapBase
      let ws := (snapPieces x pend (s.halt (tessKey die t))).flatMap fun p => chunks 32 (spread (base + p.1) p.2)
      let r := s.snapWrite (ws.filter (! ·.isEmpty))
      let s1 := if r.1 then r.2 else { r.2.bump with mem := (snapOpen x).foldl (fun (m : Mem) o => m.forget (base + o.1) (base + o.2) r.2.fresh) r.2.mem }
      (s1.modDie die fun y => { y with snapDone := y.snapDone || !r.1, snapFailed := y.snapFailed || r.1 }).modTessera (tessKey die t) fun y =>
        { y with snapWait := none }

/-- Registers whose pending bit is set, as a word. -/
def Tess.pendWord (t : Tess) (lo : Nat) : Nat := ((List.range 32).map fun i => if t.pending t.cycle (lo + i) then 2 ^ i else 0).foldl (· + ·) 0

/-- A stream is held on a queue in the current cycle or, the A-stream, on a FENCE. -/
def Sim.waitsNow (m : Sim) (c : Cmd) (x : Bool) : Bool :=
  let w := m.t.word x (if x then m.t.xpc else m.t.apc)
  let queue := match m.t.queueServes w with
    | some k => decide (m.t.cycle < k)
    | none => true
  !(if x then m.t.xEnded else m.t.aEnded) && decide ((if x then m.t.xNext else m.t.aNext) ≤ m.t.cycle) &&
  (presentHalt m.t x (if x then xReserved w else aReserved c w) w).isNone &&
  (((opcode w == 0x08 || opcode w == 0x09) && (!x || m.unitFree w) && queue) ||
   (!x && opcode w == 0x52 && (!m.t.xfers.isEmpty || m.unacked)))

/-- The halt record of a condition met in the current cycle (R165). -/
def haltRecord (old : HaltRec) (id : CmdId) (linear : Nat) (t : Tess) (x : Bool) (reason pc : Nat) (w : W128) (second waits : Bool) : HaltRec :=
  { valid := true, second := second, ovr := old.valid, stream := x, reason := reason, pc := pc, context := id.ctx, queue := id.q,
    seq := id.pos % 65536, oEnded := if x then t.aEnded else t.xEnded, oWaiting := waits, oPc := if x then t.apc else t.xpc,
    item := linear, word := w, xret := sat32 t.xRet, aret := sat32 t.aRet, cycles := sat32 t.cycle }

/-- The DETAIL of ENGINE_HALTED (R80). -/
def haltDetail (die t reason : Nat) (x : Bool) : Nat := reason * 2 ^ 24 + die * 2 ^ 21 + t * 2 ^ 14 + b2n x * 2 ^ 13

/-- A stream halts: both stop, what was issued completes, LOADs in flight stay to land (R164), the record and any snapshot are
written, the command fails. -/
def State.haltTess (s : State) (die t : Nat) (c : Cmd) (m : Sim) (x : Bool) (reason pc : Nat) (w : W128) (second : Bool) : State :=
  let h := haltRecord (s.halt (tessKey die t)) c.id (match m.t.item with
    | some i => i.linear
    | none => 0) m.t x reason pc w second (m.waitsNow c (!x))
  let pend := (m.t.pendWord 0, m.t.pendWord 32)
  let m1 := m.complete simFuel
  let m2 := m1.mod fun y =>
    let left := y.xfers.filter (·.load)
    { y with st := .halted, mustClear := true, xfers := left, failed := if left.isEmpty then none else some c }
  let s1 := (s.putSim die t c m2).modHalt (tessKey die t) fun _ => h
  ((s1.claimSnap die t c.id.ctx pend).snapshot die t).fail c.id { status := .engineHalted, detail := haltDetail die t reason x }

/- ---- conditions of the current cycle (R163) ---- -/

/-- Delivered cycles a queue wait may last (R128). -/
def watchdogCycles : Nat := 1048576

/-- The cycle from which the A-stream's next word waits on a queue. -/
def Sim.aWaits (m : Sim) (c : Cmd) : Option Nat :=
  let w := m.t.word false m.t.apc
  if m.t.aEnded || (presentHalt m.t false (aReserved c w) w).isSome || (m.t.queueServes w).isSome then none
  else some (m.t.aWait.getD ((aReads c w).foldl (fun a r => max a (m.t.aReadable r)) m.t.aNext))

def Sim.xWord (m : Sim) : W128 := m.t.word true m.t.xpc
def Sim.aWord (m : Sim) : W128 := m.t.word false m.t.apc

/-- The condition the X-stream meets in the current cycle: reason, PC and word. -/
def Sim.xHaltNow (m : Sim) : Option (Nat × Nat × W128) :=
  let w := m.xWord
  match m.bad with
  | some (r, pc) => some (r, pc, m.t.word true pc)
  | none =>
    if m.t.xEnded || decide (m.t.cycle < m.t.xNext) then none
    else match presentHalt m.t true (xReserved w) w with
      | some r => some (r, m.t.xpc, w)
      | none =>
        if !m.unitFree w then none
        else match m.t.queueServes w with
          | some c => if c ≤ m.t.cycle then (m.t.xIssueHalt w).map fun r => (r, m.t.xpc, w) else none
          | none =>
            if m.t.aEnded ∧ m.t.aNext ≤ m.t.cycle then some (0x21, m.t.xpc, w)
            else if m.t.xWait.any fun k => k + watchdogCycles == m.t.cycle then some (0x20, m.t.xpc, w) else none

/-- The condition the A-stream meets in the current cycle. -/
def Sim.aHaltNow (m : Sim) (c : Cmd) : Option Nat :=
  let w := m.aWord
  if m.t.aEnded || decide (m.t.cycle < m.t.aNext) then none
  else match presentHalt m.t false (aReserved c w) w with
    | some r => some r
    | none =>
      if (aReads c w).all (fun r => decide (m.t.aReadable r ≤ m.t.cycle)) then
        match m.t.queueServes w with
        | some k => if k ≤ m.t.cycle ∧ !m.aHeld c w then m.t.aIssueHalt c w else none
        | none =>
          if m.t.xEnded ∧ m.t.xNext ≤ m.t.cycle then some 0x21
          else if (m.aWaits c).any fun k => k + watchdogCycles == m.t.cycle then some 0x20 else none
      else none

/-- The X-stream halts, or the A-stream in a cycle in which the X-stream may halt too (R163). -/
def State.haltX (s : State) (die t : Nat) (c : Cmd) (m : Sim) (reason pc : Nat) : State :=
  s.haltTess die t c m true reason pc (m.t.word true pc) (m.aHaltNow c).isSome
def State.haltA (s : State) (die t : Nat) (c : Cmd) (m : Sim) (reason : Nat) : State :=
  match m.xHaltNow with
  | some h => s.haltTess die t c m true h.1 h.2.1 h.2.2 true
  | none => s.haltTess die t c m false reason m.t.apc m.aWord false

end Sys2Proof.Machine
end

