-- ==== Sys2Proof/Machine/Xstream.lean ====
section
/-! DEFINITION. The X-stream (spec 05): how its next word is presented, held and issued (R118 to R120), and one meaning per X-stream
instruction. The rows that both streams share are in Astream. -/

namespace Sys2Proof.Machine

/- ---- presentation and issue ---- -/

/-- The X-stream's next word at the first cycle in which it may be presented. -/
def Sim.xPresent (m : Sim) : Sim := m.upTo simFuel (max m.t.xNext m.t.cycle)

/-- The word waits for its unit, and then for its queue as far as that is only a matter of cycles: of accesses of the A-stream in
progress (R118, R127). -/
def Sim.xHold (m : Sim) (w : W128) : Sim :=
  let m1 := m.till (fun x => x.unitFree w) simFuel
  let m2 := if m1.t.aJobs.isEmpty then m1 else m1.till (fun x => (x.t.queueServes w).isSome || x.quiet) simFuel
  match m2.t.queueServes w with
  | some c => m2.upTo simFuel c
  | none => if m2.bad.isSome then m2 else m1

/-- Where the X-stream's next word of an opcode stands. -/
inductive Turn where
  | other
  | halt (reason pc : Nat) (m : Sim)
  | held (m : Sim)
  | go (m : Sim)
deriving DecidableEq, Repr

/-- The turn of the X-stream for a row of opcode op. -/
def Sim.xTurn (m0 : Sim) (op : Nat) : Turn :=
  if m0.t.xEnded then .other else
  let m := m0.xPresent
  let w := m.xWord
  match m.bad with
  | some (r, pc) => .halt r pc m
  | none =>
    match presentHalt m.t true (xReserved w) w with
    | some r => .halt r m.t.xpc m
    | none =>
      if opcode w ≠ op then .other else
      let n := m.xHold w
      match n.bad with
      | some (r, pc) => .halt r pc n
      | none =>
        match n.t.queueServes w with
        | none =>
          if n.t.aEnded then
            let p := n.upTo simFuel n.t.aNext
            match p.bad with
            | some (r, pc) => .halt r pc p
            | none => .halt 0x21 p.t.xpc p
          else .held n
        | some _ =>
          match n.t.xIssueHalt w with
          | some r => .halt r n.t.xpc n
          | none => .go n

/-- A word of a tessera's scratchpad, tiles, registers or instruction memories that the next instruction finds uncorrectable (R490,
R493). -/
def State.hitOf (s : State) (die t : Nat) : Option Nat := s.hits.find? fun l => locDie l == die && locUnit l == t

/-- Go on, unless an uncorrectable word fails the command first: without a halt record, with the word's location code. -/
def State.hitThen (s : State) (die t : Nat) (c : Cmd) (k : State → State) : State :=
  match s.hitOf die t with
  | none => k s
  | some l => ({ s with hits := s.hits.erase l } : State).sramThen c.id.ctx (some l) (fun e u => u.fail c.id e) k

/-- A row of the X-stream: its turn, with the effect the opcode has when it issues. It does not issue in a cycle in which the
A-stream halts (R164). -/
def State.xRow (s : State) (die t op : Nat) (eff : W128 → Sim → Sim) : State :=
  match s.sim die t with
  | none => s
  | some (c, m0) => s.hitThen die t c fun s =>
    match m0.xTurn op with
    | .other => s
    | .halt r pc m => s.haltX die t c m r pc
    | .held m => s.putSim die t c (m.mod fun y => { y with xWait := some (y.xWait.getD y.cycle) })
    | .go m => match m.aHaltNow c with
      | some r => s.haltTess die t c m false r m.t.apc m.aWord false
      | none => s.putSim die t c (eff m.xWord m)

/-- Retire the X-stream's instruction: the next word may issue from `next` (R141). -/
def Sim.xRetire (m : Sim) (pc next : Nat) : Sim :=
  m.mod fun t => { t with xpc := pc, xNext := next, xRet := t.xRet + 1, xWait := none }
/-- The usual case: the following word, a cycle later. -/
def Sim.xStep (m : Sim) : Sim := m.xRetire (m.t.xpc + 1) (m.t.cycle + 1)

/-- Write a register now, readable after a latency (R110, R119, R120). -/
def Sim.putV (m : Sim) (r : Nat) (x : List W32) (lat : Nat) : Sim := m.mod fun t => (t.setV r x).readable r (t.cycle + lat)
def Sim.putS (m : Sim) (r : Nat) (x : W32) (lat : Nat) : Sim := m.mod fun t => (t.setS r x).readable (32 + r) (t.cycle + lat)

/-- Start a job of the load/store unit. -/
def Sim.startLsu (m : Sim) (k : JobKind) (reads : List Nat) (writes : List (Nat × List Byte)) : Sim :=
  m.mod fun t => { t with
    lsu := some { id := t.nextId, kind := k, start := t.cycle + 1, issue := t.cycle, reads := reads.zipIdx.map fun (x : Nat × Nat) => (x.2, x.1)
                  writes := writes.map fun (x : Nat × List Byte) => (t.cycle + 1, x.1, x.2) }
    nextId := t.nextId + 1 }

/-- Ids of X-stream jobs that still write the scratchpad. -/
def Tess.xWriters (t : Tess) : List Nat :=
  (match t.lsu with
    | some j => (match j.kind with
      | .vld _ => []
      | .pushX _ => []
      | _ => [j.id])
    | none => []) ++ (match t.drainJ with
    | some j => [j.id]
    | none => [])

/-- Append an entry to a queue; with nothing to wait for it is visible from a cycle on: that of its issue for a token (R127;
DESIGN CHOICE, log entry 96). -/
def Tess.pushEntry (t : Tess) (q : Nat) (bytes : List Byte) (waits : List Nat) (visible : Nat) : Tess :=
  t.setQueue q (t.queueOf q ++ [⟨bytes, waits, visible⟩])
/-- A token as an entry (R147). -/
def tokenBytes (w : W32) : List Byte := leBytes w.toNat 4 ++ List.replicate 252 0
/-- The entry a POP takes. -/
def Tess.headEntry (t : Tess) (q : Nat) : List Byte := ((t.queueOf q).head?.map (·.bytes)).getD []
def Tess.dropEntry (t : Tess) (q : Nat) : Tess := t.setQueue q ((t.queueOf q).drop 1)
/-- Bytes [3:0] of an entry. -/
def tokenOf (b : List Byte) : W32 := BitVec.ofNat 32 (ofLe (b.take 4))

/- ---- effects of the rows both streams share ---- -/

def xNop (_ : W128) (m : Sim) : Sim := m.xStep
def xEnd (_ : W128) (m : Sim) : Sim := m.xStep.mod fun t => { t with xEnded := true }

/-- BR (R141). -/
def xBr (w : W128) (m : Sim) : Sim :=
  let b := if flagAt w 21 then immOf w else m.t.sr (field w 17 13)
  if branchCond (field w 20 18) (m.t.sr (field w 12 8)) b then m.xRetire (field w 33 22) (m.t.cycle + 2) else m.xStep

/-- PUSH of the X-stream (R126, R127, R147). -/
def xPush (w : W128) (m : Sim) : Sim :=
  let q := field w 15 13
  if flagAt w 16 then (m.mod fun t => t.pushEntry q (tokenBytes (t.sr (field w 12 8))) t.xWriters t.cycle).xStep
  else
    let m1 := m.mod fun t => t.pushEntry q [] (t.xWriters ++ [t.nextId]) t.cycle
    (m1.startLsu (.pushX q) (segNos (stridedSegs (field w 47 28) (sfield w 67 48) 4)) []).xStep

/-- POP of the X-stream (R126, R147). -/
def xPop (w : W128) (m : Sim) : Sim :=
  let q := field w 15 13
  let b := m.t.headEntry q
  let m1 := m.mod fun t => t.dropEntry q
  if flagAt w 16 then (m1.putS (field w 12 8) (tokenOf b) 2).xStep
  else (m1.startLsu .popX [] ((segNos (stridedSegs (field w 47 28) (sfield w 67 48) 4)).zip (chunks 64 b))).xStep

/- ---- scalar and vector instructions ---- -/

/-- The second operand of a format S word. -/
def scalarB (w : W128) (r : Nat → W32) : W32 := if flagAt w 23 then immOf w else r (field w 22 18)

def xSalu (w : W128) (m : Sim) : Sim :=
  (m.putS (field w 12 8) (scalarOp (field w 27 24) (m.t.sr (field w 17 13)) (scalarB w m.t.sr)) 1).xStep
def xSmul (w : W128) (m : Sim) : Sim :=
  (m.putS (field w 12 8) (mulOp (field w 27 24) (m.t.sr (field w 17 13)) (scalarB w m.t.sr)) 3).xStep

/-- Lane by lane over two registers. -/
def lanes2 (f : W32 → W32 → W32) (a b : List W32) : List W32 := List.zipWith f a b
/-- Lane by lane over three. -/
def lanes3 (f : W32 → W32 → W32 → W32) (a b c : List W32) : List W32 := List.zipWith (fun x y => f x.1 x.2 y) (a.zip b) c

def xVint (w : W128) (m : Sim) : Sim :=
  (m.putV (field w 12 8) (lanes2 (vintLane (field w 31 28)) (m.t.vr (field w 17 13)) (m.t.vr (field w 22 18))) 2).xStep
def xVcmp (w : W128) (m : Sim) : Sim :=
  (m.putV (field w 12 8) (lanes2 (vcmpLane (flagAt w 32) (field w 31 28)) (m.t.vr (field w 17 13)) (m.t.vr (field w 22 18))) 2).xStep
def xVsel (w : W128) (m : Sim) : Sim :=
  (m.putV (field w 12 8) (lanes3 (fun a b c => (c &&& a) ||| (~~~c &&& b)) (m.t.vr (field w 17 13)) (m.t.vr (field w 22 18))
    (m.t.vr (field w 27 23))) 2).xStep
def xVfp (w : W128) (m : Sim) : Sim :=
  (m.putV (field w 12 8) (lanes3 (vfpLane (flagAt w 32) (field w 31 28)) (m.t.vr (field w 17 13)) (m.t.vr (field w 22 18))
    (m.t.vr (field w 27 23))) 4).xStep
def xVcvt (w : W128) (m : Sim) : Sim :=
  (m.putV (field w 12 8) (lanes2 (vcvtLane (fmtA w) (fmtD w) (field w 43 41) (field w 46 44)) (m.t.vr (field w 17 13))
    (m.t.vr (field w 12 8))) 4).xStep
def xVred (w : W128) (m : Sim) : Sim :=
  (m.putV (field w 12 8) (vredTree (field w 31 28) 8 (m.t.vr (field w 17 13)) :: List.replicate 255 0) 10).xStep

/-- Occupancy and latency of the special functions (R110): TANH is FUNC 4. -/
def xVsfu (w : W128) (m : Sim) : Sim :=
  let tanh := field w 31 28 == 4
  ((m.putV (field w 12 8) ((m.t.vr (field w 17 13)).map (vsfuLane (field w 31 28))) (if tanh then 18 else 14)).mod fun t =>
    { t with sfuFree := t.cycle + (if tanh then 8 else 4) }).xStep

/-- TOPK's candidates: the lanes with their indices, and in merge mode the previous pairs (R112, R146). -/
def topkCands (w : W128) (t : Tess) : List (W32 × W32) :=
  ((t.vr (field w 17 13)).zipIdx.map fun x => (x.1, BitVec.ofNat 32 x.2 + t.sr (field w 56 52))) ++
  (if flagAt w 51 then ((t.vr (field w 22 18)).zip (t.vr (field w 22 18 + 1))).take (field w 50 47 + 1) else [])
def xTopk (w : W128) (m : Sim) : Sim :=
  let r := topkOf (field w 50 47 + 1) (topkCands w m.t)
  (((m.putV (field w 12 8) r.1 24).putV (field w 12 8 + 1) r.2 24).mod fun t => { t with topkFree := t.cycle + 8 }).xStep
def xVsplat (w : W128) (m : Sim) : Sim := (m.putV (field w 12 8) (List.replicate 256 (m.t.sr (field w 56 52))) 2).xStep
def xVext (w : W128) (m : Sim) : Sim := (m.putS (field w 56 52) ((m.t.vr (field w 17 13)).getD (field w 64 57) 0) 2).xStep

/- ---- data movement ---- -/

/-- The 16 segments of VLD and VST. -/
def vecSegs (w : W128) : List Nat := segNos (stridedSegs (field w 47 28) (sfield w 67 48) 16)
def xVld (w : W128) (m : Sim) : Sim :=
  ((m.mod fun t => { t with vPend := field w 12 8 :: t.vPend }).startLsu (.vld (field w 12 8)) (vecSegs w) []).xStep
def xVst (w : W128) (m : Sim) : Sim :=
  (m.startLsu .vst [] ((vecSegs w).zip (chunks 64 (wordBytes (m.t.vr (field w 12 8)))))).xStep
def xXpose (w : W128) (m : Sim) : Sim :=
  (m.startLsu (.xpose (xposeSize w) (field w 87 68) (sfield w 107 88)) (segNos (xposeFrom w)) []).xStep

/- ---- matrix instructions ---- -/

/-- LDTILE (R149): the buffer records the operand now and is pending until it is loaded. -/
def xLdtile (w : W128) (m : Sim) : Sim :=
  let n := field w 76 76
  (m.mod fun t =>
    let t1 := t.setTile n { t.tile n with holds := true, fmt := tileFmt w, sparse := tileSparse w, tg := tileGroups w, loading := true }
    { t1 with
      loader := some { id := t.nextId, kind := .ldtile n t.xpc, start := t.cycle + 1, issue := t.cycle
                       reads := (segNos (tileSegs w)).zipIdx.map fun (x : Nat × Nat) => (x.2, x.1) }
      nextId := t.nextId + 1 }).xStep

/-- MATMUL (R105, R106, R151, R231). -/
def xMatmul (w : W128) (m : Sim) : Sim :=
  match m.t.passFor w with
  | none => m
  | some (k, per, g) =>
    let n := field w 61 61
    let b := field w 60 60
    let rows := countOf w
    let c := m.t.cycle
    let tl := m.t.tile n
    let p : Pass := {
      issue := c, pc := m.t.xpc, per := per, m := rows, saddr := field w 27 8, sstride := sfield w 47 28, row := field w 59 54, bank := b
      tile := n, clear := flagAt w 62, sfmt := streamFmt w, k := k, g := g
      sscale := if field w 88 87 = 0 then none else some (field w 86 67) }
    ({ m with
      d := { m.d with npasses := sat64 (m.d.npasses + 1), spasses := sat64 (m.d.spasses + b2n (tl.sparse != 0)) }
      t := { m.t.setTile n { tl with useThrough := if per = 1 then c + rows + 2 else c + 4 * rows - 1 } with
        passes := m.t.passes ++ [p], arrayFree := c + rows * per
        bankBusy := Assoc.put (Assoc.erase m.t.bankBusy b) b (if per = 1 then c + rows + 9 else c + 4 * rows + 10)
        accInt := Assoc.put (Assoc.erase m.t.accInt b) b (streamFmt w).isInt } : Sim }).xStep

/-- DRAIN (R109, R153, R186). -/
def xDrain (w : W128) (m : Sim) : Sim :=
  let b := field w 60 60
  let n := countOf w
  let rows := (List.range n).map fun r => m.t.accRow b (field w 59 54 + r)
  let c := m.t.cycle
  let held (t : Tess) : Tess := { t with bankDrain := Assoc.set 0 t.bankDrain b (c + n + 1) }
  if flagAt w 61 then
    ((List.range (n / 4)).foldl (fun (a : Sim) j => a.putV (field w 66 62 + j) ((rows.drop (4 * j)).take 4).flatten (8 + 4 * j)) m |>.mod fun t =>
      { held t with drainFree := c + n + 1 }).xStep
  else
    let mode := drainMode w
    let f := drainFmt w
    let kind (phase : Nat) : JobKind :=
      .drain rows (m.t.bankInt b) mode f (field w 92 73) (field w 27 8) (sfield w 47 28) (flagAt w 93) phase
    let job : Job := { id := m.t.nextId, kind := kind (if mode = 0 then 2 else 0), start := c + 1, issue := c, pc := m.t.xpc }
    (m.mod fun t => { held t with
      nextId := t.nextId + 1
      drainJ := some (if mode = 0 then
          { job with writes := outWrites f c 0 (field w 27 8) (sfield w 47 28) (drainOut (fun _ => 0) rows false 0 f none) }
        else { job with reads := [(0, field w 92 73 / 64)] }) }).xStep

/- ---- the rows ---- -/

def execSalu (die t : Nat) (s : State) : Ans := done (s.xRow die t 0x10 xSalu)
def execSmul (die t : Nat) (s : State) : Ans := done (s.xRow die t 0x11 xSmul)
def execVint (die t : Nat) (s : State) : Ans := done (s.xRow die t 0x20 xVint)
def execVcmp (die t : Nat) (s : State) : Ans := done (s.xRow die t 0x21 xVcmp)
def execVsel (die t : Nat) (s : State) : Ans := done (s.xRow die t 0x22 xVsel)
def execVfp (die t : Nat) (s : State) : Ans := done (s.xRow die t 0x23 xVfp)
def execVcvt (die t : Nat) (s : State) : Ans := done (s.xRow die t 0x24 xVcvt)
def execVred (die t : Nat) (s : State) : Ans := done (s.xRow die t 0x25 xVred)
def execVsfu (die t : Nat) (s : State) : Ans := done (s.xRow die t 0x26 xVsfu)
def execTopk (die t : Nat) (s : State) : Ans := done (s.xRow die t 0x28 xTopk)
def execVsplat (die t : Nat) (s : State) : Ans := done (s.xRow die t 0x29 xVsplat)
def execVext (die t : Nat) (s : State) : Ans := done (s.xRow die t 0x2A xVext)
def execVld (die t : Nat) (s : State) : Ans := done (s.xRow die t 0x30 xVld)
def execVst (die t : Nat) (s : State) : Ans := done (s.xRow die t 0x31 xVst)
def execXpose (die t : Nat) (s : State) : Ans := done (s.xRow die t 0x32 xXpose)
def execLdtile (die t : Nat) (s : State) : Ans := done (s.xRow die t 0x40 xLdtile)
def execMatmul (die t : Nat) (s : State) : Ans := done (s.xRow die t 0x41 xMatmul)
def execDrain (die t : Nat) (s : State) : Ans := done (s.xRow die t 0x42 xDrain)

end Sys2Proof.Machine
end

