-- ==== Sys2Proof/Machine/Astream.lean ====
section
/-! DEFINITION. The A-stream (spec 05; R122 to R128, R155 to R157), the rows both streams share, and the memory transfers of items
(R123, R124, R156, R226). -/

namespace Sys2Proof.Machine

/- ---- the A-stream's turn ---- -/

/-- The X-stream's next word at the cycle in which its unit accepts it, or in which it halts as presented (R118). -/
def Sim.xReady (m : Sim) : Sim :=
  let n := m.xPresent
  if n.bad.isSome || (presentHalt n.t true (xReserved n.xWord) n.xWord).isSome then n else n.till (fun x => x.unitFree n.xWord) simFuel

/-- The cycle from which the X-stream's next word waits on a queue that the A-stream has to serve. -/
def Sim.xWaits (m : Sim) : Option Nat :=
  let n := m.xReady
  if m.t.xEnded || n.bad.isSome || (presentHalt n.t true (xReserved n.xWord) n.xWord).isSome || (n.t.queueServes n.xWord).isSome then none
  else some n.t.cycle

/-- The cycle up to which the A-stream may go ahead: the X-stream's next issue, which only a queue can delay (R118). -/
def Sim.xBound (m : Sim) : Option Nat :=
  if m.t.xEnded || m.xWaits.isSome then none
  else
    let n := m.xReady
    some (max ((n.t.queueServes n.xWord).getD 0) n.t.cycle)
def Sim.aMay (m : Sim) (k : Nat) : Bool := match m.xBound with
  | some b => decide (k ≤ b)
  | none => true

/-- Wait for the X-stream's jobs to make a queue entry visible, as far as the A-stream may go ahead. -/
def Sim.aSee (m : Sim) (w : W128) : Sim :=
  let fuel := match m.xBound with
    | some b => b - m.t.cycle
    | none => if m.t.xEnded && m.t.aJobs.isEmpty then 0 else simFuel
  m.till (fun x => (x.t.queueServes w).isSome || x.quiet) fuel

/-- Wait for accesses at the A port to land, as far as the A-stream may go ahead. -/
def Sim.aFree (m : Sim) (c : Cmd) (w : W128) : Sim :=
  let fuel := match m.xBound with
    | some b => b - m.t.cycle
    | none => if m.t.aJobs.isEmpty then 0 else simFuel
  m.till (fun x => !x.aHeld c w || x.t.aJobs.isEmpty) fuel

/-- The turn of the A-stream for a row of opcode op (R122, R128, R136). A deferred condition of the X-stream that the waiting
brings up is that stream's halt. -/
inductive ATurn where
  | other
  | xHalt (reason pc : Nat) (m : Sim)
  | halt (reason : Nat) (m : Sim)
  | held (m : Sim)
  | go (m : Sim)
deriving DecidableEq, Repr

def Sim.aTurn (m0' : Sim) (c : Cmd) (op : Nat) : ATurn :=
  let m0 := match m0'.xWaits with
    | some k => m0'.mod fun t => { t with xWait := some (t.xWait.getD k) }
    | none => m0'
  let c0 := max m0.t.aNext m0.t.cycle
  if m0.t.aEnded || !m0.aMay c0 then .other else
  let m := m0.upTo simFuel c0
  let w := m.aWord
  match m.bad with
  | some (r, pc) => .xHalt r pc m
  | none =>
    match presentHalt m.t false (aReserved c w) w with
    | some r => .halt r m
    | none =>
      if opcode w ≠ op then .other else
      let c1 := (aReads c w).foldl (fun a r => max a (m.t.aReadable r)) m.t.cycle
      if !m.aMay c1 then .other else
      let n := (m.upTo simFuel c1).aSee w
      match n.bad with
      | some (r, pc) => .xHalt r pc n
      | none =>
        match n.t.queueServes w with
        | none =>
          if n.t.xEnded then
            let p := n.upTo simFuel n.t.xNext
            match p.bad with
            | some (r, pc) => .xHalt r pc p
            | none => .halt 0x21 p
          else .held (n.mod fun t => { t with aWait := some (t.aWait.getD c1) })
        | some k =>
          if !n.aMay k then .other else
          let p := n.upTo simFuel k
          match p.bad with
          | some (r, pc) => .xHalt r pc p
          | none =>
            let q := p.aFree c w
            match q.bad with
            | some (r, pc) => .xHalt r pc q
            | none =>
              if q.aHeld c w then .other
              else match q.t.aIssueHalt c w with
                | some r => .halt r q
                | none => .go q

/-- A row of the A-stream. Its instruction does not issue in a cycle in which the X-stream halts (R164). -/
def State.aRow (s : State) (die t op : Nat) (eff : Cmd → W128 → Sim → Sim) : State :=
  match s.sim die t with
  | none => s
  | some (c, m0) => s.hitThen die t c fun s =>
    match m0.aTurn c op with
    | .other => s
    | .xHalt r pc m => s.haltX die t c m r pc
    | .halt r m => s.haltA die t c m r
    | .held m => s.putSim die t c m
    | .go m => match m.xHaltNow with
      | some h => s.haltTess die t c m true h.1 h.2.1 h.2.2 false
      | none => s.putSim die t c (eff c m.aWord m)

def Sim.aRetire (m : Sim) (pc next : Nat) : Sim :=
  m.mod fun t => { t with apc := pc, aNext := next, aRet := t.aRet + 1, aWait := none }
def Sim.aStep (m : Sim) : Sim := m.aRetire (m.t.apc + 1) (m.t.cycle + 1)
/-- Write an A register whose write completes after some cycles. -/
def Sim.putA (m : Sim) (r : Nat) (x : W32) (lat : Nat) : Sim :=
  m.mod fun t => { t.setA r x with aReady := Assoc.set 0 t.aReady r (t.cycle + lat) }

/- ---- effects ---- -/

def aNop (_ : Cmd) (_ : W128) (m : Sim) : Sim := m.aStep
def aEnd (_ : Cmd) (_ : W128) (m : Sim) : Sim := m.aStep.mod fun t => { t with aEnded := true }
/-- BR: the target of a taken branch may issue two cycles later, in either stream (R136, R141: DEDUCED, log entry 96). -/
def aBr (_ : Cmd) (w : W128) (m : Sim) : Sim :=
  let b := if flagAt w 21 then immOf w else m.t.ar (field w 17 13)
  if branchCond (field w 20 18) (m.t.ar (field w 12 8)) b then m.aRetire (field w 33 22) (m.t.cycle + 2) else m.aStep
/-- AALU; its write completes a cycle after its issue (DESIGN CHOICE, log entry 96: R122 gives no latency). -/
def aAalu (_ : Cmd) (w : W128) (m : Sim) : Sim :=
  (m.putA (field w 12 8) (scalarOp (field w 27 24) (m.t.ar (field w 17 13)) (scalarB w m.t.ar)) 1).aStep

/-- Ids of what the A-stream has still to write to the scratchpad: LOADs and POPs. -/
def Tess.aWriters (t : Tess) : List Nat :=
  (t.xfers.filter (·.load)).map (·.id) ++ (t.aJobs.filter fun j => j.kind == .popA).map (·.id)

/-- The four segments of a PUSH or POP. -/
def queueSegs (w : W128) : List Nat := segNos (stridedSegs (field w 47 28) (sfield w 67 48) 4)

/-- Start an access at the A port: it is presented from the next cycle on (R115). -/
def Sim.startA (m : Sim) (k : JobKind) (reads : List Nat) (writes : List (Nat × List Byte)) : Sim :=
  m.mod fun t => { t with
    aJobs := t.aJobs ++ [{
      id := t.nextId, kind := k, start := t.cycle + 1, issue := t.cycle, reads := reads.zipIdx.map fun (x : Nat × Nat) => (x.2, x.1)
      writes := writes.map fun (x : Nat × List Byte) => (t.cycle + 1, x.1, x.2) }]
    nextId := t.nextId + 1 }

/-- PUSH of the A-stream (R126, R127, R147): its entry is visible once the A port has read it and every earlier LOAD and POP has
landed. -/
def aPush (_ : Cmd) (w : W128) (m : Sim) : Sim :=
  let q := field w 15 13
  if flagAt w 16 then (m.mod fun t => t.pushEntry q (tokenBytes (t.ar (field w 12 8))) t.aWriters t.cycle).aStep
  else
    let m1 := m.mod fun t => t.pushEntry q [] (t.aWriters ++ [t.nextId]) t.cycle
    (m1.startA (.pushA q) (queueSegs w) []).aStep
/-- POP of the A-stream. -/
def aPop (_ : Cmd) (w : W128) (m : Sim) : Sim :=
  let q := field w 15 13
  let b := m.t.headEntry q
  let m1 := m.mod fun t => t.dropEntry q
  if flagAt w 16 then (m1.putA (field w 12 8) (tokenOf b) 2).aStep
  else (m1.startA .popA [] ((queueSegs w).zip (chunks 64 b))).aStep

/-- The transfer a LOAD or STORE starts (R155, R156). -/
def Tess.boxXfer (t : Tess) (c : Cmd) (w : W128) (load : Bool) : Xfer :=
  { id := t.nextId, load := load, dsel := field w 10 8
    coord := (List.range (dimsOf c w)).map fun k => (t.ar (field w 15 11 + k)).toNat
    rows := boxRows w, cols := boxCols w, bytes := boxBytes (c.selected w |>.getD Desc.none).fmt (boxCols w), sp := t.boxBase w, spstride := sfield w 61 42 }
def Sim.startXfer (m : Sim) (x : Xfer) : Sim := m.mod fun t => { t with xfers := t.xfers ++ [x], nextId := t.nextId + 1 }

/-- The segments of a box in the scratchpad, row by row. -/
def Xfer.boxSegs (x : Xfer) : List Nat := segNos (rowSegs x.sp x.spstride x.rows (ceilDiv x.bytes 64))

def aLoad (c : Cmd) (w : W128) (m : Sim) : Sim := (m.startXfer (m.t.boxXfer c w true)).aStep
/-- STORE reads its box at the A port (R115). -/
def aStore (c : Cmd) (w : W128) (m : Sim) : Sim :=
  let x := m.t.boxXfer c w false
  ((m.mod fun t => { t with xfers := t.xfers ++ [x] }).startA .store x.boxSegs []).aStep
def aFence (_ : Cmd) (_ : W128) (m : Sim) : Sim := m.aStep

/-- A row both streams have. -/
def State.bothRow (s : State) (die t : Nat) (x : Bool) (op : Nat) (fx : W128 → Sim → Sim) (fa : Cmd → W128 → Sim → Sim) : State :=
  if x then s.xRow die t op fx else s.aRow die t op fa

def execNop (die t : Nat) (x : Bool) (s : State) : Ans := done (s.bothRow die t x 0x01 xNop aNop)
def execEndI (die t : Nat) (x : Bool) (s : State) : Ans := done (s.bothRow die t x 0x02 xEnd aEnd)
/-- TRAP halts at issue: `xIssueHalt` and `aIssueHalt` never let it through. -/
def execTrap (die t : Nat) (x : Bool) (s : State) : Ans := done (s.bothRow die t x 0x03 xNop aNop)
def execBr (die t : Nat) (x : Bool) (s : State) : Ans := done (s.bothRow die t x 0x04 xBr aBr)
def execPush (die t : Nat) (x : Bool) (s : State) : Ans := done (s.bothRow die t x 0x08 xPush aPush)
def execPop (die t : Nat) (x : Bool) (s : State) : Ans := done (s.bothRow die t x 0x09 xPop aPop)
def execAalu (die t : Nat) (s : State) : Ans := done (s.aRow die t 0x10 aAalu)
def execLoad (die t : Nat) (s : State) : Ans := done (s.aRow die t 0x50 aLoad)
def execStore (die t : Nat) (s : State) : Ans := done (s.aRow die t 0x51 aStore)
def execFence (die t : Nat) (s : State) : Ans := done (s.aRow die t 0x52 aFence)

/- ---- the watchdog and the budget (R128, R166) ---- -/

/-- The A-stream issues nothing before a cycle: it waits on a queue or a transfer, or its next word comes later. -/
def Sim.aStill (m : Sim) (c : Cmd) (k : Nat) : Bool := (m.aWaits c).isSome || decide (k ≤ m.t.aNext) || m.aHeld c m.aWord

/-- A held stream still cannot be served when its wait has lasted 2^20 cycles, in which the other stream does not issue. -/
def State.watchdog (s : State) (die t : Nat) (x : Bool) : State :=
  match s.sim die t with
  | none => s
  | some (c, m0) =>
    let xw := m0.xWaits.map fun k => m0.t.xWait.getD k
    let aw := m0.aWaits c
    match (if x then xw else aw) with
    | none => s
    | some k =>
      let others := if x then aw else xw
      let last := k + watchdogCycles
      let still := if x then !m0.t.aEnded && m0.aStill c last else !m0.t.xEnded && m0.aMay last
      let m := m0.upTo simFuel last
      let w := if x then m.xWord else m.aWord
      let first := match others with
        | some o => decide (k ≤ o)
        | none => true
      if !still || !first then s
      else match m.bad with
      | some (r, pc) => s.haltX die t c m r pc
      | none =>
        if (m.t.queueServes w).isSome then s
        else if x then s.haltTess die t c m true 0x20 m.t.xpc w (m.aHaltNow c).isSome
        else match m.xHaltNow with
          | some h => s.haltTess die t c m true h.1 h.2.1 h.2.2 true
          | none => s.haltTess die t c m false 0x20 m.t.apc w false

def execQueueWaitWatchdog (die t : Nat) (x : Bool) (s : State) : Ans := done (s.watchdog die t x)

/-- A stream that has retired its budget halts as its next instruction is presented. -/
def execInstructionBudget (die t : Nat) (x : Bool) (s : State) : Ans :=
  match s.sim die t with
  | none => .next s
  | some (c, m0) =>
    if x then
      if m0.t.xEnded then .next s else
      let m := m0.xPresent
      done (match m.bad with
        | some (r, pc) => s.haltX die t c m r pc
        | none => if presentHalt m.t true false m.xWord = some 0x40 then s.haltX die t c m 0x40 m.t.xpc else s)
    else
      let k := max m0.t.aNext m0.t.cycle
      if m0.t.aEnded || !m0.aMay k then .next s else
      let m := m0.upTo simFuel k
      done (match m.bad with
        | some (r, pc) => s.haltX die t c m r pc
        | none => if presentHalt m.t false false m.aWord = some 0x40 then s.haltA die t c m 0x40 else s)

/- ---- transfers (R123, R124, R156, R226) ---- -/

/-- Box rows that a token mask may cover: rows within SRC0 (R226). -/
def Xfer.tokenRows (x : Xfer) (d : Desc) : List Nat :=
  (List.range x.rows).filter fun r => ((x.index r 0).zip d.sizes2).drop 1 |>.all fun y => decide (y.1 < y.2)

/-- The rows a token mask writes as zero, after reading the mask bytes it needs. -/
def State.maskedRows (s : State) (c : Cmd) (e : Eng) (x : Xfer) : Except Fail (List Nat × List Nat) × State :=
  if bit (flags c.raw) 5 && x.load && x.dsel == 1 then
    let rows := x.tokenRows (c.xferDesc x)
    let tok (r : Nat) : Nat := (x.index r 0).getD 1 0
    match s.readElems e (c.descD 0x0E) (rows.map fun r => [tok r / 8]) with
    | (.error f, s1) => (.error f, s1)
    | (.ok (bs, miss), s1) => (.ok (((rows.zip bs).filter fun y => !bit y.2 (tok y.1 % 8)).map (·.1), miss), s1)
  else (.ok ([], []), s)

/-- What a LOAD brings into the scratchpad (R123, R140, R156, R226): its rows, and how many a token mask made zero. -/
def State.loadBox (s : State) (die t : Nat) (c : Cmd) (x : Xfer) : Except Fail ((List (List Byte) × Nat) × List Nat) × State :=
  let e := (c.eng (some die)).by (tessSeer (tessKey die t))
  let d := c.xferDesc x
  let n := x.cols
  match s.maskedRows c e x with
  | (.error f, s1) => (.error f, s1)
  | (.ok (masked, miss), s1) =>
    if miss ≠ [] then (.ok (([], 0), miss), s1)
    else
      let want (r : Nat) : List Nat := if masked.contains r then [] else (List.range n).filter fun j => d.inside (x.index r j)
      let cells := (List.range x.rows).flatMap fun r => (want r).map fun j => (r, j)
      match s1.readElems e d (cells.map fun q => d.own (x.index q.1 q.2)) with
      | (.error f, s2) => (.error f, s2)
      | (.ok (es, more), s2) =>
        let row (r : Nat) : List Byte :=
          let mine := (cells.zip es).filter fun q => q.1.1 == r
          padTo (64 * ceilDiv x.bytes 64) (packElems d.fmt ((List.range n).map fun j => match mine.find? fun q => q.1.2 == j with
            | some q => q.2
            | none => 0))
        (.ok (((List.range x.rows).map row, masked.length), more), s2)

/-- The data of a LOAD has come: its segments are presented to the A port from the next cycle on. -/
def Tess.startLanding (t : Tess) (x : Xfer) (rows : List (List Byte)) : Tess :=
  { t with aJobs := t.aJobs ++ [{
      id := x.id, kind := .load, start := t.cycle + 1, issue := t.cycle
      writes := (x.boxSegs.zip (rows.flatMap (chunks 64))).map fun (y : Nat × List Byte) => (t.cycle + 1, y.1, y.2) }] }

/-- A LOAD's data reaches the tessera. -/
def State.landLoad (s : State) (die t : Nat) (c : Cmd) (x : Xfer) : State :=
  readThen c.id (s.loadBox die t c x) fun b s1 =>
    (((s1.modTessera (tessKey die t) fun y => y.startLanding x b.1).modDie die fun y => { y with mrows := sat64 (y.mrows + b.2) })).modCmd
      c.id fun y => { y with remote := [] }

/-- A LOAD in flight of a halted tessera lands (R164), with every earlier one; one that fails, or whose module is lost, is gone. The
last is followed by the copy of R560. -/
def State.landHalted (s : State) (die t : Nat) (c : Cmd) (x : Xfer) : State :=
  let k := tessKey die t
  let gone (u : State) : State := u.modTessera k fun y => { y with xfers := y.xfers.filter (·.id != x.id) }
  let s2 := match s.loadBox die t c x with
    | (.error _, s1) => gone s1
    | (.ok (b, miss), s1) =>
      if miss = [] then
        (s1.modTessera k fun y =>
          (({ t := y.startLanding x b.1, d := {}, g := {}, factor := none } : Sim).complete simFuel).t).modDie die fun y =>
            { y with mrows := sat64 (y.mrows + b.2) }
      else if (s1.peer (remoteModule (miss.headD 0 * 32))).reachable then s1.fetch c.id miss
      else gone s1
  (s2.modTessera k fun y => if y.xfers.isEmpty then { y with failed := none } else y).snapshot die t

/-- A STORE reaches memory and is acknowledged (R123, R387), or its granules leave for another module. -/
def State.landStore (s : State) (die t : Nat) (c : Cmd) (x : Xfer) : State :=
  let d := c.descD 0x08
  let k := tessKey die t
  planThen c.id (s.planElems ((c.eng (some die)).by (tessSeer k)) d (x.storeItems d) []) fun ws s1 =>
    s1.putWrites c (some die) (tessSeer k) ws (fun a u => u.fail c.id (Fail.ecc a).ending) fun u =>
      (u.modTessera k fun y => { y with xfers := y.xfers.filter (·.id != x.id) }).modCmd c.id fun y => { y with remote := [] }

/- ---- which transfer may end (R164, R385) ---- -/

/-- The device addresses of a transfer's elements. -/
def State.xferPas (s : State) (c : Cmd) (x : Xfer) : List Nat :=
  let d := c.xferDesc x
  let cells := (List.range x.rows).flatMap fun r => (List.range x.cols).map fun j => x.index r j
  match (s.resolveAll c.id.ctx (!x.load) d.place (((cells.filter d.inside).map d.own).flatMap d.elemBytes)).1 with
  | .ok pas => pas
  | .error _ => []

/-- No earlier transfer of the A-stream that is still in flight shares an address with transfer number k (R385). -/
def State.inOrder (s : State) (c : Cmd) (l : List Xfer) (k : Nat) : Bool :=
  match l[k]? with
  | none => false
  | some x =>
    let before := l.take k
    before.isEmpty || (let mine := s.xferPas c x; before.all fun y => (s.xferPas c y).all fun a => !mine.contains a)

/-- The transfer number k of a tessera that runs, or that halted with LOADs in flight (R164), whose data has not come yet and whose
turn it is. -/
def State.xferAt (s : State) (die t k : Nat) : Option (Cmd × Xfer) :=
  let x := s.tessera (tessKey die t)
  let c := if x.st = .running then s.itemCmd die t else if x.st = .halted then x.failed else none
  match c, x.xfers[k]? with
  | some c, some f => if !(x.aJobs.any fun j => j.id == f.id && j.kind == .load) && s.inOrder c x.xfers k then some (c, f) else none
  | _, _ => none

/- ---- a STORE reads its box (R115) ---- -/

/-- A stream may issue or halt in the current cycle. -/
def Sim.aCan (m : Sim) (c : Cmd) : Bool :=
  let w := m.aWord
  !m.t.aEnded && decide (m.t.aNext ≤ m.t.cycle) && ((presentHalt m.t false (aReserved c w) w).isSome ||
    ((aReads c w).all (fun r => decide (m.t.aReadable r ≤ m.t.cycle)) && ((m.t.queueServes w).any fun k => decide (k ≤ m.t.cycle)) && !m.aHeld c w))
def Sim.xCan (m : Sim) : Bool :=
  let w := m.xWord
  !m.t.xEnded && decide (m.t.xNext ≤ m.t.cycle) && ((presentHalt m.t true (xReserved w) w).isSome ||
    (m.unitFree w && (m.t.queueServes w).any fun k => decide (k ≤ m.t.cycle)))

/-- Cycles pass until the A port has read a STORE's box, or a stream has its turn. -/
def Sim.reads (m : Sim) (c : Cmd) (id : Nat) : Sim :=
  m.till (fun x => !(x.t.aJobs.any fun j => j.id == id) || x.aCan c || x.xCan) simFuel

/-- A STORE whose box is not read yet lets cycles pass; then it reaches memory. -/
def State.endStore (s : State) (die t : Nat) (c : Cmd) (x : Xfer) : State :=
  match s.sim die t with
  | none => s
  | some (_, m0) =>
    let m := m0.reads c x.id
    match m.bad with
    | some (r, pc) => s.haltX die t c m r pc
    | none =>
      let s1 := s.putSim die t c m
      if m.t.aJobs.any fun j => j.id == x.id then s1
      else match m.t.xfers.find? fun y => y.id == x.id with
        | some y => s1.landStore die t c y
        | none => s1

/-- TRANSFER_COMPLETE (R124). -/
def execTransferComplete (die t k : Nat) (env : Env) (s : State) : Ans :=
  match s.xferAt die t k with
  | none => .next s
  | some _ => s.within env fun s1 => match s1.xferAt die t k with
    | none => s1
    | some (c, x) =>
      if (s1.tessera (tessKey die t)).st = .halted then s1.landHalted die t c x
      else s1.sramFail c.id env fun s2 => if x.load then s2.landLoad die t c x else s2.endStore die t c x

end Sys2Proof.Machine
end

