-- ==== Sys2Proof/Machine/Attention.lean ====
section
/-! DEFINITION. The attention pipelines (spec 09): units (R241), the forward pass (R242 to R250), the merge of partials (R255) and
the backward pass (R256 to R258). -/

namespace Sys2Proof.Machine

/- ---- the shape of a command ---- -/

/-- Index tuple of an element tensor: dimension 4 only with a batch. -/
def attnIdx (d : Desc) (c n h b : Nat) : List Nat := if d.size.length = 4 then [c, n, h, b] else [c, n, h]

/-- The rows n to n + k - 1 of a head, channel by channel. -/
def attnRows (d : Desc) (n k h b : Nat) : List (List Nat) :=
  (List.range k).flatMap fun i => (List.range (d.dim 0)).map fun c => attnIdx d c (n + i) h b

/-- Operands common to the three opcodes that score. -/
structure AttnCmd where
  q : Desc
  k : Desc
  v : Desc
  scale : W32
  qpos0 : Nat
  kpos0 : Nat
  window : Nat
  causal : Bool
  biased : Bool
  masked : Bool
  nq : Nat
  nk : Nat
  hq : Nat
  hkv : Nat
deriving DecidableEq, Repr

def Cmd.attnCmd (c : Cmd) : AttnCmd :=
  let af := u16 c.raw 0x38
  { q := c.descD 0x0A, k := c.descD 0x0C, v := c.descD 0x0E, scale := w32 c.raw 0x24, qpos0 := bits (u32 c.raw 0x28) 23 0,
    kpos0 := bits (u32 c.raw 0x2C) 23 0, window := bits (u32 c.raw 0x30) 23 0, causal := bits af 1 0 == 1, biased := bits af 4 3 == 1,
    masked := bit af 2, nq := (c.descD 0x0A).dim 1, nk := (c.descD 0x0C).dim 1, hq := (c.descD 0x0A).dim 2, hkv := (c.descD 0x0C).dim 2 }

def AttnCmd.nqb (a : AttnCmd) : Nat := ceilDiv a.nq 64
def AttnCmd.nkb (a : AttnCmd) : Nat := ceilDiv a.nk 64
/-- Rows of a query block and of a key block. -/
def AttnCmd.rowsQ (a : AttnCmd) (i : Nat) : Nat := min 64 (a.nq - 64 * i)
def AttnCmd.rowsK (a : AttnCmd) (j : Nat) : Nat := min 64 (a.nk - 64 * j)

/-- R243 for a pair that exists; `blockBit` is the block's mask bit. -/
def AttnCmd.pairMasked (a : AttnCmd) (blockBit : Bool) (i j : Nat) : Bool :=
  let d : Int := (a.qpos0 + i : Nat) - (a.kpos0 + j : Nat)
  (a.causal && decide (d < 0)) || (decide (a.window ≠ 0) && decide (a.window ≤ d.natAbs)) || !blockBit

/-- R244: every pair of a block is masked. -/
def AttnCmd.blockSkipped (a : AttnCmd) (blockBit : Bool) (ib jb : Nat) : Bool :=
  (List.range (a.rowsQ ib)).all fun i => (List.range (a.rowsK jb)).all fun j => a.pairMasked blockBit (64 * ib + i) (64 * jb + j)

/-- The score of a pair (R242, R245). -/
def AttnCmd.pairScore (a : AttnCmd) (bias : List Nat) (qr kr : List Fp) (i j : Nat) : W32 :=
  let d : Int := (a.qpos0 + i : Nat) - (a.kpos0 + j : Nat)
  score (dotFp qr kr) a.scale (if a.biased then Fmt.fp16.decode (bias.getD (bucket d.natAbs) 0) else Fp.zero)

/-- Rows of values from the encodings read. -/
def arrayRows (f : Fmt) (n : Nat) (es : List Nat) : List (List Fp) := chunks n (es.map (arrayValue f))
def plainRows (f : Fmt) (n : Nat) (es : List Nat) : List (List Fp) := chunks n (es.map f.decode)

/- ---- reading ---- -/

/-- A part of a command's work as reads in sequence: missing remote granules gather, a failure ends it. -/
abbrev Reader (α : Type) := State → Except Fail (α × List Nat) × State

def Reader.pure {α : Type} (a : α) : Reader α := fun s => (.ok (a, []), s)
def Reader.bind {α β : Type} (r : Reader α) (f : α → Reader β) : Reader β := fun s =>
  match r s with
  | (.error e, s1) => (.error e, s1)
  | (.ok (a, m), s1) =>
    match f a s1 with
    | (.error e, s2) => (.error e, s2)
    | (.ok (b, n), s2) => (.ok (b, m ++ n), s2)

def Reader.elems (e : Eng) (d : Desc) (idx : List (List Nat)) : Reader (List Nat) := fun s => s.readElems e d idx

/-- Fold over a list with reads. -/
def Reader.fold {α β : Type} (f : β → α → Reader β) : List α → β → Reader β
  | [], b => Reader.pure b
  | a :: r, b => (f b a).bind (Reader.fold f r)

/-- The bias entries of a head, read once per unit (R245). -/
def readBias (e : Eng) (c : Cmd) (a : AttnCmd) (h : Nat) : Reader (List Nat) :=
  if a.biased then Reader.elems e (c.descD 0x10) ((List.range 108).map fun i => [i, h]) else Reader.pure []

/-- The mask bit of a block (R243). -/
def readMask (e : Eng) (c : Cmd) (a : AttnCmd) (b ib jb : Nat) : Reader Bool :=
  if a.masked then
    let n := (b * a.nqb + ib) * a.nkb + jb
    (Reader.elems e (c.descD 0x22) [[n / 8]]).bind fun x => Reader.pure (bit (x.headD 0) (n % 8))
  else Reader.pure true

/- ---- the forward pass ---- -/

/-- P's format and sigma by the format of V (R235). -/
def pFormat : Fmt → Fmt × Fp
  | .bf16 => (.bf16, Fp.one)
  | .fp16 => (.fp16, .fin false 256 0)
  | _ => (.e4m3, .fin false 256 0)

/-- What a unit leaves: element writes, counts of R251, blocks computed, blocks skipped. -/
structure UnitOut where
  writes : List (Nat × List Nat × Nat) := []
  nan : Nat := 0
  done_ : Nat := 0
  skipped : Nat := 0
  zero : Nat := 0
  clipped : Nat := 0
deriving DecidableEq, Repr

/-- One key block of a forward unit. -/
def fwdBlock (e : Eng) (c : Cmd) (a : AttnCmd) (ib h b : Nat) (bias : List Nat) (qs : List (List Fp))
    (st : List Row × UnitOut) (jb : Nat) : Reader (List Row × UnitOut) :=
  let g := h * a.hkv / a.hq
  (readMask e c a b ib jb).bind fun mb =>
    if a.blockSkipped mb ib jb then Reader.pure (st.1, { st.2 with skipped := st.2.skipped + 1 })
    else
      (Reader.elems e a.k (attnRows a.k (64 * jb) (a.rowsK jb) g b)).bind fun ke =>
        (Reader.elems e a.v (attnRows a.v (64 * jb) (a.rowsK jb) g b)).bind fun ve =>
          let ks := arrayRows a.k.fmt (a.k.dim 0) ke
          let vs := arrayRows a.v.fmt (a.v.dim 0) ve
          let pf := pFormat a.v.fmt
          let rp (x : Fp) : Fp := arrayValue pf.1 (convert pf.1 false x).enc
          let rows := ((st.1.zip qs).zipIdx).map fun r =>
            let ss := ks.zipIdx.map fun k =>
              if a.pairMasked mb (64 * ib + r.2) (64 * jb + k.2) then f32negInf
              else a.pairScore bias r.1.2 k.1 (64 * ib + r.2) (64 * jb + k.2)
            r.1.1.update ss vs rp pf.2
          Reader.pure (rows, { st.2 with done_ := st.2.done_ + 1 })

/-- The rows of a unit as writes of its destinations (R250). -/
def writeRows (c : Cmd) (d : Desc) (isPart : Bool) (vscale : W32) (n0 h b : Nat) (rows : List Row) (o : UnitOut) : UnitOut :=
  let outs := rows.zipIdx.map fun r => (r.2, r.1, r.1.out d.fmt isPart vscale)
  let el := outs.flatMap fun r => r.2.2.1.zipIdx.map fun x => (0x08, attnIdx d x.2 (n0 + r.1) h b, x.1)
  let st := match c.desc 0x20 with
    | some x => outs.flatMap fun r => [(0x20, attnIdx x 0 (n0 + r.1) h b, r.2.1.m.toNat), (0x20, attnIdx x 1 (n0 + r.1) h b, r.2.1.l.toNat)]
    | none => []
  { o with
    writes := o.writes ++ el ++ st, nan := o.nan + rows.countP (fun r => isNan32 r.m), zero := o.zero + rows.countP (fun r => (ofF32 r.l).isZero)
    clipped := o.clipped + (outs.map fun r => r.2.2.2).foldl (· + ·) 0 }

/-- A unit of ATTN_FWD. -/
def fwdUnit (e : Eng) (c : Cmd) (u : Nat) : Reader UnitOut :=
  let a := c.attnCmd
  let ib := u % a.nqb
  let h := u / a.nqb % a.hq
  let b := u / a.nqb / a.hq
  (Reader.elems e a.q (attnRows a.q (64 * ib) (a.rowsQ ib) h b)).bind fun qe =>
    (readBias e c a h).bind fun bias =>
      let qs := arrayRows a.q.fmt (a.q.dim 0) qe
      let start := qs.map fun _ => Row.mk f32negInf 0 (List.replicate (a.v.dim 0) 0)
      (Reader.fold (fwdBlock e c a ib h b bias qs) (List.range a.nkb) (start, {})).bind fun r =>
        Reader.pure (writeRows c (c.descD 0x08) (bit (u16 c.raw 0x38) 5) (w32 c.raw 0x34) (64 * ib) h b r.1 r.2)

/- ---- the merge (R255) ---- -/

/-- One round: neighbours merge, a last one passes. -/
def mergeRound : List Row → List Row
  | a :: b :: r => a.merge b :: mergeRound r
  | l => l

/-- Rounds until one part remains (the fuel is the number of parts). -/
def mergeAll : Nat → List Row → Row
  | 0, l => l.headD (Row.nan 0)
  | n + 1, l => match l with
    | [r] => r
    | l => mergeAll n (mergeRound l)

/-- A unit of ATTN_MERGE: 64 rows of one head. -/
def mergeUnit (e : Eng) (c : Cmd) (u : Nat) : Reader UnitOut :=
  let o := c.descD 0x08
  let src := c.descD 0x0A
  let st := c.descD 0x0C
  let p := src.size.getD o.size.length 1
  let nb := ceilDiv (o.dim 1) 64
  let ib := u % nb
  let h := u / nb % o.dim 2
  let b := u / nb / o.dim 2
  let n := min 64 (o.dim 1 - 64 * ib)
  let idx (d : Desc) (c n k : Nat) : List Nat := attnIdx o c n h b ++ (if d.size.length = o.size.length + 1 then [k] else [])
  let rows := (List.range n).flatMap fun i => (List.range p).map fun k => (64 * ib + i, k)
  (Reader.elems e src (rows.flatMap fun r => (List.range (o.dim 0)).map fun c => idx src c r.1 r.2)).bind fun oe =>
    (Reader.elems e st (rows.flatMap fun r => [idx st 0 r.1 r.2, idx st 1 r.1 r.2])).bind fun se =>
      let w (x : Nat) : W32 := BitVec.ofNat 32 x
      let parts := ((chunks (o.dim 0) oe).zip (chunks 2 se)).map fun x => Row.mk (w (x.2.getD 0 0)) (w (x.2.getD 1 0)) (x.1.map w)
      let merged := (chunks p parts).map fun l => mergeAll p l
      Reader.pure (writeRows c o (bit (u16 c.raw 0x38) 5) f32one (64 * ib) h b merged { done_ := n * (p - 1) })

/- ---- the backward pass (R257, R258) ---- -/

/-- What a block pair needs of a query block: rows of Q, dO, the statistics and D. -/
structure BwdRows where
  q  : List (List Fp)
  go : List (List Fp)
  m  : List W32
  l  : List W32
  d  : List W32
deriving DecidableEq, Repr

def readBwd (e : Eng) (c : Cmd) (a : AttnCmd) (ib h b : Nat) : Reader BwdRows :=
  let o := c.descD 0x34
  let g := c.descD 0x36
  let st := c.descD 0x20
  let n := a.rowsQ ib
  (Reader.elems e a.q (attnRows a.q (64 * ib) n h b)).bind fun qe =>
    (Reader.elems e o (attnRows o (64 * ib) n h b)).bind fun oe =>
      (Reader.elems e g (attnRows g (64 * ib) n h b)).bind fun ge =>
        (Reader.elems e st (attnRows st (64 * ib) n h b)).bind fun se =>
          let os := plainRows o.fmt (o.dim 0) oe
          let gs := plainRows g.fmt (g.dim 0) ge
          let ss := chunks 2 (se.map (BitVec.ofNat 32))
          Reader.pure { q := arrayRows a.q.fmt (a.q.dim 0) qe, go := arrayRows g.fmt (g.dim 0) ge, m := ss.map fun x => x.getD 0 0,
                        l := ss.map fun x => x.getD 1 0, d := (gs.zip os).map fun x => toF32 (dotFp x.1 x.2) }

/-- bf16 of a value as the arrays take it. -/
def bf16In (w : W32) : Fp := arrayValue .bf16 (convert .bf16 false (ofF32 w)).enc

/-- p and dS of a pair (R257). -/
def bwdPair (a : AttnCmd) (bias : List Nat) (mb : Bool) (r : BwdRows) (i : Nat) (kr vr : List Fp) (qi kj : Nat) : Fp × Fp :=
  if a.pairMasked mb qi kj then (Fp.zero, Fp.zero)
  else
    let m := r.m.getD i 0
    let l := r.l.getD i 0
    let s := a.pairScore bias (r.q.getD i []) kr qi kj
    let p := if isNan32 m || isNan32 l then f32nan
      else if !(ofF32 l).isZero && m != f32negInf then f32mul (expF32 (f32sub s m)) (sfuRcp l)
      else 0
    let dp := toF32 (dotFp (r.go.getD i []) vr)
    (bf16In p, bf16In (f32mul p (f32sub dp (r.d.getD i 0))))

/-- Add one block's exact sums to an accumulator row (a factor of zero contributes nothing). -/
def bwdAdd (acc : List W32) (terms : List (Fp × List Fp)) : List W32 :=
  acc.zipIdx.map fun x => f32add x.1 (toF32 (sumFp ((terms.filter fun t => !t.1.isZero).map fun t => t.1.mul (t.2.getD x.2 Fp.zero))))

/-- Accumulators of a unit: dQ or dK rows, and dV rows. -/
structure BwdAcc where
  k : List (List W32)
  v : List (List W32) := []
  out : UnitOut := {}
deriving DecidableEq, Repr

/-- One block pair: updates accumulators of query rows (BWD_Q) or of key rows (BWD_KV). -/
def bwdBlock (e : Eng) (c : Cmd) (a : AttnCmd) (kv : Bool) (h b : Nat) (bias : List Nat) (r0 : Option BwdRows) (x : BwdAcc) (ij : Nat × Nat) :
    Reader BwdAcc :=
  let g := h * a.hkv / a.hq
  (readMask e c a b ij.1 ij.2).bind fun mb =>
    if a.blockSkipped mb ij.1 ij.2 then Reader.pure { x with out := { x.out with skipped := x.out.skipped + 1 } }
    else
      (match r0 with
        | some y => Reader.pure y
        | none => readBwd e c a ij.1 h b).bind fun r =>
      (Reader.elems e a.k (attnRows a.k (64 * ij.2) (a.rowsK ij.2) g b)).bind fun ke =>
        (Reader.elems e a.v (attnRows a.v (64 * ij.2) (a.rowsK ij.2) g b)).bind fun ve =>
          let ks := arrayRows a.k.fmt (a.k.dim 0) ke
          let vs := arrayRows a.v.fmt (a.v.dim 0) ve
          let pairAt (i j : Nat) : Fp × Fp := bwdPair a bias mb r i (ks.getD j []) (vs.getD j []) (64 * ij.1 + i) (64 * ij.2 + j)
          let out := { x.out with done_ := x.out.done_ + 1 }
          if kv then
            let counted := { out with nan := out.nan + r.m.countP isNan32, zero := out.zero + r.l.countP fun l => (ofF32 l).isZero }
            let is := List.range (a.rowsQ ij.1)
            Reader.pure { k := x.k.zipIdx.map fun (y : List W32 × Nat) => bwdAdd y.1 (is.map fun i => ((pairAt i y.2).2, r.q.getD i []))
                          v := x.v.zipIdx.map fun (y : List W32 × Nat) => bwdAdd y.1 (is.map fun i => ((pairAt i y.2).1, r.go.getD i []))
                          out := counted }
          else
            let js := List.range (a.rowsK ij.2)
            Reader.pure { k := x.k.zipIdx.map fun (y : List W32 × Nat) => bwdAdd y.1 (js.map fun j => ((pairAt y.2 j).2, ks.getD j [])), v := x.v, out := out }

/-- Accumulated gradients as writes of one destination. -/
def gradWrites (off : Nat) (d : Desc) (scale : W32) (n0 h b : Nat) (rows : List (List W32)) (o : UnitOut) : UnitOut :=
  let cs := rows.zipIdx.flatMap fun r => r.1.zipIdx.map fun x => (attnIdx d x.2 (n0 + r.2) h b, convert d.fmt false ((ofF32 x.1).mul (ofF32 scale)))
  { o with writes := o.writes ++ cs.map (fun x => (off, x.1, x.2.enc)), clipped := o.clipped + clippedOf (cs.map (·.2)) }

/-- A unit of ATTN_BWD_Q: key blocks in increasing j. -/
def bwdQUnit (e : Eng) (c : Cmd) (u : Nat) : Reader UnitOut :=
  let a := c.attnCmd
  let ib := u % a.nqb
  let h := u / a.nqb % a.hq
  let b := u / a.nqb / a.hq
  (readBias e c a h).bind fun bias =>
    (readBwd e c a ib h b).bind fun r =>
      let start : BwdAcc := { k := r.q.map fun _ => List.replicate (a.q.dim 0) 0
                              out := { nan := r.m.countP isNan32, zero := r.l.countP fun l => (ofF32 l).isZero } }
      (Reader.fold (bwdBlock e c a false h b bias (some r)) ((List.range a.nkb).map fun j => (ib, j)) start).bind fun x =>
        Reader.pure (gradWrites 0x08 (c.descD 0x08) a.scale (64 * ib) h b x.k x.out)

/-- A unit of ATTN_BWD_KV: query heads of g in increasing h, each one's query blocks in increasing i. -/
def bwdKvUnit (e : Eng) (c : Cmd) (u : Nat) : Reader UnitOut :=
  let a := c.attnCmd
  let jb := u % a.nkb
  let g := u / a.nkb % a.hkv
  let b := u / a.nkb / a.hkv
  let per := a.hq / a.hkv
  let n := a.rowsK jb
  let start : BwdAcc := { k := List.replicate n (List.replicate (a.k.dim 0) 0), v := List.replicate n (List.replicate (a.v.dim 0) 0) }
  (Reader.fold (fun x h => (readBias e c a h).bind fun bias =>
      Reader.fold (bwdBlock e c a true h b bias none) ((List.range a.nqb).map fun i => (i, jb)) x)
    ((List.range per).map (· + g * per)) start).bind fun x =>
      Reader.pure (gradWrites 0x3A (c.descD 0x3A) f32one (64 * jb) g b x.v
        (gradWrites 0x08 (c.descD 0x08) a.scale (64 * jb) g b x.k x.out))

/- ---- units on pipelines ---- -/

def pipeKey (die p : Nat) : Nat := 16 * die + p

/-- Plan the writes of a unit, element after element. -/
def State.planUnit (s : State) (e : Eng) (c : Cmd) : List (Nat × List Nat × Nat) → List (Nat × Byte) → Except Fail (List (Nat × Byte)) × State
  | [], acc => (.ok acc, s)
  | (off, i, v) :: r, acc =>
    match s.planElems e (c.descD off) [(i, v)] acc with
    | (.error f, s1) => (.error f, s1)
    | (.ok a, s1) => s1.planUnit e c r a

/-- The counts of a command with a unit's. -/
def DocCounts.addUnit (n : DocCounts) (o : UnitOut) : DocCounts :=
  { c0 := n.c0 + o.nan, c1 := n.c1 + o.done_, c2 := n.c2 + o.skipped, c3 := n.c3 + o.zero, c4 := n.c4 + o.clipped }

/-- What a unit did is counted in its die (R232, R260), and its pipeline is free. -/
def State.countUnit (s : State) (c : Cmd) (die p : Nat) (o : UnitOut) : State :=
  let s1 := s.modPipe (pipeKey die p) fun x => { x with running := false, cmd := none }
  s1.modDie die fun x => { x with
    apBlocks := if opc c.raw = 2 then x.apBlocks else sat64 (x.apBlocks + o.done_), apSkipped := sat64 (x.apSkipped + o.skipped)
    apNan := if opc c.raw ≤ 2 then sat64 (x.apNan + o.nan) else x.apNan }

/-- The record of an attention command (R251). -/
def attnEnding (n : DocCounts) : Ending :=
  { status := .ok, detail := sat32 n.c0, r0 := sat32 n.c1, r1 := sat32 n.c2, r2 := sat32 n.c3, r3 := sat32 n.c4 }

/-- A unit's rows are written: its counts are added, and the last unit ends the command's work. -/
def State.unitEnds (s : State) (c : Cmd) (a : AttnWork) (die p : Nat) (o : UnitOut) : State :=
  let a1 := { a with fin := a.fin + 1, counts := a.counts.addUnit o }
  let s1 := (s.countUnit c die p o).modCmd c.id fun x => { x with work := .attn a1 }
  if a1.fin = attnUnits c.raw c.descs then s1.finish c.id (attnEnding a1.counts) else s1

/-- A unit is computed: its pipeline writes its rows (R241, R385); while granules of another module that it covers in part are on
their way, the unit is not done. A write that merges with an uncorrectable granule fails the command (R491). -/
def State.unitDone (s : State) (c : Cmd) (die p : Nat) (o : UnitOut) (ws : List (Nat × Byte)) : State :=
  match c.work with
  | .attn a => s.putWrites c (some die) (pipeSeer (pipeKey die p)) ws
      (fun g t => (t.countUnit c die p o).fail c.id (Fail.ecc g).ending)
      fun t => if (t.pipe (pipeKey die p)).running then t.unitEnds c a die p o else t
  | _ => s

/-- The command whose unit a pipeline runs. -/
def State.pipeCmd (s : State) (die p op : Nat) : Option Cmd :=
  match (s.pipe (pipeKey die p)).cmd with
  | some id => (s.running id 2 op).filter fun _ => (s.pipe (pipeKey die p)).running
  | none => none

/-- Run the unit of a pipeline. -/
def State.pipeline (s : State) (die p op : Nat) (env : Env) (f : Eng → Cmd → Nat → Reader UnitOut) : Ans :=
  match s.pipeCmd die p op with
  | none => .next s
  | some _ => s.within env fun s1 =>
    match s1.pipeCmd die p op with
    | none => s1
    | some c => s1.sramFail c.id env fun s2 =>
      let e := (c.eng (some die)).by (pipeSeer (pipeKey die p))
      readThen c.id (f e c (s2.pipe (pipeKey die p)).unit s2) fun o s3 =>
        planThen c.id (s3.planUnit e c o.writes []) fun ws s4 => s4.unitDone c die p o ws

def execAttnFwd (die pipe : Nat) (env : Env) (s : State) : Ans := s.pipeline die pipe 1 env fwdUnit
def execAttnMerge (die pipe : Nat) (env : Env) (s : State) : Ans := s.pipeline die pipe 2 env mergeUnit
def execAttnBwdQ (die pipe : Nat) (env : Env) (s : State) : Ans := s.pipeline die pipe 3 env bwdQUnit
def execAttnBwdKv (die pipe : Nat) (env : Env) (s : State) : Ans := s.pipeline die pipe 4 env bwdKvUnit

/-- Of two commands of a die, the one that started earlier. -/
def earlier (a b : Cmd) : Cmd := if b.startAt < a.startAt then b else a

/-- ATTN_UNIT_TAKE: a free pipeline takes the next unit of the earliest started command that has one for it (R241). -/
def execAttnUnitTake (die pipe : Nat) (s : State) : Ans :=
  if die < 8 && pipe < 16 && !(s.pipe (pipeKey die pipe)).running then
    let may := s.cmds.filter fun c => cls c.raw == 2 && c.allStarted && c.ending.isNone && c.attnLeft && targetDie c.raw == die &&
      (!pinned c.raw || targetTess c.raw == pipe)
    match may with
    | [] => .next s
    | c :: r =>
      let x := r.foldl earlier c
      match x.work with
      | .attn a =>
        done ((s.modCmd x.id fun y => { y with work := .attn { a with next := a.next + 1 } }).modPipe (pipeKey die pipe) fun _ =>
          { running := true, context := x.id.ctx, opcode := opc x.raw, cmd := some x.id, unit := a.next })
      | _ => .next s
  else .next s

/-- TD_AP_CTL CLEAR (R259). -/
def execTdApCtlClear (fn die : Nat) (s : State) : Ans :=
  if s.regsOpen fn && isPf fn && die < 8 then done (s.modDie die fun x => { x with apBlocks := 0, apSkipped := 0, apNan := 0 }) else .next s

end Sys2Proof.Machine
end

