-- ==== Sys2Proof/Machine/Docents.lean ====
section
/-! DEFINITION. The docents (spec 10, R272 to R297; 11, R321 to R324): the tasks of a command, one item of a task at a time, the
merge units, and the results the home stack writes. -/

namespace Sys2Proof.Machine

/- ---- bank operands at their accepted place (R268) ---- -/

/-- The physical address of a byte of a bank-pool operand. -/
def Cmd.placed (c : Cmd) (va : Nat) : Nat := Assoc.get 0 c.places (va / 512) + va % 512

/-- Stack and bank of a bank-view address. -/
def bankOfPa (pa : Nat) : Nat × Nat := (bits pa 40 37, 64 * bits pa 36 33 + bits pa 32 27)

/-- The docent of a task reads and writes for its command (R385). -/
def Cmd.docEng (c : Cmd) (t : DocTask) : Eng := (c.eng none).by (docentSeer t.stack t.bank)

/-- Read elements of a bank-pool operand. -/
def State.bankRead (s : State) (c : Cmd) (t : DocTask) (d : Desc) (idx : List (List Nat)) : Except Fail (List Nat) × State :=
  let pas := idx.map fun i => c.placed (d.elem i).1
  match s.touch c.id.ctx none (granules (pas.flatMap fun a => [a, a + d.fmt.bytes - 1])) (c.docEng t).who with
  | (some a, s1) => (.error (.ecc a), s1)
  | (none, s1) => (.ok ((pas.zip idx).map fun p => elemFrom d.fmt (s1.see (c.docEng t)) p.1 (d.elem p.2).2), s1)

/-- The writes of elements of a bank-pool operand over earlier ones. -/
def State.bankWrite (s : State) (c : Cmd) (t : DocTask) (d : Desc) (items : List (List Nat × Nat)) (acc : List (Nat × Byte)) :
    List (Nat × Byte) :=
  items.foldl (fun a i => elemWrite d.fmt (s.standing (c.docEng t)) a (c.placed (d.elem i.1).1) (d.elem i.1).2 i.2) acc

/-- The index tuples of a row. -/
def Desc.rowIdx (d : Desc) (rest : List Nat) : List (List Nat) := (List.range (d.dim 0)).map fun i => i :: rest

/- ---- the work of a docent command ---- -/

def State.modDoc (s : State) (id : CmdId) (f : DocWork → DocWork) : State :=
  s.modCmd id fun c => match c.work with
    | .doc d => { c with work := .doc (f d) }
    | _ => c

def Cmd.doc (c : Cmd) : DocWork :=
  match c.work with
  | .doc d => d
  | _ => {}

/-- The stacks of a docent command's parts. -/
def Cmd.parts (c : Cmd) : List Nat := c.engines.filterMap fun e => match e with
  | .registrar k => some k
  | _ => none

def Cmd.home (c : Cmd) : Nat := c.parts.foldl min (c.parts.headD 0)

/-- A part of a command fails: its tasks and partials are gone (R273). -/
def DocWork.failPart (d : DocWork) (k : Nat) (e : Ending) : DocWork :=
  { d with
    planned := insertNat d.planned k, tasks := d.tasks.filter (fun t => t.stack != k), arrived := d.arrived.filter (fun a => a.1 != k),
    merged := d.merged.filter (fun a => a.1 != k), failed := d.failed ++ [(k, e)] }

/-- Tasks of a stack from items with their banks. -/
def mkTasks (k : Nat) (l : List ((Nat × Nat) × DocItem)) : List DocTask :=
  let mine := l.filter fun x => x.1.1 == k
  (sortNat (mine.map fun x => x.1.2)).map fun b =>
    { stack := k, bank := b, st := .waiting, items := (mine.filter fun x => x.1.2 == b).map (·.2) }

/-- The bank of a group of elements. -/
def Cmd.groupBank (c : Cmd) (g : List (Desc × List (List Nat))) : Nat × Nat :=
  match g with
  | (d, i :: _) :: _ => bankOfPa (c.placed (d.elem i).1)
  | _ => (0, 0)

/-- Items of the commands whose work is fixed by placement. -/
def Cmd.placedItems (c : Cmd) : List ((Nat × Nat) × DocItem) :=
  let banks := (docentGroups c.raw c.descs).map c.groupBank
  match opc c.raw with
  | 1 => banks.zipIdx.map fun x => (x.1, .row x.2)
  | 4 => (banks.zip (tuples (c.descD 0x08).size)).map fun x => (x.1, .elems x.2)
  | 5 => (banks.zip (c.descD 0x0A).rows).map fun x => (x.1, .elems x.2)
  | _ => (banks.zip (c.descD 0x08).rows).map fun x => (x.1, .elems x.2)

/-- A GATHER_REDUCE's index list (R278): the smallest position of a bad index, or its items with the number of paddings. -/
def Cmd.picks (c : Cmd) (ns : List Nat) : Except Nat (List ((Nat × Nat) × DocItem) × Nat) :=
  let t := c.descD 0x0A
  let l := (c.descD 0x0C).dim 0
  let idx := ns.zipIdx.map fun x => (x.2, toSigned 32 x.1)
  match idx.find? fun x => decide ((t.dim 1 : Int) ≤ x.2) with
  | some x => .error x.1
  | none =>
    let good := idx.filter fun x => decide (0 ≤ x.2)
    .ok (good.map fun x =>
      let r := x.2.toNat
      (bankOfPa (c.placed (t.elem [0, r]).1), .pick (x.1 % l) (x.1 / l) r), idx.length - good.length)

/- ---- the walk of ATTN_PARTIAL (R321, R322) ---- -/

/-- Visible pages in the order emitted. -/
def visiblePages (len n : Nat) : List Nat :=
  if len = 0 then [] else
  let last := (len - 1) / n
  if last = 0 then [0] else last :: 0 :: ((List.range (last - 1)).map fun i => last - 1 - i)

/-- The descriptors of one sequence and head; a page that holds a position at or above CLEN is FRESH. -/
def State.walkSeq (s : State) (ctx : Nat) (l : Layout) (layer b g seq qpos task : Nat) : List ((Nat × Nat) × DocItem) :=
  let x := s.ctx ctx
  let len := min (x.rlenOf seq) (qpos + 1)
  (visiblePages len l.n).filterMap fun p =>
    (s.page ctx seq (layer * l.hkv + g) p).map fun e =>
      ((e.stack, e.bank), .page ⟨e.frame, decide (x.clenOf seq < p * l.n + l.n), p * l.n, min l.n (len - p * l.n), b, g, task⟩)

/-- The place of a command in a registrar's queue. -/
def State.entryNo (s : State) (k : Nat) (c : Cmd) : Nat := (s.cmds.filter fun x => x.holds (.registrar k)).findIdx fun x => x.id == c.id

/-- The walk of one stack, or the position of a bad sequence number. -/
def State.walkStack (s : State) (c : Cmd) (l : Layout) (k : Nat) (seqs qs : List Nat) : Except Nat (List ((Nat × Nat) × DocItem)) :=
  match seqs.zipIdx.find? fun x => decide (l.seqMax ≤ x.1) with
  | some x => .error x.2
  | none =>
    let layer := u16 c.raw 0x22
    let heads := (List.range l.hkv).filter fun g => pairStack (layer * l.hkv + g) == k
    .ok ((seqs.zip qs).zipIdx.flatMap fun x => heads.flatMap fun g => s.walkSeq c.id.ctx l layer x.2 g x.1.1 x.1.2 (s.entryNo k c))

/- ---- results (R276 to R288) ---- -/

/-- The part of a row or bag in a list. -/
def findPart (l : List (Nat × Part)) (k key : Nat) : Option Part := (l.find? fun x => x.1 == k && x.2.key == key).map (·.2)

/-- The larger value with -0 below +0 and NaN above all (R279). -/
def gatherMax (a b : W32) : W32 :=
  if isNan32 a ∨ isNan32 b then f32nan
  else if (ofF32 a).lt (ofF32 b) then b
  else if (ofF32 b).lt (ofF32 a) then a
  else if a.toNat / 2 ^ 31 = 1 then b else a

/-- Combine two partial bags. -/
def gatherJoin (mode : Nat) (a b : Part) : Part :=
  { a with o := (a.o.zip b.o).map (fun x => if mode = 2 then gatherMax x.1 x.2 else f32add x.1 x.2), n := a.n + b.n }

/-- Merge an arriving partial into a stack's running state. -/
def mergeInto (op mode : Nat) (k : Nat) (p : Part) (l : List (Nat × Part)) : List (Nat × Part) :=
  match findPart l k p.key with
  | none => l ++ [(k, if op = 3 then
      let r := (Row.mk f32negInf 0 (List.replicate p.o.length 0)).merge ⟨p.m, p.l, p.o⟩
      { p with m := r.m, l := r.l, o := r.o } else p)]
  | some q =>
    let new : Part := if op = 3 then
        let r := (Row.mk q.m q.l q.o).merge ⟨p.m, p.l, p.o⟩
        { q with m := r.m, l := r.l, o := r.o }
      else gatherJoin mode q p
    l.map fun x => if x.1 == k && x.2.key == p.key then (k, new) else x

/-- The stacks' states of a row or bag in increasing stack order. -/
def stackParts (d : DocWork) (key : Nat) : List Part := (List.range 16).filterMap fun k => findPart d.merged k key

def gemvResult (c : Cmd) : List (List Nat × Conv) :=
  let y := c.descD 0x08
  let scale := ofF32 (w32 c.raw 0x20)
  c.doc.merged.flatMap fun p => p.2.o.zipIdx.map fun a => ([p.2.key, a.2], convert y.fmt false ((ofF32 a.1).mul scale))

def gatherResult (c : Cmd) : List (List Nat × Conv) × Nat :=
  let y := c.descD 0x08
  let mode := u8 c.raw 0x20
  let bag (b : Nat) : Bool × List (List Nat × Conv) :=
    let row (l : List W32) : List (List Nat × Conv) := l.zipIdx.map fun a => ([a.2, b], convert y.fmt false (ofF32 a.1))
    match stackParts c.doc b with
    | [] => (true, row (List.replicate (y.dim 0) (if mode = 2 then f32negInf else 0)))
    | p :: r =>
      let t := r.foldl (gatherJoin mode) p
      (false, row (if mode = 1 then t.o.map fun x => f32div x (f32ofInt t.n) else t.o))
  let bags := (List.range (y.dim 1)).map bag
  (bags.flatMap (·.2), bags.countP (·.1))

/-- The final state of a row of ATTN_PARTIAL. -/
def attnRow (c : Cmd) (key : Nat) : Row :=
  let o := c.descD 0x08
  (stackParts c.doc key).foldl (fun r p => r.merge ⟨p.m, p.l, p.o⟩) ⟨f32negInf, 0, List.replicate (o.dim 0) 0⟩

/-- The home stack's merge unit writes results and the command is done; a merge with an uncorrectable granule fails the home stack's
part (R273, R491). -/
def State.docWrite (s : State) (c : Cmd) (e : Ending) (ws : List (Nat × Byte)) : State :=
  s.putWrites c none (mergeSeer c.home) ws
    (fun a t => t.finish c.id ((partsEnding c.parts.length [(c.home, (Fail.ecc a).ending)]).getD e)) fun t => t.finish c.id e

/-- Write a docent command's results at the home stack and complete it. -/
def State.docFinish (s : State) (c : Cmd) : State :=
  let d := c.doc
  let n := d.counts
  let eng := (c.eng none).by (mergeSeer c.home)
  match partsEnding c.parts.length d.failed with
  | some e => s.finish c.id e
  | none =>
    let y := c.descD 0x08
    match opc c.raw with
    | 1 =>
      let r := gemvResult c
      planThen c.id (s.planElems eng y (r.map fun x => (x.1, x.2.enc)) []) fun ws s1 =>
        s1.docWrite c { status := .ok, detail := sat32 d.merged.length, r0 := sat32 n.c1, r1 := sat32 (clippedOf (r.map (·.2))) } ws
    | 2 =>
      let r := gatherResult c
      planThen c.id (s.planElems eng y (r.1.map fun x => (x.1, x.2.enc)) []) fun ws s1 =>
        s1.docWrite c { status := .ok, detail := sat32 n.c0, r0 := sat32 n.c1, r1 := sat32 r.2, r2 := sat32 (clippedOf (r.1.map (·.2))) } ws
    | 3 =>
      let isPart := bit (u16 c.raw 0x2C) 0
      let hq := y.dim 1
      let rows := (List.range (hq * y.dim 2)).map fun key => (key, attnRow c key)
      let out := rows.map fun r => (r.1, r.2.out y.fmt isPart f32one)
      let items := out.flatMap fun r => rowItems [r.1 % hq, r.1 / hq] r.2.1
      let stats := rows.flatMap fun r => [([0, r.1 % hq, r.1 / hq], r.2.m.toNat), ([1, r.1 % hq, r.1 / hq], r.2.l.toNat)]
      let e : Ending := { status := .ok, detail := sat32 (rows.countP fun r => isNan32 r.2.m), r0 := sat32 n.c1, r1 := sat32 n.c2
                          r2 := sat32 (rows.countP fun r => (ofF32 r.2.l).isZero), r3 := sat32 ((out.map fun r => r.2.2).foldl (· + ·) 0) }
      planThen c.id (s.planElems eng y items []) fun ws s1 =>
        match c.desc 0x20 with
        | none => s1.docWrite c e ws
        | some st => planThen c.id (s1.planElems eng st stats ws) fun ws2 s2 => s2.docWrite c e ws2
    | _ => s.finish c.id { status := .ok, detail := sat32 n.c0, r0 := sat32 n.c1, r1 := sat32 n.c2, r2 := sat32 n.c3 }

/-- A docent command finishes when every part is planned and nothing is left to run or merge. -/
def State.docDone (s : State) (id : CmdId) : State :=
  match s.cmd id with
  | none => s
  | some c =>
    let d := c.doc
    if c.allStarted && c.ending.isNone && c.parts.all (fun k => d.planned.contains k) && d.tasks.isEmpty && d.arrived.isEmpty then s.docFinish c
    else s

/-- A stack's part of a command fails (R273): its tasks end. -/
def State.failPart (s : State) (id : CmdId) (k : Nat) (e : Ending) : State :=
  match s.cmd id with
  | none => s
  | some c => ((s.chargeTasks (c.tasks.filter fun t => t.stack == k)).modDoc id fun d => d.failPart k e).docDone id

/-- A failed access on behalf of a stack: an uncorrectable word fails the stack's part, anything else the command. -/
def State.docFail (s : State) (id : CmdId) (k : Nat) (f : Fail) : State :=
  match f with
  | .ecc _ => s.failPart id k f.ending
  | _ => s.fail id f.ending

/-- Go on with what a read on behalf of a stack brought. -/
def docThen {α : Type} (id : CmdId) (k : Nat) (x : Except Fail (α × List Nat) × State) (f : α → State → State) : State :=
  match x with
  | (.error e, s) => s.docFail id k e
  | (.ok (a, miss), s) => if miss = [] then f a s else s.fetch id miss

/- ---- planning a part ---- -/

def State.planned (s : State) (id : CmdId) (ks : List Nat) (items : List ((Nat × Nat) × DocItem)) (f : DocCounts → DocCounts) : State :=
  s.modDoc id fun d => { d with
    planned := ks.foldl insertNat d.planned, tasks := d.tasks ++ ks.flatMap fun k => mkTasks k items, counts := f d.counts }

/-- A registrar learns the tasks of its part. The home registrar of a GATHER_REDUCE reads the index list for all (R278); where it
cannot, no other part has work. -/
def State.planPart (s : State) (c : Cmd) (k : Nat) : State :=
  match opc c.raw with
  | 2 =>
    if k ≠ c.home then s else
    let d := c.descD 0x0C
    match s.readElems ((c.eng none).by (registrarSeer k)) d (tuples d.size) with
    | (.error (.ecc a), s1) => (s1.planned c.id c.parts [] id).docFail c.id k (.ecc a)
    | x => docThen c.id k x fun ns s1 =>
      match c.picks ns with
      | .error p => s1.fail c.id { status := .indexOutOfRange, detail := p }
      | .ok (items, pad) => s1.planned c.id c.parts items fun x => { x with c0 := items.length, c1 := pad }
  | 3 =>
    match (s.ctx c.id.ctx).layout with
    | none => s
    | some l =>
      let sq := c.descD 0x0C
      let qp := c.descD 0x0E
      let eng := (c.eng none).by (registrarSeer k)
      docThen c.id k (s.readElems eng sq (tuples sq.size)) fun seqs s1 =>
        docThen c.id k (s1.readElems eng qp (tuples qp.size)) fun qs s2 =>
          match s2.walkStack c l k seqs qs with
          | .error p => s2.fail c.id { status := .indexOutOfRange, detail := p }
          | .ok items => (s2.planned c.id [k] items id).modStack k fun x => { x with descCnt := sat64 (x.descCnt + items.length) }
  | _ => s.planned c.id [k] c.placedItems id

/- ---- one item of a task ---- -/

/-- The next items of a task are done: with changed parts, arrivals and counts; `f` changes the task further. -/
def State.itemsDone (s : State) (id : CmdId) (t : DocTask) (n : Nat) (arrive : List Part) (cnt : DocCounts → DocCounts) (f : DocTask → DocTask) :
    State :=
  s.modDoc id fun d => { d with
    counts := cnt d.counts, arrived := d.arrived ++ arrive.map fun p => (t.stack, p)
    tasks := d.tasks.map fun x => if x.stack = t.stack ∧ x.bank = t.bank then
        f { x with taken := x.taken + n, st := if x.taken + n < x.items.length then .active else .computed } else x }

/-- The next item is done, with the parts the task now holds. -/
def State.itemDone (s : State) (id : CmdId) (t : DocTask) (parts : List Part) (arrive : List Part) (cnt : DocCounts → DocCounts) : State :=
  s.itemsDone id t 1 arrive cnt fun x => { x with parts := parts, buf := t.buf.drop 1 }

/-- Read bank elements on behalf of a task. -/
def bankThen {α : Type} (id : CmdId) (k : Nat) (x : Except Fail α × State) (f : α → State → State) : State :=
  match x with
  | (.error e, s) => s.docFail id k e
  | (.ok a, s) => f a s

/-- A docent writes into its bank; a merge with an uncorrectable granule fails its stack's part. -/
def State.docLand (s : State) (c : Cmd) (t : DocTask) (ws : List (Nat × Byte)) (k : State → State) : State :=
  s.putWrites c none (docentSeer t.stack t.bank) ws (fun a u => u.docFail c.id t.stack (.ecc a)) k

/- ---- slices of vectors (R276, R287) ---- -/

/-- Elements of each vector in a slice of X, and how many slices X has. -/
def sliceLen (x : Desc) : Nat := max 1 (2048 / (x.dim 1 * x.fmt.bytes))
def sliceCount (x : Desc) : Nat := ceilDiv (x.dim 0) (sliceLen x)
/-- Element numbers of a slice. -/
def sliceRange (x : Desc) (j : Nat) : List Nat := (List.range (sliceLen x)).map (· + j * sliceLen x) |>.filter (· < x.dim 0)
/-- Rows that a docent holds in its accumulators at once. -/
def rowsAtOnce (x : Desc) : Nat := max 1 (64 / x.dim 1)

/-- How many slices a task takes in all: those of X for every set of rows, or one for each page or element (log entry 90). -/
def Cmd.slicesFor (c : Cmd) (t : DocTask) : Nat :=
  match opc c.raw with
  | 1 => sliceCount (c.descD 0x0C) * ceilDiv t.items.length (rowsAtOnce (c.descD 0x0C))
  | 3 | 4 => t.items.length
  | _ => 0

/-- A task can take its next slice: it works, and one half of its operand buffer is not in use. -/
def Cmd.takesSlice (c : Cmd) (t : DocTask) : Bool :=
  t.st == .active && !t.paused && decide (t.buf.length < 2) && decide (t.sent < c.slicesFor t)

/-- Query heads that a page serves. -/
def Cmd.headsOf (c : Cmd) (l : Layout) (kvhead : Nat) : List Nat :=
  let per := (c.descD 0x0A).dim 1 / l.hkv
  (List.range per).map (· + kvhead * per)

/-- What the next slice of a task holds: the operand and, vector by vector, its index tuples. -/
def State.sliceOf (s : State) (c : Cmd) (t : DocTask) : Desc × List (List (List Nat)) :=
  match opc c.raw with
  | 1 =>
    let x := c.descD 0x0C
    (x, (List.range (x.dim 1)).map fun v => (sliceRange x (t.sent % sliceCount x)).map fun k => [k, v])
  | _ =>
    let d := c.descD 0x0A
    (d, match t.items[t.sent]? with
      | some (.elems i) => [[i]]
      | some (.page pd) => match (s.ctx c.id.ctx).layout with
        | some l => (c.headsOf l pd.kvhead).map fun h => (List.range l.d).map fun i => [i, h, pd.batch]
        | none => []
      | _ => [])

/-- The tasks that take the slice which the first of them needs: for GEMV every docent that needs it, else one docent. -/
def Cmd.takers (c : Cmd) (t x : DocTask) : Bool :=
  c.takesSlice x && x.stack == t.stack &&
  (if opc c.raw = 1 then x.sent % sliceCount (c.descD 0x0C) == t.sent % sliceCount (c.descD 0x0C) else x.bank == t.bank)

/-- The encodings of a list of vectors from those of all their elements. -/
def regroup {α : Type} : List (List α) → List Nat → List (List Nat)
  | [], _ => []
  | v :: r, es => es.take v.length :: regroup r (es.drop v.length)

/-- A broadcast unit sends a slice into the halves not in use of the docents that need it. -/
def State.sendSlice (s : State) (c : Cmd) (k : Nat) (t : DocTask) : State :=
  let x := s.sliceOf c t
  docThen c.id k (s.readElems ((c.eng none).by (mergeSeer k)) x.1 x.2.flatten) fun es s1 =>
    s1.modDoc c.id fun d => { d with
      slice := Assoc.set 0 d.slice k (Assoc.get 0 d.slice k + 1)
      tasks := d.tasks.map fun y => if c.takers t y then { y with buf := y.buf ++ [regroup x.2 es], sent := y.sent + 1 } else y }

/- ---- GEMV (R276) ---- -/

/-- An accumulator takes the next product; the sum of a whole group is scaled and added. The K mod G products of a last group that is
not whole are in no group (DEDUCED, log entry 91). -/
def gemvStep (g k : Nat) (w x sc : Fp) (a : W32 × Fp) : W32 × Fp :=
  let sum := a.2.add (w.mul x)
  if (k + 1) % g = 0 then (f32add a.1 (toF32 (sum.mul sc)), Fp.zero) else (a.1, sum)

/-- GEMV, one slice of X for the rows in the accumulators (R276): after the last one these rows are complete. -/
def State.gemvSlice (s : State) (c : Cmd) (t : DocTask) : State :=
  let w := c.descD 0x0A
  let x := c.descD 0x0C
  let gc := groupOf (u8 c.raw 0x24)
  let g := if gc = 0 then 32 else gc
  let sl := t.buf.headD []
  let j := t.used % sliceCount x
  let ks := sliceRange x j
  let rows := ((t.items.drop t.taken).take (rowsAtOnce x)).filterMap fun i => match i with
    | .row n => some n
    | _ => none
  let groups := ((ks.filter fun k => (k + 1) % g == 0).map (· / g))
  bankThen c.id t.stack (s.bankRead c t w (rows.flatMap fun n => ks.map fun k => [k, n])) fun we s1 =>
    bankThen c.id t.stack (match c.desc 0x0E with
      | some sc => s1.bankRead c t sc (rows.flatMap fun n => groups.map fun i => [i, n])
      | none => (.ok [], s1)) fun se s2 =>
      let sv (i h : Nat) : Fp := match c.desc 0x0E with
        | some sc => sc.fmt.decode (se.getD (i * groups.length + (h - groups.headD 0)) 0)
        | none => Fp.one
      let acc (i v : Nat) : W32 × Fp :=
        ks.zipIdx.foldl (fun a k => gemvStep g k.1 (w.fmt.decode (we.getD (i * ks.length + k.2) 0))
          (x.fmt.decode ((sl.getD v []).getD k.2 0)) (sv i (k.1 / g)) a) (((t.accs.getD i []).getD v (0, Fp.zero)))
      let accs := rows.zipIdx.map fun n => (List.range (x.dim 1)).map fun v => acc n.2 v
      if j + 1 = sliceCount x then
        let done_ := (rows.zip accs).map fun r => ({ key := r.1, m := 0, l := 0, o := r.2.map (·.1) } : Part)
        s2.itemsDone c.id t rows.length [] id fun y =>
          { y with parts := done_.reverse ++ t.parts, accs := [], buf := t.buf.drop 1, used := t.used + 1 }
      else s2.itemsDone c.id t 0 [] id fun y => { y with accs := accs, buf := t.buf.drop 1, used := t.used + 1 }

/-- GATHER_REDUCE, one index (R278, R279). -/
def State.gatherPick (s : State) (c : Cmd) (t : DocTask) (bag row : Nat) : State :=
  let tb := c.descD 0x0A
  let mode := u8 c.raw 0x20
  let g := groupOf (u8 c.raw 0x21)
  bankThen c.id t.stack (s.bankRead c t tb (tb.rowIdx [row])) fun te s1 =>
    bankThen c.id t.stack (match c.desc 0x0E with
      | some sc => s1.bankRead c t sc (sc.rowIdx [row])
      | none => (.ok [], s1)) fun se s2 =>
      let vals := te.zipIdx.map fun e => match c.desc 0x0E with
        | some sc => toF32 ((tb.fmt.decode e.1).mul (sc.fmt.decode (se.getD (e.2 / max 1 g) 0)))
        | none => toF32 (tb.fmt.decode e.1)
      let start : Part := { key := bag, m := 0, l := 0, o := vals.map (fun _ => if mode = 2 then f32negInf else 0) }
      let old := (t.parts.find? fun p => p.key == bag).getD start
      let new := gatherJoin mode old { start with o := vals, n := 1 }
      s2.itemDone c.id t (new :: t.parts.filter fun p => p.key != bag) [] id

/-- The page of a descriptor as bytes: K and V rows of its tokens, and the side record. -/
def State.pageAddr (s : State) (t : DocTask) (pd : PageDesc) : Nat := s.frameAddr ⟨t.stack, t.bank, pd.frame⟩

/-- Widened V of a page (R302). -/
def widenV (l : Layout) (data scales : List Byte) (tk c : Nat) : Fp :=
  let x := l.fmt.decode (elemAt l.fmt data ((tk * l.d + c) * l.fmt.nibbles))
  match l.scale with
  | none => x
  | some (sf, g) => x.mul (sf.decode (ofLe ((scales.drop ((tk * l.groups + c / g) * l.sb)).take l.sb)))

/-- The bias of a distance (R245); a distance beyond the table is a free value. -/
def biasAt (table : List Nat) (delta fresh : Nat) : Fp :=
  if delta < 2 ^ 24 then Fmt.fp16.decode (table.getD (bucket delta) 0) else Fmt.fp16.decode (Config.freeNat fresh % 65536)

/-- The tests of R323 before the placard: without them no page is skipped. -/
def maySkip (smScale tau : Fp) (fresh : Bool) : Bool :=
  !(match tau with
    | .inf _ => true
    | _ => false) && !fresh && smScale.isFin && Fp.zero.lt smScale

/-- The skip test of R323 for one head, from the placard on. -/
def skipHead (smScale tau : Fp) (kmax kmin : List Fp) (q : List Fp) (mref : Fp) (bmax : Fp) : Bool :=
  let bad := (kmax ++ kmin).any fun x => !x.isFin
  let negInf := match mref with
    | .inf n => n
    | _ => false
  if bad || negInf || mref.isNan then false
  else
    let u := ((q.zip (kmax.zip kmin)).filter fun x => !x.1.isZero).foldl (fun a x => a.add (Fp.max (x.1.mul x.2.1) (x.1.mul x.2.2))) Fp.zero
    (((u.mul smScale).add bmax).add tau).lt mref

/-- The largest m that a docent knows for a row (R289): received, or of the pages it has computed. -/
def Cmd.mref (c : Cmd) (t : DocTask) (key : Nat) : Fp :=
  (((c.doc.recv.filter fun r => r.1 == t.stack && r.2.1 == key).map fun r => r.2.2) ++ ((t.parts.filter fun p => p.key == key).map (·.m))).foldl
    (fun a x => Fp.max a (ofF32 x)) (.inf true)

/-- Whether the page of a descriptor is skipped for all its heads (R323); the placard is read once the first tests allow a skip. -/
def State.skipPage (s : State) (c : Cmd) (t : DocTask) (pd : PageDesc) (l : Layout) (qrow : Nat → List Fp) (tab : Nat → List Nat) (qpos : Nat) :
    Except Fail Bool × State :=
  let smScale := ofF32 (w32 c.raw 0x24)
  let tau := ofF32 (w32 c.raw 0x28)
  let base := s.pageAddr t pd
  if !maySkip smScale tau pd.fresh then (.ok false, s)
  else match s.touch c.id.ctx none (granulesOf (base + 0x4000) (4 * l.d)) (c.docEng t).who with
    | (some a, s1) => (.error (.ecc a), s1)
    | (none, s1) =>
      let pl := s1.peeks none (base + 0x4000) (4 * l.d) (c.docEng t).who
      let kmax := (List.range l.d).map fun i => Fmt.bf16.decode (u16 pl (2 * i))
      let kmin := (List.range l.d).map fun i => Fmt.bf16.decode (u16 pl (2 * l.d + 2 * i))
      let bmax (i : Nat) : Fp :=
        if bits (u16 c.raw 0x2C) 2 1 = 1 then
          let lo := qpos - (pd.kpos0 + pd.count - 1)
          let hi := qpos - pd.kpos0
          (List.range (bucket hi - bucket lo + 1)).foldl (fun a j => Fp.max a (Fmt.fp16.decode ((tab i).getD (bucket lo + j) 0))) (.inf true)
        else Fp.zero
      (.ok ((c.headsOf l pd.kvhead).zipIdx.all fun h =>
        skipHead smScale tau kmax kmin (qrow h.2) (c.mref t (h.1 + (c.descD 0x0A).dim 1 * pd.batch)) (bmax h.2)), s1)

/-- ATTN_PARTIAL, one page for every head it serves (R281, R323); its queries are the next slice of the operand buffer. -/
def State.attnPage (s : State) (c : Cmd) (t : DocTask) (pd : PageDesc) : State :=
  match (s.ctx c.id.ctx).layout with
  | none => s
  | some l =>
    let q := c.descD 0x0A
    let hq := q.dim 1
    let hs := c.headsOf l pd.kvhead
    let base := s.pageAddr t pd
    let biased := bits (u16 c.raw 0x2C) 2 1 == 1
    let eng := c.docEng t
    docThen c.id t.stack (s.readElems eng (c.descD 0x0E) [[pd.batch]]) fun qpe s1 =>
      docThen c.id t.stack (if biased then s1.readElems eng (c.descD 0x10) (hs.flatMap fun h => (List.range 108).map fun i => [i, h])
          else (.ok ([], []), s1)) fun be s2 =>
        let qpos := qpe.headD 0
        let qrow (i : Nat) : List Fp := ((t.buf.headD []).getD i []).map q.fmt.decode
        let tab (i : Nat) : List Nat := (be.drop (i * 108)).take 108
        let side := base + 0x4000 + l.pb
        bankThen c.id t.stack (s2.skipPage c t pd l qrow tab qpos) fun skip s3 =>
          if skip then
            (s3.modStack t.stack fun x => { x with skipped := sat64 (x.skipped + 1) }).itemDone c.id t t.parts [] fun n => { n with c2 := n.c2 + 1 }
          else
            let sc := l.n * l.groups * l.sb
            let gs := granulesOf base (pd.count * l.row) ++ granulesOf (base + l.n * l.row) (pd.count * l.row) ++
              granulesOf side (pd.count * l.groups * l.sb) ++ granulesOf (side + sc) (pd.count * l.groups * l.sb)
            match s3.touch c.id.ctx none gs eng.who with
            | (some a, s4) => s4.docFail c.id t.stack (.ecc a)
            | (none, s4) =>
              let kd := s4.peeks none base (pd.count * l.row) eng.who
              let vd := s4.peeks none (base + l.n * l.row) (pd.count * l.row) eng.who
              let ks := s4.peeks none side sc eng.who
              let vs := s4.peeks none (side + sc) sc eng.who
              let krow (j : Nat) : List Fp := (List.range l.d).map fun i => widen l kd ks j i
              let vrow (j : Nat) : List Fp := (List.range l.d).map fun i => widenV l vd vs j i
              let ps := (hs.zipIdx).map fun h =>
                let ss := (List.range pd.count).map fun j =>
                  score (dotFp (qrow h.2) (krow j)) (w32 c.raw 0x24)
                    (if biased then biasAt (tab h.2) (qpos - (pd.kpos0 + j)) s4.fresh else Fp.zero)
                let r := (Row.mk f32negInf 0 (List.replicate l.d 0)).update ss ((List.range pd.count).map vrow) id Fp.one
                ({ key := h.1 + hq * pd.batch, m := r.m, l := r.l, o := r.o } : Part)
              s4.bump.itemDone c.id t (t.parts ++ ps.map fun p => { p with o := [] }) ps fun n => { n with c1 := n.c1 + 1 }

/-- One AdamW element (R284): new parameter and moments, or none when an input is not finite. -/
def adamw (p : List W32) (grad w m1 m2 : W32) : Option (W32 × W32 × W32) :=
  let at_ (i : Nat) : W32 := p.getD i 0
  let g := f32mul grad (at_ 7)
  let fin (x : W32) : Bool := (ofF32 x).isFin
  if !(fin g && fin w && fin m1 && fin m2) then none
  else
    let b1 := at_ 1
    let b2 := at_ 2
    let n1 := f32add (f32mul b1 m1) (f32mul (f32sub f32one b1) g)
    let n2 := f32add (f32mul b2 m2) (f32mul (f32sub f32one b2) (f32mul g g))
    let u := f32mul n1 (at_ 5)
    let den := f32add (f32sqrt (f32mul n2 (at_ 6))) (at_ 3)
    let st := f32add (f32div u den) (f32mul (at_ 4) w)
    some (f32sub w (f32mul (at_ 0) st), n1, n2)

/-- OPT_STEP, one element (R283, R284); its gradient is the next slice of the operand buffer. -/
def State.optElem (s : State) (c : Cmd) (t : DocTask) (i : List Nat) : State :=
  let wide (o : Nat) (e : List Nat) : W32 := toF32 ((c.descD o).fmt.decode (e.headD 0))
  docThen c.id t.stack (s.readBytes (c.docEng t) (u64 c.raw 0x28) 32 { bank := none }) fun pb s1 =>
    bankThen c.id t.stack (s1.bankRead c t (c.descD 0x0C) [i]) fun pe s2 =>
      bankThen c.id t.stack (s2.bankRead c t (c.descD 0x0E) [i]) fun ae s3 =>
        bankThen c.id t.stack (s3.bankRead c t (c.descD 0x10) [i]) fun be s4 =>
          let old := (wide 0x0C pe, wide 0x0E ae, wide 0x10 be)
          let new := adamw ((List.range 8).map fun j => w32 pb (4 * j)) (wide 0x0A ((t.buf.headD []).headD [])) old.1 old.2.1 old.2.2
          let v := new.getD old
          let cv (o : Nat) (x : W32) : Conv := convert (c.descD o).fmt false (ofF32 x)
          let cs := [cv 0x08 v.1, cv 0x20 v.2.1, cv 0x22 v.2.2]
          let ws := ([0x08, 0x20, 0x22].zip cs).foldl (fun a x => s4.bankWrite c t (c.descD x.1) [(i, x.2.enc)] a) []
          s4.docLand c t ws fun s5 => s5.itemDone c.id t t.parts [] fun n =>
            { n with c0 := n.c0 + b2n new.isSome, c1 := n.c1 + b2n new.isNone, c2 := n.c2 + clippedOf cs }

/-- CONVERT, one row (R285). Every pair is converted: only COPY leaves equal formats alone (R210). -/
def State.convertRow (s : State) (c : Cmd) (t : DocTask) (r : List Nat) : State :=
  let d := c.descD 0x08
  let src := c.descD 0x0A
  let pad := (d.padding r).map fun i => (i, 0)
  bankThen c.id t.stack (s.bankRead c t src (src.rowIdx r)) fun es s1 =>
    match c.desc 0x22 with
    | none =>
      let cs := es.map fun e => convert d.fmt (e5inf c.raw) (src.fmt.decode e)
      s1.docLand c t (s1.bankWrite c t d (rowItems r (cs.map (·.enc)) ++ pad) []) fun s2 => s2.itemDone c.id t t.parts [] fun n =>
        { n with c0 := n.c0 + es.length, c1 := n.c1 + clippedOf cs, c2 := n.c2 + flushedOf cs }
    | some sc =>
      let q := quantRow d.fmt sc.fmt (e5inf c.raw) (groupOf (u8 c.raw 0x20)) (es.map src.fmt.decode)
      let w1 := s1.bankWrite c t d (rowItems r (q.2.map (·.enc)) ++ pad) []
      let ws := s1.bankWrite c t sc (rowItems r (q.1.map (·.enc)) ++ (sc.padding r).map fun i => (i, 0)) w1
      s1.docLand c t ws fun s2 => s2.itemDone c.id t t.parts [] fun n =>
        { n with c0 := n.c0 + es.length, c1 := n.c1 + clippedOf q.2, c2 := n.c2 + flushedOf q.2, c3 := n.c3 + q.1.countP (·.degenerate) }

/-- FILL, one row (R285). -/
def State.fillRow (s : State) (c : Cmd) (t : DocTask) (r : List Nat) : State :=
  let d := c.descD 0x08
  let ws := s.bankWrite c t d (rowItems r (List.replicate (d.dim 0) (u32 c.raw 0x20)) ++ (d.padding r).map fun i => (i, 0)) []
  s.docLand c t ws fun s1 => s1.itemDone c.id t t.parts [] fun n => { n with c0 := n.c0 + d.dim 0 }

/-- One item by its kind. -/
def State.docItem (s : State) (c : Cmd) (t : DocTask) : State :=
  match t.items[t.taken]? with
  | none => s
  | some (.row _) => s.gemvSlice c t
  | some (.pick _ b r) => s.gatherPick c t b r
  | some (.page pd) => s.attnPage c t pd
  | some (.elems i) => if opc c.raw = 4 then s.optElem c t i else if opc c.raw = 5 then s.convertRow c t i else s.fillRow c t i

/- ---- the rows ---- -/

/-- The command that has a task of a bank in a state. -/
def State.docTask (s : State) (k bank : Nat) (st : TaskSt) : Option (Cmd × DocTask) :=
  s.cmds.findSome? fun c => if c.stage == .running && c.ending.isNone then
    (c.doc.tasks.find? fun t => t.stack == k && t.bank == bank && t.st == st).map fun t => (c, t) else none

/-- A docent works on the next item of its active task, one of the operation named; it waits while its operand buffer lacks the slice
that the item needs (R287). -/
def State.docent (s : State) (op k bank : Nat) (env : Env) : Ans :=
  match s.docTask k bank .active with
  | none => .next s
  | some (c, t) =>
    if opc c.raw = op && !t.paused && (c.slicesFor t == 0 || t.buf != []) then
      s.within env fun s1 => s1.sramThen c.id.ctx env.sram (fun e u => u.failPart c.id k e) fun s2 => match s2.docTask k bank .active with
        | some (c2, t2) => s2.docItem c2 t2
        | none => s2
    else .next s

def execGemv (stack bank : Nat) (env : Env) (s : State) : Ans := s.docent 1 stack bank env
def execGatherReduce (stack bank : Nat) (env : Env) (s : State) : Ans := s.docent 2 stack bank env
def execAttnPartial (stack bank : Nat) (env : Env) (s : State) : Ans := s.docent 3 stack bank env
def execOptStep (stack bank : Nat) (env : Env) (s : State) : Ans := s.docent 4 stack bank env
def execConvert (stack bank : Nat) (env : Env) (s : State) : Ans := s.docent 5 stack bank env
def execFill (stack bank : Nat) (env : Env) (s : State) : Ans := s.docent 6 stack bank env

/-- The docent command that runs on a stack. -/
def State.docOn (s : State) (k : Nat) : Option Cmd :=
  s.cmds.find? fun c => c.stage == .running && c.ending.isNone && cls c.raw == 4 && decide (opc c.raw < 0x10) && c.startedOn.contains (.registrar k)

/-- Banks of an array die that are docent-active. -/
def State.activeOn (s : State) (k a : Nat) : Nat :=
  (s.cmds.map fun c => c.doc.tasks.countP fun t => t.stack == k && t.bank / 64 == a && t.st != .waiting).foldl (· + ·) 0

/-- Start the lowest-numbered waiting task of an array die, within the budget (R293). -/
def State.startTask (s : State) (c : Cmd) (k a : Nat) : State :=
  match (c.doc.tasks.find? fun t => t.stack == k && t.bank / 64 == a && t.st == .waiting) with
  | none => s
  | some t =>
    if s.activeOn k a < planBudget s.planEff && !s.docentsStopped k a then
      let s1 := s.modDoc c.id fun d => { d with
        counts := if opc c.raw = 1 then { d.counts with c1 := d.counts.c1 + 1 } else d.counts
        tasks := d.tasks.map fun x => if x.stack = k ∧ x.bank = t.bank then { x with st := .active } else x }
      s1.modStack k fun x => { x with tasks := sat64 (x.tasks + 1), program := Assoc.set 0 x.program t.bank (opc c.raw) }
    else s

/-- DOCENT_TASK_START: the registrar learns its part's tasks, then starts one. -/
def execDocentTaskStart (stack arrayDie : Nat) (env : Env) (s : State) : Ans :=
  match s.docOn stack with
  | none => .next s
  | some c =>
    s.within env fun s0 => s0.sramThen c.id.ctx env.sram (fun e u => u.failPart c.id stack e) fun s1 =>
      let s2 := if c.doc.planned.contains stack then s1 else s1.planPart c stack
      match s2.docOn stack with
      | none => s2
      | some c2 => (if c2.doc.planned.contains stack then s2.startTask c2 stack arrayDie else s2).docDone c2.id

/-- DOCENT_TASK_COMPLETE: the task's partials go to the merge unit; its bank is free. -/
def execDocentTaskComplete (stack bank : Nat) (s : State) : Ans :=
  match s.docTask stack bank .computed with
  | none => .next s
  | some (c, t) =>
    let s1 := s.modDoc c.id fun d => { d with
      tasks := d.tasks.filter (fun x => !(x.stack == stack && x.bank == bank))
      arrived := d.arrived ++ (if opc c.raw = 3 then [] else t.parts.reverse.map fun p => (stack, p)) }
    done ((s1.chargeTasks [t]).docDone c.id)

/-- BROADCAST_SLICE: a stack's broadcast unit sends the next slice, to the docents of the running command that need it. -/
def execBroadcastSlice (stack : Nat) (s : State) : Ans :=
  match s.docOn stack with
  | none => .next s
  | some c =>
    match c.tasks.find? fun t => t.stack == stack && c.takesSlice t with
    | some t =>
      let u := s.sendSlice c stack t
      if u.stalled then .next s else done u
    | none => .next s

/-- MERGE_PARTIAL: the oldest arrival of a stack joins its running state; a free choice says whether the maximum is sent back
now (R289). -/
def execMergePartial (stack : Nat) (env : Env) (s : State) : Ans :=
  match s.cmds.findSome? fun c => if c.stage == .running && c.ending.isNone then
      (c.doc.arrived.find? fun a => a.1 == stack).map fun a => (c, a.2) else none with
  | none => .next s
  | some (c, p) =>
    s.within env fun s0 => s0.sramThen c.id.ctx env.sram (fun e u => u.failPart c.id stack e) fun s1 =>
      let rec drop1 : List (Nat × Part) → List (Nat × Part)
        | [] => []
        | x :: r => if x.1 == stack then r else x :: drop1 r
      let s2 := s1.modDoc c.id fun d =>
        let m := mergeInto (opc c.raw) (u8 c.raw 0x20) stack p d.merged
        { d with
          arrived := drop1 d.arrived, merged := m
          recv := if opc c.raw = 3 ∧ Config.freeNat s1.fresh % 2 = 1 then
            (stack, p.key, ((findPart m stack p.key).map (·.m)).getD f32negInf) :: d.recv.filter (fun r => !(r.1 == stack && r.2.1 == p.key))
            else d.recv }
      s2.bump.docDone c.id

/-- SB_DOC_CTL CLEAR (R295). -/
def execTdDocCtlClear (fn stack : Nat) (s : State) : Ans :=
  if s.regsOpen fn && isPf fn && stack < 16 then done (s.modStack stack fun x => { x with tasks := 0, busy := 0, shared := 0, skipped := 0 }) else .next s

end Sys2Proof.Machine
end

