-- ==== Sys2Proof/Machine/Control.lean ====
section
/-! DEFINITION. The control commands of class 0x07: semaphores (spec 03, R91), allocation records and descriptors (07, R204 to
R209), die-cache discards and remote signals (14, R391, R396, R397), and the conservator's SCRUB (18, R494 to R498). -/

namespace Sys2Proof.Machine

/-- A control command with no environment: without such a running command the event has no effect. -/
def State.control (s : State) (id : CmdId) (op : Nat) (k : State → Cmd → State) : Ans :=
  match s.running id 7 op with
  | none => .next s
  | some c => done (k s c)

/- ---- semaphores and records (R91, R204) ---- -/

def State.semWriteCmd (s : State) (c : Cmd) : State :=
  s.finishNow c.id okEnd [.semSet (semNo (u16 c.raw 0x20)) (w32 c.raw 0x24)]

/-- The record an ALLOC_SET names, none when it removes it. -/
def allocOf (raw : List Byte) : Option AllocRec :=
  let f := u16 raw 0x22
  if bit f 0 then some ⟨bit f 2, bit f 1, u64 raw 0x28, u64 raw 0x30⟩ else none

def State.allocSetCmd (s : State) (c : Cmd) : State :=
  s.finishNow c.id okEnd [.allocSet (u16 c.raw 0x20) (allocOf c.raw)]

/- ---- descriptors (R198, R206 to R209) ---- -/

/-- The descriptor an image holds; NDIM of 7 is cut off by check 2. -/
def imageDesc (b : List Byte) : Desc :=
  let hdr := u64 b 0
  let n := bits hdr 54 52
  { writable := bit hdr 63, bank := bit hdr 62, cg64 := bits hdr 61 59 == 1, fmt := Fmt.ofCode (bits hdr 58 55),
    base := bits hdr 51 0, size := (List.range n).map fun i => u32 b (8 + 4 * i),
    stride := (List.range n).map fun i => toSigned 40 (ofLe ((b.drop (0x20 + 5 * i)).take 5)), alloc := bits (u16 b 0x3E) 9 0 }

/-- The terms of the non-overlap test: magnitude, count, STRIDE index. -/
def Desc.overlapTerms (d : Desc) : List (Nat × Nat × Nat) :=
  let dims := (d.stride.zip d.size).zipIdx.map fun x => (x.1.1.natAbs, x.1.2, x.2)
  match d.cg64, dims with
  | true, (m, n, i) :: r => (1, min n 64, i) :: (m, ceilDiv n 64, i) :: r
  | _, l => l

/-- Insert by magnitude, behind equal ones. -/
def insertTerm (x : Nat × Nat × Nat) : List (Nat × Nat × Nat) → List (Nat × Nat × Nat)
  | [] => [x]
  | y :: r => if x.1 < y.1 then x :: y :: r else y :: insertTerm x r

/-- The STRIDE index of the first sorted term that falls inside the span of those before it. -/
def overlapAt (span : Nat) : List (Nat × Nat × Nat) → Option Nat
  | [] => none
  | (m, n, i) :: r => if n = 1 then overlapAt span r else if m < span then some i else overlapAt (span + m * (n - 1)) r

/-- The non-overlap test (R209): none when it passes. -/
def Desc.overlapFail (d : Desc) : Option Nat := overlapAt 1 (d.overlapTerms.foldl (fun l x => insertTerm x l) [])

/-- The first unused or zero SIZE and STRIDE entry that check 4 refuses. -/
def sizeFail (b : List Byte) (n : Nat) : Option Nat :=
  let sizes : List (Nat × Bool) := (List.range 6).map fun i => (8 + 4 * i, if i < n then u32 b (8 + 4 * i) == 0 else u32 b (8 + 4 * i) != 0)
  let strides : List (Nat × Bool) :=
    (List.range 6).map fun i => (0x20 + 5 * i, decide (n ≤ i) && ofLe ((b.drop (0x20 + 5 * i)).take 5) != 0)
  ((sizes ++ strides).find? (·.2)).map (·.1)

/-- FORMAT_MASK of a part (R30): every format of R168. -/
def formatSet (_code : Nat) : Bool := true

/-- The extent leaves the record's range; exact, so that a negative address counts as outside. -/
def Desc.extentOut (d : Desc) (r : AllocRec) : Bool :=
  let ts := d.terms 64
  let lo := ts.foldl (fun a t => a + min 0 (t.1 * ((t.2 : Int) - 1))) (0 : Int)
  let hi := ts.foldl (fun a t => a + max 0 (t.1 * ((t.2 : Int) - 1))) (0 : Int)
  let at_ (o : Int) : Int := if d.fmt.nibbles = 1 then (d.base : Int) + o / 2 else (d.base : Int) + o * d.fmt.bytes
  let last := if d.fmt.nibbles = 1 then at_ hi else at_ hi + (d.fmt.bytes - 1 : Nat)
  decide (at_ lo < r.base) || decide (((r.base + r.len : Nat) : Int) ≤ last)

/-- The checks of R207 in order: reason and DETAIL of the first that fails. -/
def State.imageFail (s : State) (ctx : Nat) (b : List Byte) : Option (Nat × Nat) :=
  let hdr := u64 b 0
  let n := bits hdr 54 52
  let d := imageDesc b
  let unit := if d.fmt.nibbles = 1 then 1 else d.fmt.bytes
  if 1 < bits hdr 61 59 then some (1, 0)
  else if bits (u16 b 0x3E) 15 10 ≠ 0 then some (1, 0x3E)
  else if n = 0 ∨ n = 7 then some (2, 0)
  else if !formatSet (bits hdr 58 55) then some (3, 0)
  else match sizeFail b n with
  | some o => some (4, o)
  | none =>
    match s.alloc (1024 * ctx + d.alloc) with
    | none => some (5, 0x3E)
    | some r =>
      if d.bank != r.bank || (d.writable && !r.writable) then some (5, 0x3E)
      else if d.base % unit ≠ 0 ∨ (d.cg64 = true ∧ d.base % (if d.fmt.nibbles = 1 then 32 else 64 * unit) ≠ 0) then some (6, 0)
      else if d.cg64 ∧ d.stride.headD 0 % 64 ≠ 0 then some (6, 0x20)
      else if d.extentOut r then some (7, 0)
      else if d.writable then d.overlapFail.map fun i => (8, 0x20 + 5 * i)
      else none

/-- Finish with a failure and write its record when its turn has come. -/
def State.failNow (s : State) (id : CmdId) (e : Ending) : State := ((s.fail id e).tryCommit id).refresh

/-- The fields of an OK record of DESC_CREATE. -/
def createEnding (d : Desc) : Ending :=
  { status := .ok, r0 := d.extent.1 % 2 ^ 32, r1 := d.extent.1 / 2 ^ 32, r2 := d.extent.2 % 2 ^ 32, r3 := d.extent.2 / 2 ^ 32 }

/-- DESC_CREATE: read the image, check it, install it at the commit. -/
def State.descCreateCmd (s : State) (c : Cmd) : State :=
  match s.readBytes (c.eng none) (u64 c.raw 0x28) 64 { bank := none, remote := false } with
  | (.error f, s1) => s1.failNow c.id f.ending
  | (.ok (b, _), s1) =>
    match s1.imageFail c.id.ctx b with
    | some (reason, off) => s1.failNow c.id { status := .descriptorInvalid, detail := off, r0 := reason }
    | none => s1.finishNow c.id (createEnding (imageDesc b)) [.descSet (u16 c.raw 0x20) (some (imageDesc b))]

def State.descClearCmd (s : State) (c : Cmd) : State := s.finishNow c.id okEnd [.descSet (u16 c.raw 0x20) none]

/- ---- die caches (R391) ---- -/

/-- The dies a CACHE_INVALIDATE names. -/
def invalidDies (raw : List Byte) : List Nat := if bit (u8 raw 0x20) 0 then List.range 8 else [targetDie raw]

/-- The physical ranges of a descriptor's extent, as a reader's translation gives them; a page without one holds no line. -/
def State.extentRanges (s : State) (ctx : Nat) (d : Desc) : List Undef × State :=
  let e := d.extent
  s.ranges ctx 0 false ((e.2 - e.1) / 512 + 2) e.1 (e.2 + 1)

/-- The extents that INVALIDATE_SOURCES discards: those of the sources, and a QUANTIZE's SRC1 (R214). -/
def Cmd.discards (c : Cmd) : List Desc := c.srcs ++ (if cls c.raw = 3 ∧ opc c.raw = 2 then (c.desc 0x0C).toList else [])

/-- INVALIDATE_SOURCES on a compute die, before the first read of a run (R390). -/
def State.discardSources (s : State) (c : Cmd) (die : Nat) : State :=
  if invalidates c.raw then
    c.discards.foldl (fun t x => let r := t.extentRanges c.id.ctx x; r.1.foldl (fun u y => u.discardLines die y.lo y.hi) r.2) s
  else s

/-- The compute die of an engine. -/
def engineCd : EngineId → Option Nat
  | .tessGroup d | .pinned d _ | .attn d | .dma d => some d
  | _ => none

def State.invalidateCmd (s : State) (c : Cmd) : State :=
  let x := s.extentRanges c.id.ctx (c.descD 0x0A)
  x.2.finishNow c.id okEnd (x.1.map fun u => .discard (invalidDies c.raw) u.lo u.hi)

/- ---- REMOTE_SIGNAL (R396, R397) ---- -/

/-- The payload of a SIGNAL_REQ (R420). -/
def signalBytes (raw : List Byte) : List Byte := padTo 32 (leBytes (u16 raw 0x22) 2 ++ leBytes (u16 raw 0x24) 2)

/-- Send the request once every earlier command is done; one that was acknowledged in an earlier run commits. -/
def State.remoteSignalCmd (s : State) (c : Cmd) : State :=
  let m := u8 c.raw 0x20
  if c.acked then s.finishNow c.id okEnd []
  else if !s.earlierDone c.id || c.unacked != 0 then s
  else if (s.peer m).reachable then
    (s.request c.id m 0x03 1 0 .signal (signalBytes c.raw)).modCmd c.id fun x => { x with unacked := 1 }
  else s.failNow c.id (Fail.unreach m).ending

/- ---- SCRUB (R494 to R498) ---- -/

/-- A DRAM row: stack, bank, row. -/
abbrev DramRow := Nat × Nat × Nat

def rowKey (r : DramRow) : Nat := (r.1 * 1024 + r.2.1) * 65536 + r.2.2
def rowOfKey (k : Nat) : DramRow := (k / 65536 / 1024, k / 65536 % 1024, k % 65536)

/-- The rows a SCRUB covers, sorted. -/
def State.scrubRowsOf (s : State) (c : Cmd) : Except Fail (List DramRow) × State :=
  if u8 c.raw 0x20 = 1 then
    (.ok ((List.range (u16 c.raw 0x28)).flatMap fun b => (List.range (u32 c.raw 0x30)).map fun r =>
      (u8 c.raw 0x24, u16 c.raw 0x26 + b, u32 c.raw 0x2C + r)), s)
  else
    let d := c.descD 0x0A
    let e := d.extent
    let n := e.2 / 512 - e.1 / 512 + 1
    match s.resolveAll c.id.ctx false { bank := some d.bank, remote := false } ((List.range n).map fun i => max e.1 ((e.1 / 512 + i) * 512)) with
    | (.error f, s1) => (.error f, s1)
    | (.ok pas, s1) =>
      (.ok ((sortNat (dedup (pas.filterMap fun pa => (s1.locate pa).map fun x => rowKey (x.1, x.2.1, x.2.2 / 2048)))).map rowOfKey), s1)

/-- What a run of the conservator has found so far: granules checked, corrected, uncorrectable addresses, recommended rows,
whether rows were checked without rewriting, rows that held an uncorrectable granule. -/
structure Scrub where
  checked : Nat := 0
  corrected : Nat := 0
  bad : List Nat := []
  rows : List Nat := []
  skipped : Bool := false
  hit : List DramRow := []
deriving DecidableEq, Repr

/-- A recommended row as a summary word (R497). -/
def rowWord (r : DramRow) (cause : Nat) : Nat := r.1 * 2 ^ 60 + r.2.1 * 2 ^ 48 + r.2.2 * 2 ^ 32 + cause * 2 ^ 24

/-- The conservator checks one row (R495, R496). -/
def State.scrubRow (x : Scrub × State) (r : DramRow) : Scrub × State :=
  let s := x.2
  let gs := s.rowGranules r.1 r.2.1 r.2.2
  let bad := gs.filter fun g => s.mem.bad.contains g
  let weak := gs.filter fun g => !s.mem.bad.contains g && s.mem.weak.contains g
  let held := s.holdsWrites r.1 (r.2.1 / 64)
  let s1 := (bad.foldl (fun t g => t.countUncorr (g * 32) none) s)
  let s2 := weak.foldl (fun t g => t.countCorr (g * 32)) s1
  let s3 := if held then s2 else { s2 with mem := { s2.mem with weak := s2.mem.weak.filter fun g => !weak.contains g } }
  let cause := if bad = [] ∧ weak.length < 2 then 0
    else if ((s.stack r.1).entryOf r.2.1 r.2.2).isSome then 4 else if bad ≠ [] then 1 else 2
  ({ checked := x.1.checked + 64, corrected := x.1.corrected + weak.length, bad := x.1.bad ++ bad.map fun g => s.reportAddr (g * 32),
     rows := if cause = 0 then x.1.rows else x.1.rows ++ [rowWord r cause],
     skipped := x.1.skipped || held, hit := if bad = [] then x.1.hit else x.1.hit ++ [r] }, s3)

def Scrub.flags (x : Scrub) : Nat := b2n (decide (16 < x.bad.length)) + 2 * b2n (decide (16 < x.rows.length)) + 4 * b2n x.skipped

/-- Sixteen u64 entries, unused ones zero. -/
def sixteen (l : List Nat) : List Byte := (List.range 16).flatMap fun i => leBytes (l.getD i 0) 8

/-- The summary (R497). -/
def Scrub.bytes (x : Scrub) : List Byte :=
  leBytes (sat64 x.checked) 8 ++ leBytes (sat32 x.corrected) 4 ++ leBytes (sat32 x.bad.length) 4 ++ leBytes (sat32 x.rows.length) 4 ++
  leBytes x.flags 4 ++ leBytes 0 8 ++ sixteen (sortNat x.bad) ++ sixteen (sortNat x.rows)

def Scrub.ending (x : Scrub) : Ending :=
  { status := .ok, detail := sat32 x.bad.length, r0 := sat32 x.corrected, r1 := sat32 x.rows.length, r2 := sat32 x.checked, r3 := x.flags }

/-- The rows a stack's last SCRUB found uncorrectable (R500's FINDING). -/
def State.noteFindings (s : State) (rows : List DramRow) (x : Scrub) : State :=
  (dedup (rows.map (·.1))).foldl (fun t k => t.modStack k fun y =>
    { y with badRows := (x.hit.filter fun r => r.1 == k).map fun r => (r.2.1, r.2.2) }) s

def State.scrubCmd (s : State) (c : Cmd) : State :=
  match s.scrubRowsOf c with
  | (.error f, s1) => s1.fail c.id f.ending
  | (.ok rows, s1) =>
    let x := rows.foldl State.scrubRow ({}, s1)
    let items := x.1.bytes.zipIdx.map fun b => ([b.2], b.1.toNat)
    planThen c.id ((x.2.noteFindings rows x.1).planElems (c.eng none) (c.descD 0x08) items []) fun ws s2 =>
      s2.complete c.id x.1.ending ws

/- ---- the rows ---- -/

def execSemWrite (id : CmdId) (s : State) : Ans := s.control id 2 State.semWriteCmd
def execAllocSet (id : CmdId) (s : State) : Ans := s.control id 3 State.allocSetCmd
def execDescCreate (id : CmdId) (env : Env) (s : State) : Ans := s.work id 7 1 env State.descCreateCmd
def execDescClear (id : CmdId) (s : State) : Ans := s.control id 4 State.descClearCmd
def execCacheInvalidate (id : CmdId) (s : State) : Ans := s.control id 6 State.invalidateCmd
def execRemoteSignal (id : CmdId) (s : State) : Ans := s.control id 7 State.remoteSignalCmd
def execScrub (id : CmdId) (env : Env) (s : State) : Ans := s.work id 7 5 env State.scrubCmd

end Sys2Proof.Machine
end

