-- ==== Sys2Proof/Machine/Cache.lean ====
section
/-! DEFINITION. The registrar commands (spec 11, R298 to R328): CACHE_OPEN, STEP_RESERVE, STEP_COMMIT and STEP_ABORT with their
records (R320), and the counters of R308. -/

namespace Sys2Proof.Machine

/-- A registrar command with no environment. -/
def State.registrarCmd (s : State) (id : CmdId) (op : Nat) (k : State → Cmd → State) : Ans :=
  match s.running id 4 op with
  | none => .next s
  | some c => done (k s c)

/-- CACHE_OPEN: the layout takes effect at the commit (R298). -/
def State.cacheOpenCmd (s : State) (c : Cmd) : State :=
  let l := layoutOf c.raw
  s.finishNow c.id { status := .ok, detail := l.n, r0 := l.window % 2 ^ 32, r1 := l.window / 2 ^ 32, r2 := l.side } [.openCache l]

/-- STEP_RESERVE: the whole list is read, then planned; a plan holds its frames until the commit (R313 to R315). -/
def State.stepReserveCmd (s : State) (c : Cmd) : State :=
  match (s.ctx c.id.ctx).layout with
  | none => s.failNow c.id (malformed 8)
  | some l =>
    let d := c.descD 0x0A
    readThen c.id (s.readElems (c.eng none) d (tuples d.size)) fun ns s1 =>
      let p := s1.planReserve c.id.ctx l (stepList ns)
      if p.1.status = .ok then
        ((s1.veilFrames c.stamp p.2.zero).modCmd c.id fun x => { x with work := .step p.2 }).finishNow c.id p.1 [.stepReserve]
      else s1.failNow c.id p.1

/-- Sequences whose CLEN a commit changes. -/
def Ctx.clenChanges (x : Ctx) : Nat :=
  (dedup (x.clen.map (·.1) ++ x.rlen.map (·.1))).countP fun q => x.clenOf q != x.rlenOf q

/-- The record of a STEP_COMMIT (R320). -/
def State.commitEnding (s : State) (ctx rebuilt : Nat) : Ending :=
  let ps := s.pages.filter fun e => e.ctx == ctx
  { status := .ok, detail := sat32 (ps.countP fun e => e.st == .reserved), r0 := sat32 (ps.countP fun e => e.st == .leaving),
    r1 := sat32 rebuilt, r2 := sat32 (s.ctx ctx).clenChanges }

/-- STEP_COMMIT: placards are rebuilt now; the commit makes the other changes at once (R316); with no open step it commits with no
change (R317). -/
def State.stepCommitCmd (s : State) (c : Cmd) : State :=
  match (s.ctx c.id.ctx).layout with
  | none => s.failNow c.id (malformed 8)
  | some l =>
    if !(s.ctx c.id.ctx).stepOpen then s.finishNow c.id okEnd [] else
    let ps := s.rebuilt c.id.ctx l
    let x := s.rebuildPages c.id.ctx l ps
    match partsEnding 16 x.2.1 with
    | some e => x.2.2.failNow c.id e
    | none => (x.2.2.putPlacards c l ps x.1.reverse).finishNow c.id (x.2.2.commitEnding c.id.ctx ps.length) [.stepCommit]

/-- STEP_ABORT (R317). -/
def State.stepAbortCmd (s : State) (c : Cmd) : State :=
  if !(s.ctx c.id.ctx).stepOpen then s.finishNow c.id okEnd [] else
  let ps := s.pages.filter fun e => e.ctx == c.id.ctx
  s.finishNow c.id { status := .ok, detail := sat32 (ps.countP fun e => e.st == .reserved),
                     r0 := sat32 (ps.countP fun e => e.st == .leaving) } [.stepAbort]

def execCacheOpen (id : CmdId) (s : State) : Ans := s.registrarCmd id 0x10 State.cacheOpenCmd
def execStepReserve (id : CmdId) (env : Env) (s : State) : Ans := s.work id 4 0x11 env State.stepReserveCmd
def execStepCommit (id : CmdId) (env : Env) (s : State) : Ans := s.work id 4 0x12 env State.stepCommitCmd
def execStepAbort (id : CmdId) (s : State) : Ans := s.registrarCmd id 0x13 State.stepAbortCmd

/-- The capture of one function and stack: 16 * function + stack. -/
def capKey (fn stack : Nat) : Nat := 16 * fn + stack

/-- A read of SB_CACHE_FREE captures RESERVED and MAPPED for the function's next reads of them (R308); a VF reads zero
(R442). -/
def execSbCacheFreeRead (fn stack : Nat) (s : State) : Ans :=
  let k := s.stack stack
  if !(s.regsOpen fn && decide (stack < 16)) then .next s else
  if !isPf fn then done (s.emit (.regRead fn (sbBase stack + 0x3008) 4 0)) else
  done ({ s with cacheCap := Assoc.set none s.cacheCap (capKey fn stack) (some (k.reserved, k.mapped, true, true)) }.emit
    (.regRead fn (sbBase stack + 0x3008) 4 k.free))

/-- A write of SB_CACHE_CTL.CLEAR. -/
def execSbCacheCtlClear (fn stack : Nat) (s : State) : Ans :=
  if s.regsOpen fn && isPf fn && stack < 16 then done (s.modStack stack fun k => { k with descCnt := 0 }) else .next s

end Sys2Proof.Machine
end

