-- ==== Sys2Proof/Machine/Couriers.lean ====
section
/-! DEFINITION. The courier commands and frames (spec 12, R329 to R361). -/

namespace Sys2Proof.Machine

/- ---- rows of bytes ---- -/

/-- The bytes of one row of a descriptor, element after element (R336, R348); 4-bit elements pack two to a byte. -/
def State.readRow (s : State) (e : Eng) (d : Desc) (rest : List Nat) : Except Fail (List Byte × List Nat) × State :=
  let idx := (List.range (d.dim 0)).map fun i => i :: rest
  if d.fmt.nibbles = 1 then
    match s.readElems e d idx with
    | (.error f, s1) => (.error f, s1)
    | (.ok (es, miss), s1) => (.ok (packElems d.fmt es, miss), s1)
  else
    match s.resolveAll e.ctx false d.place (idx.flatMap d.elemBytes) with
    | (.error f, s1) => (.error f, s1)
    | (.ok pas, s1) =>
      let miss := e.missing pas
      if miss ≠ [] then (.ok ([], miss), s1) else
      match s1.touch e.ctx e.die (granules (pas.filter fun a => !isRemote a)) e.who with
      | (some a, s2) => (.error (.ecc a), s2)
      | (none, s2) => (.ok (pas.map (s2.see e), []), s2)

/-- Read rows in order: all of them, or the granules still to fetch, or the first failure. -/
def State.readRows (s : State) (e : Eng) (d : Desc) : List (List Nat) → Except Fail (List (List Byte) × List Nat) × State
  | [] => (.ok ([], []), s)
  | t :: r =>
    match s.readRow e d t with
    | (.error f, s1) => (.error f, s1)
    | (.ok (b, miss), s1) =>
      match s1.readRows e d r with
      | (.error f, s2) => (.error f, s2)
      | (.ok (bs, more), s2) => (.ok (b :: bs, miss ++ more), s2)

/-- Store rows through a descriptor: each row's bytes in the low bytes of its row, the rest zero (R347). -/
def rowElems (d : Desc) (rest : List Nat) (bs : List Byte) : List (List Nat × Nat) :=
  let n := d.dim 0
  rowItems rest (unpackElems d.fmt (padTo (ceilDiv (n * d.fmt.nibbles) 2) bs) n)

/- ---- DISPATCH (R335 to R338) ---- -/

/-- The lowest FREE entry of a ledger. -/
def State.freeIndex (s : State) (ld : Nat) : Nat :=
  let used := (s.ledger.filter fun e => e.1 / 65536 == ld && e.2.st != .free).map fun e => e.1 % 65536
  firstFree used (used.length + 1) 0

/-- Reserve an entry and its result space for copy q to an expert. -/
def State.reserveCopy (s : State) (c : Cmd) (x : Nat × Nat) : State :=
  let ld := s.senderOf x.2
  let i := s.freeIndex ld
  (s.modEntry (ledgerKey ld i) fun e => { e with
      st := .reserved, ctx := c.id.ctx, handle := u8 c.raw 0x20, copyNo := x.1, dest := expertModule (s.expertEntry x.2), res := [] }).modCourier ld
    fun k => { k with resUsed := k.resUsed + dispatchRow c.raw }

/-- Steps 1 and 2 of R336 for a DISPATCH that runs: its numbers are read, a bad one fails it, and all its entries are taken at
once; while they cannot be, or numbers of another module are on their way, it stays as it is. A rerun does so only for copies that
have no entry (R338). -/
def State.dispatchReserve (s : State) (id : CmdId) : State :=
  match s.cmd id with
  | none => s
  | some c =>
    if c.work != .none then s else
    readThen id (s.expertNumbers c) fun ns s1 =>
      let h := u8 c.raw 0x20
      match dispatchCopies s1 (s1.madeCopies id.ctx h) ns with
      | .error q => s1.fail id { status := .indexOutOfRange, detail := q }
      | .ok l =>
        let new := s1.newCopies id.ctx h l
        if s1.canReserve (dispatchRow c.raw) new then
          (new.foldl (fun t x => t.reserveCopy c x) s1).modCmd id fun x =>
            { x with work := .disp { copies := l.map fun y => (y.1, y.2, 0), padding := ns.length - l.length } }
        else s1

/-- What the start of a DISPATCH does to its handle (R334, R351). -/
def State.dispatchStart (s : State) (c : Cmd) : State :=
  let h := handleKey c.id.ctx (u8 c.raw 0x20)
  let s1 := if c.hasStarted then s else s.modHandle h fun _ =>
    { st := .sending, t := (c.descD 0x0A).dim 1, k := (c.descD 0x0C).dim 0, rout := u16 c.raw 0x22, rfmt := u8 c.raw 0x21 }
  s1.dispatchReserve c.id

/-- The COPY frame of an entry (R357). -/
def State.copyFrameOf (s : State) (c : Cmd) (k expert : Nat) (row : List Byte) : Frame :=
  { type := 1, omod := s.modid, old := k / 65536, ledger := k % 65536, gen := (s.entry k).gen, expert := expert,
    rrow := dispatchRow c.raw, step := u32 c.raw 0x24, fmt := (c.descD 0x0A).fmt.code, payload := row }

/-- Send the copy of one RESERVED entry, or record its module as unreachable (R336 step 3). -/
def State.sendCopy (s : State) (c : Cmd) (k expert : Nat) (row : List Byte) : State :=
  let m := (s.entry k).dest
  if m = s.modid ∨ (s.peer m).reachable then
    let f := s.copyFrameOf c k expert row
    let home := if m = s.modid then expertSlot (s.expertEntry expert) % 6 else 0
    ((s.modEntry k fun e => { e with st := .sent }).modCourier (k / 65536) fun x => { x with sent := sat64 (x.sent + 1) }).sendFrame (k / 65536) m home f
  else s.outcome k .doneU

/-- Step 3: read the token rows of the entries still RESERVED and send their copies. -/
def State.dispatchSend (s : State) (c : Cmd) (w : DispWork) : State :=
  let h := u8 c.raw 0x20
  let kk := (c.descD 0x0C).dim 0
  let ks := (s.entriesOf c.id.ctx h).filter fun k => (s.entry k).st == .reserved
  let expertOf (q : Nat) : Nat := ((w.copies.find? fun x => x.1 == q).map fun x => x.2.1).getD 0
  readThen c.id (s.readRows (c.eng none) (c.descD 0x0A) (ks.map fun k => [(s.entry k).copyNo / kk])) fun rows s1 =>
    let s2 := (ks.zip rows).foldl (fun t x => t.sendCopy c x.1 (expertOf (s1.entry x.1).copyNo) x.2) s1
    (s2.modCmd c.id fun x => { x with work := .disp { w with sent := true }, effects := [.handleOut h] }).settleDispatches

/-- DISPATCH at its couriers: reserve if it has not, then send. -/
def State.dispatchCmd (s : State) (c : Cmd) : State :=
  let s1 := s.dispatchReserve c.id
  match s1.cmd c.id with
  | none => s1
  | some c1 =>
    match c1.work with
    | .disp w => if w.sent || c1.ending.isSome then s1 else s1.dispatchSend c1 w
    | _ => s1

/- ---- COMBINE (R350 to R353) ---- -/

/-- The outcome code of copy q (R350). -/
def outcomeCode (es : List LEntry) (q : Nat) : Nat :=
  match es.find? fun e => e.copyNo == q with
  | none => 3
  | some e => match e.st with
    | .doneP => 0
    | .doneC => 1
    | _ => 2

/-- The sum of one output element (R352). -/
def combineElem (es : List LEntry) (f : Fmt) (k t c : Nat) (base : W32) (ws : List W32) : W32 :=
  (List.range k).foldl (fun acc j =>
    match es.find? fun e => e.copyNo == j + k * t with
    | some e => if e.st = .doneP then
        f32add acc (f32mul (ws.getD (j + k * t) 0) (toF32 (f.decode (elemAt f e.res (c * f.nibbles))))) else acc
    | none => acc) base

/-- COMBINE, once it is ready; padding lanes stay as they are (R201). -/
def State.combineCmd (s : State) (c : Cmd) : State :=
  if !s.combineReady c then s else
  let mis := s.combineMismatch c
  let h := u8 c.raw 0x20
  let d := c.descD 0x08
  let kk := (c.descD 0x0C).dim 0
  let tt := d.dim 1
  let es := if mis then [] else (s.entriesOf c.id.ctx h).map s.entry
  let rf := Fmt.ofCode (u8 c.raw 0x24)
  let idx := tuples d.size
  let base := match c.desc 0x0A with
    | some b => s.readElems (c.eng none) b idx
    | none => (.ok ([], []), s)
  readThen c.id base fun bs s1 =>
    readThen c.id (s1.readElems (c.eng none) (c.descD 0x0C) (tuples (c.descD 0x0C).size)) fun ws s2 =>
      let bf := (c.descD 0x0A).fmt
      let w32s := ws.map fun x => BitVec.ofNat 32 x
      let outs := idx.zipIdx.map fun x =>
        let b := match bs[x.2]? with
          | some e => toF32 (bf.decode e)
          | none => 0
        convert d.fmt false (ofF32 (combineElem es rf kk (x.1.getD 1 0) (x.1.headD 0) b w32s))
      let codes := (List.range (kk * tt)).map (outcomeCode es)
      let n (x : Nat) : Nat := es.countP fun e => outcomeCode [e] e.copyNo == x
      let e : Ending := { status := .ok, detail := es.length, r0 := n 0, r1 := n 1, r2 := n 2,
                          r3 := 2 ^ 31 * b2n mis + min (2 ^ 31 - 1) (clippedOf outs) }
      planThen c.id (s2.planElems (c.eng none) d (idx.zip (outs.map (·.enc))) []) fun acc s3 =>
        let o := c.desc 0x22
        planThen c.id (match o with
            | some od => s3.planElems (c.eng none) od ((tuples od.size).zip codes) acc
            | none => (.ok acc, s3)) fun acc2 s4 =>
          ((s4.modCmd c.id fun x => { x with effects := if mis then [] else [.handleFree h] })).complete c.id e acc2

/- ---- the destination side (R343 to R349) ---- -/

def slotRange (raw : List Byte) : List Nat := (List.range (u16 raw 0x26)).map (· + u16 raw 0x24)

/-- EXPERT_OPEN, while its bin sets are empty (R346). -/
def State.expertOpenCmd (s : State) (c : Cmd) : State :=
  if s.courierCond c then
    s.finishNow c.id okEnd [.openSlots (u32 c.raw 0x20) (u16 c.raw 0x24) (u16 c.raw 0x26) (u16 c.raw 0x28) (u16 c.raw 0x2A)]
  else s

def State.expertCloseCmd (s : State) (c : Cmd) : State :=
  s.finishNow c.id okEnd [.closeSlots (u16 c.raw 0x24) (u16 c.raw 0x26)]

/-- A slot's set holds a step. -/
def Slot.holds (x : Slot) (step : Nat) : Bool := (x.bin step).used && (x.bin step).step == step

/-- EXPERT_GATHER (R347). Rows or counts that do not fit DST break its sizes: what DST then holds is undefined (log entry 9). -/
def State.expertGatherCmd (s : State) (c : Cmd) : State :=
  let step := u32 c.raw 0x20
  let d := c.descD 0x08
  let bins := (slotRange c.raw).map fun i => ((s.slot i).binOf step).copies
  let rowBytes := ceilDiv (d.dim 0 * d.fmt.nibbles) 2
  let fits := bins.all fun b => decide (b.length ≤ d.dim 1) && b.all fun x => decide (x.frame.payload.length ≤ rowBytes)
  let items := bins.zipIdx.flatMap fun b => (List.range (d.dim 1)).flatMap fun r =>
    rowElems d [r, b.2] ((b.1[r]?.map fun x => x.frame.payload).getD [])
  let e : Ending := { status := .ok, detail := sat32 ((bins.map (·.length)).foldl (· + ·) 0),
                      r0 := (slotRange c.raw).countP fun i => (s.slot i).holds step }
  planThen c.id (if fits then s.planElems (c.eng none) d items [] else (.ok [], { s with mem := s.mem.unveil c.stamp true })) fun acc s1 =>
    planThen c.id (match c.desc 0x2C with
        | some od => s1.planElems (c.eng none) od (bins.zipIdx.map fun b => ([b.2], b.1.length)) acc
        | none => (.ok acc, s1)) fun acc2 s2 =>
      (s2.modCmd c.id fun x => { x with effects := [.gatherBins step (u16 c.raw 0x24) (u16 c.raw 0x26)] }).complete c.id e acc2

/-- The RESULT frame of a copy (R348, R357). -/
def resultFrame (b : BinCopy) (fmt : Nat) (bytes : List Byte) : Frame :=
  { b.frame with type := 3, reason := 0, binref := b.ref, fmt := fmt, reserved := 0, payload := padTo b.frame.rrow bytes }

/-- Answer the copy of a bin: send its RESULT, or count its origin as unreachable. -/
def State.sendResult (s : State) (slot step fmt : Nat) (b : BinCopy) (bytes : List Byte) : State :=
  let set (t : State) (g : BinCopy → BinCopy) : State := t.modSlot slot fun x =>
    x.setBin step { x.bin step with copies := (x.bin step).copies.map fun y => if y.ref = b.ref then g y else y }
  if b.acked || b.gone then s
  else if b.frame.omod = s.modid ∨ (s.peer b.frame.omod).reachable then
    let f := resultFrame b fmt bytes
    (set s fun y => { y with sent := some (fmt, f.payload) }).sendFrame (slot % 6) b.frame.omod b.frame.old f
  else set s fun y => { y with gone := true }

/-- EXPERT_RETURN sends its results once (R348). -/
def State.expertReturnCmd (s : State) (c : Cmd) : State :=
  if c.work = .returning then s else
  let step := u32 c.raw 0x20
  let d := c.descD 0x0A
  let all := (slotRange c.raw).zipIdx.flatMap fun x => (((s.slot x.1).binOf step).copies.zipIdx.map fun y => (x.1, x.2, y.2, y.1))
  let need := all.filter fun x => !x.2.2.2.acked && !x.2.2.2.gone && decide (x.2.2.1 < d.dim 1)
  readThen c.id (s.readRows (c.eng none) d (need.map fun x => [x.2.2.1, x.2.1])) fun rows s1 =>
    let got := (need.map fun x => x.2.2.2.ref).zip rows
    let s2 := all.foldl (fun t x => t.sendResult x.1 step d.fmt.code x.2.2.2
      (((got.find? fun g => g.1 == x.2.2.2.ref).map (·.2)).getD [])) s1
    (s2.modCmd c.id fun x => { x with work := .returning, effects := [.emptyBins step (u16 c.raw 0x24) (u16 c.raw 0x26)] }).settleReturns

/- ---- frames at a courier (R339 to R344, R358) ---- -/

/-- A frame's way over the fabric: it is the first from its link die to its courier (R42), and neither bridge resynchronises
(R61). -/
def State.frameDue (s : State) (ld : Nat) (f : Frame) : Bool :=
  match s.frames.find? fun x => x.2 == (ld, f) with
  | some x => (s.frames.find? fun y => y.1 == x.1 && y.2.1 == ld) == some x &&
      (x.1 == ld || !(s.resyncing (bridgeCrossing x.1) || s.resyncing (bridgeCrossing ld)))
  | none => true

/-- A frame reaches a courier: it leaves the fabric queue; one of another type is not this event, one with a nonzero reserved
field is discarded. -/
def State.frameAt (s : State) (ld type : Nat) (f : Frame) (k : State → State) : Ans :=
  if f.type = type ∧ ld < 6 ∧ s.frameDue ld f then
    let s1 : State := { s with frames := s.frames.eraseP fun x => x.2 == (ld, f) }
    done (if f.reserved ≠ 0 then s1.staleFrame ld else k s1)
  else .next s

/-- A VERDICT (R339). -/
def State.takeVerdict (s : State) (ld : Nat) (f : Frame) : State :=
  let k := ledgerKey ld f.ledger
  match s.matching ld f with
  | some e =>
    if e.st = .sent then
      (if f.reason = 0 then s.modEntry k fun x => { x with st := .accepted } else s.outcome k .doneC).settleDispatches
    else s.staleFrame ld
  | none => s.staleFrame ld

/-- A RESULT (R339, R358): applied once, acknowledged every time. -/
def State.takeResult (s : State) (ld : Nat) (f : Frame) : State :=
  let k := ledgerKey ld f.ledger
  let ack (t : State) (m : Nat) : State := t.sendFrame ld m (f.binref % 6) { f with type := 4, payload := [] }
  match s.matching ld f with
  | some e =>
    if e.st = .accepted then ack (s.outcome k .doneP f.payload).settleDispatches e.dest
    else if e.st = .doneP then ack s e.dest
    else s.staleFrame ld
  | none => s.staleFrame ld

/-- A RESULT_ACK (R358). -/
def State.takeResultAck (s : State) (ld : Nat) (f : Frame) : State :=
  let hits (b : BinCopy) : Bool := b.ref == f.binref && b.sent.isSome && b.frame.ledger == f.ledger && b.frame.gen == f.gen
  if s.slots.any fun x => (x.2.even.copies ++ x.2.odd.copies).any hits then
    (s.mapBins fun b => if hits b then { b with acked := true } else b).settleReturns
  else s.staleFrame ld

/-- A RETURN (R339). -/
def State.takeReturn (s : State) (ld : Nat) (f : Frame) : State :=
  match s.matching ld f with
  | some e => if e.st = .accepted then s.outcome (ledgerKey ld f.ledger) .doneC else s.staleFrame ld
  | none => s.staleFrame ld

/-- The k-th held copy of a courier has waited 256 µs (R344): it is judged as R343 stands now, and what would be held is refused. -/
def State.expireHold (s : State) (ld k : Nat) : State :=
  match (s.courier ld).held[k]? with
  | none => s
  | some h =>
    let s1 := s.modCourier ld fun c => { c with held := c.held.eraseIdx k }
    if s1.notHere h.2 then s1.answer ld h.2 2 6 0
    else
      let owner := expertOwner (s1.expertEntry h.2.expert)
      match s1.judge ld h.1 owner h.2 with
      | .hold => s1.answer ld h.2 2 3 0
      | _ => (s1.giveVerdict ld h.1 owner h.2).2

/-- A RESULT has waited 64 µs for its acknowledgement (R358). -/
def State.resend (s : State) (ld ref : Nat) : State :=
  let cs := s.slots.flatMap fun x => if x.1 % 6 = ld then x.2.even.copies ++ x.2.odd.copies else []
  match cs.find? fun b => b.ref == ref && !b.acked && !b.gone with
  | some b => match b.sent with
    | some p => s.sendFrame ld b.frame.omod b.frame.old (resultFrame b p.1 p.2)
    | none => s
  | none => s

/- ---- the rows ---- -/

/-- A courier command with no environment. -/
def State.courierCmd (s : State) (id : CmdId) (op : Nat) (k : State → Cmd → State) : Ans :=
  match s.running id 5 op with
  | none => .next s
  | some c => done (k s c)

/-- A DISPATCH that has not started: it waits for the numbers of its experts, its handle being FREE (R333, R336 step 1). -/
def State.dispatchWaits (s : State) (id : CmdId) : Option Cmd :=
  (s.cmd id).filter fun c => cls c.raw == 5 && opc c.raw == 1 && c.stage == .queued && !c.hasStarted && c.ending.isNone && c.waitMet &&
    s.orderMet c && (s.handle (handleKey id.ctx (u8 c.raw 0x20))).st == .free

/-- It asks for the numbers that lie in another module; its conditions to start are judged once they are here. -/
def State.dispatchFetch (s : State) (c : Cmd) : State :=
  match s.expertNumbers c with
  | (.ok (_, miss), s1) => if miss = [] then s else s1.fetch c.id miss
  | (.error _, _) => s

/-- The numbers that a waiting DISPATCH has fetched are read again when it starts. -/
def execDispatch (id : CmdId) (env : Env) (s : State) : Ans :=
  match s.dispatchWaits id with
  | none => s.work id 5 1 env State.dispatchCmd
  | some _ => s.within env fun s1 => match s1.dispatchWaits id with
    | some c => s1.dispatchFetch c
    | none => s1
def execCombine (id : CmdId) (env : Env) (s : State) : Ans := s.work id 5 2 env State.combineCmd
def execExpertOpen (id : CmdId) (s : State) : Ans := s.courierCmd id 3 State.expertOpenCmd
def execExpertClose (id : CmdId) (s : State) : Ans := s.courierCmd id 4 State.expertCloseCmd
def execExpertGather (id : CmdId) (env : Env) (s : State) : Ans := s.work id 5 5 env State.expertGatherCmd
def execExpertReturn (id : CmdId) (env : Env) (s : State) : Ans := s.work id 5 6 env State.expertReturnCmd
def execCopyFrame (ld : Nat) (f : Frame) (s : State) : Ans := s.frameAt ld 1 f fun t => t.takeCopy ld f
def execVerdict (ld : Nat) (f : Frame) (s : State) : Ans := s.frameAt ld 2 f fun t => t.takeVerdict ld f
def execResult (ld : Nat) (f : Frame) (s : State) : Ans := s.frameAt ld 3 f fun t => t.takeResult ld f
def execResultAck (ld : Nat) (f : Frame) (s : State) : Ans := s.frameAt ld 4 f fun t => t.takeResultAck ld f
def execReturnF (ld : Nat) (f : Frame) (s : State) : Ans := s.frameAt ld 5 f fun t => t.takeReturn ld f
def execHoldExpiry (ld k : Nat) (s : State) : Ans := done (s.expireHold ld k)
def execResultResend (ld binref : Nat) (s : State) : Ans := done (s.resend ld binref)

/-- LD_CR_CTL CLEAR (R360). -/
def execLdCrCtlClear (fn ld : Nat) (s : State) : Ans :=
  if s.regsOpen fn && isPf fn && ld < 6 then done (s.modCourier ld fun c =>
    { c with sent := 0, processed := 0, capacity := 0, unreach := 0, orphaned := 0, stale := 0, received := 0, discarded := 0 })
  else .next s

end Sys2Proof.Machine
end

