-- ==== Sys2Proof/Machine/Grid.lean ====
section
/-! DEFINITION. RUN_GRID and its items (spec 03, R93 to R98; 04, R129; 06, R190 to R194; 08, R224 to R229): placing, claiming and
finishing work items. -/

namespace Sys2Proof.Machine

/- ---- placing (R93, R227) ---- -/

/-- Items of the grid. -/
def gridCount (raw : List Byte) : Nat := u16 raw 0x28 * u16 raw 0x2A * u16 raw 0x2C
/-- Coordinates of a linear number. -/
def gridCoords (raw : List Byte) (n : Nat) : Nat × Nat × Nat :=
  (n % u16 raw 0x28, n / u16 raw 0x28 % u16 raw 0x2A, n / u16 raw 0x28 / u16 raw 0x2A)

/-- A started RUN_GRID whose items are not placed yet: its target engine runs it. -/
def State.unplaced (s : State) (id : CmdId) : Option (Cmd × Grid) :=
  match s.cmd id with
  | some c => match c.grid with
    | some g =>
      if c.stage == .running && c.ending.isNone && !g.placed &&
        (c.startedOn.contains (.tessGroup (targetDie c.raw)) || c.startedOn.contains (.pinned (targetDie c.raw) (targetTess c.raw)))
      then some (c, g) else none
    | none => none
  | none => none

/-- A committed grid's record (R93, R228). -/
def Grid.ending (g : Grid) : Ending :=
  { status := .ok, detail := g.ran.length, r0 := sat32 g.itemsRun, r1 := sat32 g.stolen, r2 := sat32 g.remote, r3 := sat32 g.masked }

/-- Items enter the pool; without any the command is done. -/
def State.placeItems (s : State) (c : Cmd) (items : List Nat) (masked : Nat) : State :=
  let s1 := s.modGrid c.id fun g => { g with placed := true, items := items, pool := items, masked := masked }
  let s2 := s1.modDie (targetDie c.raw) fun d => { d with mitems := sat64 (d.mitems + masked) }
  if items = [] then s2.finish c.id { okEnd with r3 := sat32 masked } else s2

/-- RUN_GRID reads any block mask and places its items. The stealing unit is none of the readers that a die cache serves (R388): it
reads memory. It reads the bytes that hold the items' bits, and no more of a larger descriptor (DESIGN CHOICE, log entry 93: R227
says the whole mask). -/
def State.runGridCmd (s : State) (c : Cmd) : State :=
  let n := gridCount c.raw
  if bit (flags c.raw) 4 then
    readThen c.id (s.readElems (c.eng none) (c.descD 0x10) ((List.range (ceilDiv n 8)).map fun i => [i])) fun es s1 =>
      let keep := (List.range n).filter fun i => bit (es.getD (i / 8) 0) (i % 8)
      (s1.placeItems c keep (n - keep.length)).modCmd c.id fun x => { x with remote := [] }
  else s.placeItems c (List.range n) 0

def execRunGrid (id : CmdId) (env : Env) (s : State) : Ans :=
  match s.unplaced id with
  | none => .next s
  | some _ => s.within env fun s1 => match s1.unplaced id with
    | none => s1
    | some (c, _) => s1.sramFail id env fun s2 => s2.runGridCmd c

/- ---- claiming (R95 to R98) ---- -/

def Grid.deque (g : Grid) (k : Nat) : List Nat := Assoc.get [] g.deques k
def Grid.setDeque (g : Grid) (k : Nat) (l : List Nat) : Grid := { g with deques := Assoc.set [] g.deques k l }

/-- The other deque of a die with most items; ties to the lowest logical number. -/
def Grid.victim (g : Grid) (die t n : Nat) : Option Nat :=
  let best := (List.range n).foldl (fun (b : Option (Nat × Nat)) v =>
    let k := (g.deque (tessKey die v)).length
    if v = t ∨ k = 0 then b else match b with
      | some (_, m) => if m < k then some (v, k) else b
      | none => some (v, k)) none
  best.map (·.1)

/-- The procedure of R95 for tessera t of a die: the item it obtains. -/
def Grid.obtain (g : Grid) (die t n target : Nat) (pinned spread : Bool) : Option Nat × Grid :=
  let k := tessKey die t
  match g.deque k with
  | i :: r => (some i, g.setDeque k r)
  | [] =>
    let own := g.pool.take 16
    if die = target ∧ own ≠ [] then
      (own.head?, { g.setDeque k (own.drop 1) with pool := g.pool.drop 16 })
    else match (if pinned then none else g.victim die t n) with
      | some v =>
        let l := g.deque (tessKey die v)
        (l.getLast?, { g.setDeque (tessKey die v) l.dropLast with stolen := g.stolen + 1 })
      | none =>
        if spread ∧ die ≠ target ∧ own ≠ [] then
          (own.head?, { g.setDeque k (own.drop 1) with pool := g.pool.drop 16, remote := g.remote + own.length })
        else (none, g)

/-- The command whose items a tessera takes: its own engine's pinned command, else the group's (R96, R98). A tessera that a ready
pinned command waits for has left the group (R365). -/
def State.claimFor (s : State) (die t : Nat) : Option (Cmd × Grid) :=
  let live (c : Cmd) : Bool := c.stage == .running && c.ending.isNone && (match c.grid with
    | some g => g.placed
    | none => false)
  let pick (e : EngineId) : Option (Cmd × Grid) := (s.cmds.find? fun c => live c && c.startedOn.contains e).bind fun c => c.grid.map fun g => (c, g)
  if s.cmds.any fun c => c.stage != .queued && c.startedOn.contains (.pinned die t) then pick (.pinned die t)
  else if (s.candidates (.pinned die t)).isEmpty then pick (.tessGroup die)
  else none

/-- A tessera cleared to the state of R100; its instruction memories are kept. -/
def Tess.cleared (t : Tess) : Tess :=
  { ximem := t.ximem, aimem := t.aimem, qdir := t.qdir, context := t.context, lastCtx := t.lastCtx, mustClear := false
    loadedFor := t.loadedFor, nextId := t.nextId }

/-- Words of a stream's code. -/
def codeOf (bs : List Byte) : List (Nat × W128) := (chunks 16 bs).zipIdx.map fun x => (x.2, BitVec.ofNat 128 (ofLe x.1))
/-- A program header keeps R133 and R134. -/
def headerGood (h : List Byte) : Bool :=
  u32 h 0 == 0x54455353 && u8 h 4 == 1 && decide (u8 h 5 < 16) && zeros h 6 8 && zeros h 0x10 0x100 &&
  (let len (o : Nat) : Bool := decide (16 ≤ u32 h o) && decide (u32 h o ≤ 65536) && u32 h o % 16 == 0
   len 8 && len 12)

/-- Listed words of an instruction memory (an unlisted one is zero). -/
def imem (l : List (Nat × W128)) : List (Nat × W128) := l.filter fun (x : Nat × W128) => x.2 != 0

/-- Registers at the start of Run (R129 step 3). -/
def startRegs (c : Cmd) (die t linear per : Nat) : List (Nat × W32) :=
  let p := gridCoords c.raw linear
  let l := [p.1, p.2.1, p.2.2, linear, u32 c.raw 0x30, u32 c.raw 0x34, u32 c.raw 0x38, u32 c.raw 0x3C, t, die, per]
  (l.zipIdx.map fun x => (x.2, BitVec.ofNat 32 x.1)).filter fun (x : Nat × W32) => x.2 != 0

/-- Step 3 of R129: registers set, no unit busy, both streams at word 0. -/
def Tess.startRun (t : Tess) (c : Cmd) (die n linear per : Nat) (bx ba : Option Nat) : Tess :=
  let idleTile (x : Tile) : Tile := { x with loading := false, readyAt := 0, useThrough := 0 }
  { st := .running, context := t.context, lastCtx := t.lastCtx, mustClear := t.mustClear, loadedFor := t.loadedFor, item := t.item
    sreg := startRegs c die n linear per, areg := startRegs c die n linear per, spad := t.spad, acc := t.acc
    tile0 := idleTile t.tile0, tile1 := idleTile t.tile1, ximem := t.ximem, aimem := t.aimem, qdir := t.qdir, nextId := t.nextId
    xBudget := bx, aBudget := ba }

/-- The budgets of an item (R167). -/
def Die.budgets (d : Die) (ctx : Nat) : Option Nat × Option Nat :=
  let lim (n : Nat) : Option Nat := if n = 0xFFFFFFFF then none else some n
  if d.budEnable && d.budCtx == ctx then (lim d.budX, lim d.budA) else (none, none)

/-- Run starts. -/
def State.runItem (s : State) (die t : Nat) (c : Cmd) (linear : Nat) : State :=
  let b := (s.die die).budgets c.id.ctx
  s.modTessera (tessKey die t) fun x => x.startRun c die t linear s.tessPerCd b.1 b.2

/-- The Load step of R129: header, then code (R133, R134). With a header that breaks a rule no stream has been presented a word. -/
def State.loadProgram (s : State) (die t : Nat) (c : Cmd) (g : Grid) (linear : Nat) : State :=
  let e := (c.eng (some die)).by (tessSeer (tessKey die t))
  let p : Place := { bank := none, remote := false }
  let va := u64 c.raw 0x20
  readThen c.id (s.readBytes e va 256 p) fun h s1 =>
    if headerGood h then
      readThen c.id (s1.readBytes e (va + 256) (u32 h 8 + u32 h 12) p) fun code s2 =>
        (s2.modTessera (tessKey die t) fun x => { x with
          ximem := imem (codeOf (code.take (u32 h 8))), aimem := imem (codeOf (code.drop (u32 h 8))), qdir := u8 h 5
          loadedFor := some (c.id, g.start) }).runItem die t c linear
    else
      let s2 := (s1.modTessera (tessKey die t) fun x => { x with ximem := [], aimem := [] }).runItem die t c linear
      let m : Sim := { t := s2.tessera (tessKey die t), d := s2.die die, g := g.guard, factor := g.factor }
      s2.haltTess die t c m true 0x02 0 (BitVec.ofNat 128 (ofLe (h.take 16))) false

/-- A tessera holds an item and counts among the grid's running ones; where its last item had another context, or it has halted or
been killed since, it clears itself first (R129 step 1). -/
def State.holdItem (s : State) (die t : Nat) (c : Cmd) (g : Grid) (linear : Nat) : State :=
  let k := tessKey die t
  (s.modTessera k fun x => { x with
    st := if x.mustClear || x.lastCtx != some c.id.ctx then .clearing else .running
    context := c.id.ctx, item := some ⟨c.id, g.start, linear⟩ }).modGrid c.id fun _ =>
    { g with running := insertNat g.running k, ran := insertNat g.ran k }

/-- Load where this is the tessera's first item of the command start, and Run (R129 steps 2 to 4). -/
def State.beginItem (s : State) (die t : Nat) (c : Cmd) (g : Grid) (linear : Nat) : State :=
  if (s.tessera (tessKey die t)).loadedFor = some (c.id, g.start) then s.runItem die t c linear else s.loadProgram die t c g linear

/-- A tessera takes an item and, unless it has to clear itself, carries out R129 up to Run. -/
def State.takeItem (s : State) (die t : Nat) (c : Cmd) (g : Grid) (linear : Nat) : State :=
  let s1 := s.holdItem die t c g linear
  if (s1.tessera (tessKey die t)).st = .running then s1.beginItem die t c g linear else s1

/-- A tessera has cleared itself (R129 step 1): it goes on with the item it holds, if it still holds one. -/
def State.clearEnds (s : State) (die t : Nat) : State :=
  let k := tessKey die t
  let x := s.tessera k
  let s1 := s.modTessera k fun _ => { x.cleared with item := x.item, st := if x.item.isSome then .running else .idle }
  match x.item, s.itemCmd die t with
  | some i, some c => match c.grid with
    | some g => s1.beginItem die t c g i.linear
    | none => s1
  | _, _ => s1

/-- Tessera power group of R50: its domain number. -/
def tessDomain (die t : Nat) : Nat := 35 * die + t / 4

/-- ITEM_CLAIM: an idle tessera takes an item; one that clears itself ends that (log entry 97). -/
def State.claim (s : State) (die t : Nat) : State :=
  if die < 8 && t < s.tessPerCd && (s.tessera (tessKey die t)).st == .clearing then s.clearEnds die t
  else if die < 8 && t < s.tessPerCd && (s.tessera (tessKey die t)).st == .idle && !s.offDom.contains (tessDomain die t) then
    match s.claimFor die t with
    | none => s
    | some (c, g) =>
      match g.obtain die t s.tessPerCd (targetDie c.raw) (pinned c.raw) (spreadEffective c.raw c.descs) with
      | (none, _) => s
      | (some i, g1) => s.takeItem die t c g1 i
  else s

def execItemClaim (die tess : Nat) (env : Env) (s : State) : Ans := s.within env fun s1 => s1.claim die tess

/- ---- finishing (R129 step 5, R94, R191) ---- -/

/-- Every item of the run is done. -/
def Grid.isOver (g : Grid) : Bool := g.placed && g.pool.isEmpty && g.running.isEmpty && g.deques.isEmpty

/-- The compute dies that a command runs on. -/
def Cmd.engineDies (c : Cmd) : List Nat := dedup (c.engines.filterMap engineCd)

/-- The SHIFT that a record reports (R193): R192 gives it as 0 to 63; where an FP32 guard's factor has another, its value is free (log
entry 95). -/
def State.shiftReport (s : State) (shift : Int) : Nat × State :=
  if 0 ≤ shift ∧ shift ≤ 63 then (shift.toNat, s) else (Config.freeNat s.fresh % 2 ^ 32, { s with fresh := s.fresh + 1 })

/-- The end of a run: commit, or a rerun of a guarded command (R191 to R194), which discards its sources again (R390). -/
def State.endRun (s : State) (c : Cmd) (g : Grid) : State :=
  if g.run = 1 then
    if g.guard.exceeds then
      (c.engineDies.foldl (fun t d => t.discardSources c d) s).modGrid c.id fun x => { x with
        run := 2, factor := some g.guard.newFactor, guard1 := g.guard, guard := {}, pool := g.items, itemsRun := 0, stolen := 0, remote := 0, ran := [] }
    else s.finish c.id g.ending
  else if 0 < g.guard.c then s.finish c.id { status := .scaleGuardFailed, detail := sat32 g.guard.c }
  else
    let m := g.factor.getD Fp.zero
    let x := s.shiftReport (q31Pair m).2
    x.2.finish c.id { status := .okScaleRerun, detail := (toF32 m).toNat, r0 := (q31Pair m).1, r1 := x.1, r2 := sat32 g.guard1.c, r3 := sat32 g.guard1.t }

/-- The item of a tessera is finished: both streams ended, everything issued has landed, its STOREs are acknowledged (R129 step 5). -/
def State.finishItem (s : State) (die t : Nat) : State :=
  match s.sim die t with
  | none => s
  | some (c, m) =>
    if m.t.xEnded && m.t.aEnded && m.t.queues.isEmpty && !m.unacked then
      let m1 := m.till Sim.quiet simFuel
      match m1.bad with
      | some (r, pc) => s.haltX die t c m1 r pc
      | none =>
        if !m1.t.xfers.isEmpty then s else
        let k := tessKey die t
        let s1 := (s.putSim die t c { m1 with t := { m1.t with st := .idle, item := none, lastCtx := some c.id.ctx } }).modGrid c.id fun g =>
          { g with running := g.running.filter (· != k), itemsRun := g.itemsRun + 1 }
        match (s1.cmd c.id).bind Cmd.grid with
        | some g => if g.isOver then s1.endRun c g else s1
        | none => s1
    else s

def execItemFinish (die tess : Nat) (s : State) : Ans := done (s.finishItem die tess)

/-- TD_SPARSE_CTL CLEAR (R231, R232). -/
def execTdSparseCtlClear (fn die : Nat) (s : State) : Ans :=
  if s.regsOpen fn && isPf fn && die < 8 then
    done (s.modDie die fun d => { d with groups := 0, zgroups := 0, npasses := 0, spasses := 0, mrows := 0, mitems := 0 })
  else .next s

end Sys2Proof.Machine
end

