-- ==== Sys2Proof/Machine/Engines.lean ====
section
/-! DEFINITION. The engines' own steps (spec 13; 03, R84 to R89): choosing and starting a command, killing one, ending a wait, and
share accounts crossing zero. -/

namespace Sys2Proof.Machine

/- ---- starting (R84, R364) ---- -/

/-- The work a command starts with. -/
def startWork (c : Cmd) (fresh : Nat) : Work :=
  match cls c.raw with
  | 1 => .grid { start := fresh }
  | 2 => .attn {}
  | 4 => if opc c.raw < 0x10 then .doc {} else .none
  | _ => .none

/-- The placards a STEP_COMMIT will rebuild (R85): ranges of memory. -/
def State.placardRanges (s : State) (c : Cmd) (stamp : Nat) : List Undef :=
  if cls c.raw = 4 ∧ opc c.raw = 0x12 then
    match (s.ctx c.id.ctx).layout with
    | some l => (s.rebuilt c.id.ctx l).map fun e => ⟨s.frameAddr e.frameId + 0x4000, s.frameAddr e.frameId + 0x4000 + l.pb, stamp⟩
    | none => []
  else []

/-- A command's first start veils its destination (R85) under a stamp of its own, which it keeps over kills. -/
def State.stampCmd (s : State) (c : Cmd) : State :=
  if c.stamp = 0 then
    let st := s.fresh
    let s1 := (s.bump.modCmd c.id fun x => { x with stamp := st }).veilDests c.id.ctx st c.dests
    { s1 with mem := { s1.mem with veil := s1.placardRanges c st ++ s1.mem.veil } }
  else { s with mem := { s.mem with veil := s.placardRanges c c.stamp ++ s.mem.veil } }

/-- INVALIDATE_SOURCES on the die of an engine that starts a part (R390). -/
def State.startDiscard (s : State) (c : Cmd) (e : EngineId) : State :=
  match engineCd e with
  | some d => s.discardSources c d
  | none => s

/-- What the start of a command changes beside its own stage: DESC_CREATE's slot becomes invalid (R207), a DISPATCH takes its
handle (R334). -/
def State.startEffects (s : State) (c : Cmd) : State :=
  if cls c.raw = 7 ∧ opc c.raw = 1 then s.modDesc (4096 * c.id.ctx + u16 c.raw 0x20) fun _ => none
  else if cls c.raw = 5 ∧ opc c.raw = 1 then s.dispatchStart c
  else s

/-- An engine starts a command, or its part of a running one. -/
def State.startOn (s : State) (e : EngineId) (c : Cmd) : State :=
  let x := s.ctx c.id.ctx
  let s1 : State := { s with lastCtx := Assoc.set 255 s.lastCtx (4 * engineKey e + x.prio) c.id.ctx }
  let s2 := if c.stage = .running then s1
    else
      let t := (s1.stampCmd c).bump
      t.modCmd c.id fun y => { y with stage := .running, startAt := s.clock, work := startWork c t.fresh }
  let s3 := s2.modCmd c.id fun y => { y with startedOn := y.startedOn ++ [e] }
  let s4 := s3.startDiscard c e
  let s5 := if c.stage = .running then s4 else s4.startEffects c
  s5.modCmd c.id fun y => { y with hasStarted := true, killedOn := [] }

/-- The die of an engine (R514). -/
def engineDie : EngineId → Nat
  | .tessGroup d | .pinned d _ | .attn d | .dma d => cdDie d
  | .registrar k => sbDie k
  | .courier l => ldDie l
  | .hostCopy _ | .hostCtl _ => hd0Die

/-- An engine may start commands: nothing stops the module, and its die is below HARDLIMIT (R515). -/
def State.mayChoose (s : State) (e : EngineId) : Bool :=
  !s.stopped && s.engineExists e && s.boot.st == .ready && decide ((s.logicTherm (engineDie e)).st < 3)

/-- An engine kills the command that x displaces (R365). -/
def State.displace (s : State) (e : EngineId) (x : Cmd) : State :=
  match s.victim e x with
  | some y => (s.kill y.id).modCmd x.id fun z => { z with killedOn := z.killedOn ++ [e] }
  | none => s

/-- ENGINE_CHOOSE: start the first in order of what can start, else kill for the first that displaces another. -/
def State.choose (s : State) (e : EngineId) : State :=
  if !s.mayChoose e then s
  else
    let cs := s.candidates e
    match leastBy (s.rank e) (cs.filter (s.canStart e)) with
    | some c => s.startOn e c
    | none =>
      match leastBy (s.rank e) (cs.filter fun c => (s.victim e c).isSome) with
      | some c => s.displace e c
      | none => s

def execEngineChoose (e : EngineId) (env : Env) (s : State) : Ans := s.within env fun t => t.choose e

/- ---- kills complete (R368, R369) ---- -/

/-- The failure that parts of a docent command have reported. -/
def Cmd.partFailure (c : Cmd) : Option Ending :=
  match c.work with
  | .doc d => partsEnding c.engines.length d.failed
  | _ => none

/-- The engines of a killed command are free; it is ready to run again, or ends with the status that a teardown gave it, or that a part
had reported before the kill (R370). Writes that are held back stay issued. -/
def State.killComplete (s : State) (id : CmdId) : State :=
  match s.cmd id with
  | none => s
  | some c =>
    if c.stage = .killing then
      let e := match c.ending with
        | some e => some e
        | none => c.partFailure
      s.modCmd id fun x => { x with
        stage := if e.isSome then .finished else .queued, ending := e, startedOn := [], work := .none, effects := [], remote := []
        writes := if e.isSome then [] else x.writes }
    else s

def execKillComplete (id : CmdId) (s : State) : Ans := done (s.killComplete id)

/- ---- waits (R89, R333) ---- -/

/-- A wait limit expires. -/
def State.timeOut (s : State) (id : CmdId) : State :=
  match s.cmd id with
  | none => s
  | some c =>
    if s.mayTimeOut c then
      let r := u16 c.raw 0x14
      s.fail id { status := .waitTimeout, r0 := if present r then (s.sem (semNo r)).toNat else 0 }
    else s

def execWaitTimeout (id : CmdId) (s : State) : Ans := done (s.timeOut id)

/- ---- share accounts (R363, R365) ---- -/

/-- A context's account on an engine crosses 0: a ready command may now displace a running one. -/
def execShareAccountCrossing (e : EngineId) (ctx : Nat) (s : State) : Ans :=
  if ctx < 256 && (s.ctx ctx).share != 0 && s.mayChoose e then
    let cs := (s.candidates e).filter fun c => !s.canStart e c && (s.victim e c).isSome
    match leastBy (s.rank e) cs with
    | some c => match s.victim e c with
      | some y => if y.id.ctx = ctx ∨ c.id.ctx = ctx then done (s.displace e c) else done s
      | none => done s
    | none => done s
  else done s

end Sys2Proof.Machine
end

