-- ==== Sys2Proof/Machine/Commands.lean ====
section
/-! DEFINITION. Contexts, queues, acceptance and commits as the host and the module drive them (spec 03, R68 to R87; 13, R366; 16,
R439, R448 to R453). -/

namespace Sys2Proof.Machine

/- ---- functions (R435, R439) ---- -/

/-- A function owns a context, or is the PF of its port. -/
def State.mayConfigure (s : State) (fn ctx : Nat) : Bool := (s.ctx ctx).fn == fn || fn == 64 * (s.ctx ctx).port

/- ---- HI_CTX_CFG (R68, R69, R366) ---- -/

/-- The sum of SHARE over the other contexts. -/
def State.shareBut (s : State) (ctx : Nat) : Nat :=
  ((List.range 256).map fun c => if c = ctx then 0 else (s.ctx c).share).foldl (· + ·) 0

/-- A context's accounts on every engine return to 0. -/
def State.zeroAccounts (s : State) (ctx : Nat) : State := { s with accounts := s.accounts.filter fun a => a.1 % 256 != ctx }

/-- A write to HI_CTX_CFG. -/
def State.writeCfg (s : State) (fn ctx value : Nat) : State :=
  if isPf fn && decide (ctx < 256) then
    let share := bits value 5 2
    let s1 := s.modCtx ctx fun c => { c with prio := bits value 1 0 }
    if s.shareBut ctx + share ≤ 16 then (s1.modCtx ctx fun c => { c with share := share }).zeroAccounts ctx
    else s1.modCtx ctx fun c => { c with shareRefused := true }
  else s

def execHiCtxCfgWrite (fn ctx value : Nat) (s : State) : Ans := if s.regsOpen fn then done (s.writeCfg fn ctx value) else .next s

/- ---- HI_CTX_CMD (R68, R70) ---- -/

/-- A function's write to HI_CTX_CMD counts: the context is its own and the function is enabled. -/
def State.mayCommand (s : State) (fn ctx : Nat) : Bool := decide (ctx < 256) && (s.ctx ctx).fn == fn && s.fnEnabled fn && s.boot.st == .ready

/-- CLOSED to OPEN. -/
def State.openCtx (s : State) (ctx : Nat) : State :=
  if (s.ctx ctx).st = .closed then (s.modCtx ctx fun c => { c with st := .opened, cause := .none }).zeroAccounts ctx else s

/-- A queue that owes nothing is disabled: all four pointers read 0 (R449). -/
def Queue.off (q : Queue) : Queue :=
  { q with enable := false, disabling := false, sqHead := 0, sqTail := 0, cqHead := 0, cqTail := 0, accepted := 0, written := 0,
           readFailed := false }

/-- Every queue of a context is disabled. -/
def State.queuesOff (s : State) (ctx : Nat) : State := (List.range 16).foldl (fun t q => t.modQueue (16 * ctx + q) Queue.off) s

/-- The handles of a released context are FREE (R334); entries whose outcome is still to come go on as those of an ORPHAN handle
(R341), under a context number of their own. -/
def State.releaseHandles (s : State) (ctx : Nat) : State :=
  let ghost := 256 + s.fresh
  let s1 := (List.range 64).foldl (fun t h =>
    let es := t.entriesOf ctx h
    let x := t.handle (handleKey ctx h)
    let t1 := es.foldl (fun u k => u.modEntry k fun e => { e with ctx := ghost }) t
    let t2 := if es = [] then t1 else t1.modHandle (handleKey ghost h) fun _ => { x with st := .orphan }
    t2.modHandle (handleKey ctx h) fun _ => {}) s
  s1.bump

/-- RELEASE: the context is CLOSED and holds nothing (R70, R92, R204, R298, R334, R449). -/
def State.release (s : State) (ctx : Nat) : State :=
  let c := s.ctx ctx
  let s1 := s.modCtx ctx fun x =>
    { x with st := .closed, layout := none, stepOpen := false, clen := [], rlen := [], shrunk := [], flr := false }
  let s2 : State := { s1 with
    descs := s1.descs.filter fun d => d.1 / 4096 != ctx
    allocs := s1.allocs.filter fun d => d.1 / 1024 != ctx
    sems := s1.sems.filter fun d => !c.owns d.1 }
  (s2.releaseHandles ctx).queuesOff ctx

/-- TORN_DOWN to CLOSED. -/
def State.releaseCtx (s : State) (ctx : Nat) : State := if (s.ctx ctx).st = .tornDown then s.release ctx else s

/-- A write to HI_CTX_CMD. -/
def State.writeCmd (s : State) (fn ctx op : Nat) : State :=
  if s.mayCommand fn ctx then
    match op with
    | 1 => s.openCtx ctx
    | 2 => s.enterDraining ctx .hostRequest
    | 3 => s.releaseCtx ctx
    | _ => s
  else s

def execCtxOpen (fn ctx : Nat) (s : State) : Ans := done (s.writeCmd fn ctx 1)
def execCtxTeardown (fn ctx : Nat) (s : State) : Ans := done (s.writeCmd fn ctx 2)
def execCtxRelease (fn ctx : Nat) (s : State) : Ans := done (s.writeCmd fn ctx 3)

/- ---- the end of DRAINING (R70, R71, R326, R458) ---- -/

/-- A queue has nothing more to accept under step 3 of R71. -/
def Queue.settled (q : Queue) : Bool := !q.enable || q.readFailed || q.sqHead == q.sqTail

/-- The last record of a draining context is written and every engine has released it: no LOAD of a halted tessera is in flight
(R164). -/
def State.drained (s : State) (ctx : Nat) : Bool :=
  let c := s.ctx ctx
  c.st == .draining && s.cmds.all (fun x => x.id.ctx != ctx) &&
  s.tess.all (fun x => !(x.2.st == .halted && x.2.context == ctx && !x.2.xfers.isEmpty)) &&
  (c.flr || (List.range 16).all fun q => (s.queue (16 * ctx + q)).settled)

/-- Halted tesserae of a context are released and clear themselves (R131): they return to service with the next item they are
offered. -/
def State.releaseTesserae (s : State) (ctx : Nat) : State :=
  ((s.tess.filter fun t => t.2.st == .halted && t.2.context == ctx).map (·.1)).foldl (fun u k =>
    u.modTessera k fun x => { x.cleared with st := .clearing }) s

/-- DRAINING to TORN_DOWN: the registrars free the context's pages and check their sums (R318, R326). -/
def State.drainEnd (s : State) (ctx : Nat) : State :=
  let s1 := ((s.modCtx ctx fun c => { c with st := .tornDown }).releaseTesserae ctx).cacheTeardown ctx
  let bad := s1.unconserved
  let s2 := bad.foldl (fun t k => t.modStack k fun x => { x with fatal := true }) s1
  let s3 := if bad = [] then s2 else s2.wantReset 2 0 (sbDie (bad.headD 0))
  if (s.ctx ctx).flr then s3.release ctx else s3

def execDrainComplete (ctx : Nat) (s : State) : Ans := if s.drained ctx then done (s.drainEnd ctx) else .next s

/- ---- HI_Q_CFG (R448, R449) ---- -/

/-- The fields of HI_Q_CFG beside ENABLE. -/
def Queue.fields (q : Queue) (value : Nat) : Queue :=
  { q with sqDev := bit value 30, cqDev := bit value 29, vector := bits value 26 16, log2 := bits value 4 0 }

/-- Count a refused enable. -/
def State.countQcfg (s : State) (ctx : Nat) : State :=
  s.modHport (s.ctx ctx).port fun p => { p with qcfg := satAdd 0xFFFFFFFF p.qcfg 1 }

/-- A write of ENABLE = 1. -/
def State.enableQueue (s : State) (ctx q value : Nat) : State :=
  let k := 16 * ctx + q
  let x := s.queue k
  if x.enable then s
  else if x.disabling then s.countQcfg ctx
  else
    let st := (s.ctx ctx).st
    let s1 := s.modQueue k fun y => y.fields value
    if (st == .closed || st == .opened) && decide (4 ≤ bits value 4 0) && decide (bits value 4 0 ≤ 16) then
      s1.modQueue k fun y => { y.off with enable := true }
    else s1.countQcfg ctx

/-- A write of ENABLE = 0. -/
def State.disableQueue (s : State) (ctx q value : Nat) : State :=
  let k := 16 * ctx + q
  let x := s.queue k
  if x.enable then s.modQueue k fun y => { y with enable := false, disabling := true }
  else if x.disabling then s
  else s.modQueue k fun y => y.fields value

/-- A write to HI_Q_CFG. -/
def State.writeQcfg (s : State) (fn ctx q value : Nat) : State :=
  if decide (ctx < 256) && decide (q < 16) && s.mayConfigure fn ctx then
    if bit value 31 then s.enableQueue ctx q value else s.disableQueue ctx q value
  else s

def execQEnable (fn ctx q value : Nat) (s : State) : Ans := if s.regsOpen fn && bit value 31 then done (s.writeQcfg fn ctx q value) else .next s
def execQDisable (fn ctx q value : Nat) (s : State) : Ans := if s.regsOpen fn && !bit value 31 then done (s.writeQcfg fn ctx q value) else .next s

/-- A disabling queue owes no record any more. -/
def State.owesNone (s : State) (ctx q : Nat) : Bool := s.cmds.all fun c => !(c.id.ctx == ctx && c.id.q == q)

def execQDisableComplete (ctx q : Nat) (s : State) : Ans :=
  if (s.queue (16 * ctx + q)).disabling && s.owesNone ctx q then done (s.modQueue (16 * ctx + q) Queue.off) else .next s

/- ---- doorbells (R440, R450) ---- -/

/-- The first word a write touches is a head doorbell's. -/
def headFirst (off : Nat) : Bool := off / 4 % 2 == 1

def execTailDoorbell (fn off size value : Nat) (s : State) : Ans :=
  if s.regsOpen fn && !headFirst off then done (s.ring fn off size value) else .next s
def execHeadDoorbell (fn off size value : Nat) (s : State) : Ans :=
  if s.regsOpen fn && headFirst off then done (s.ring fn off size value) else .next s

/- ---- acceptance (R71 step 3, R76, R77, R451, R453) ---- -/

/-- The entry at SQ HEAD may be read and accepted: no device reset is to come (R82). -/
def State.mayAccept (s : State) (ctx q : Nat) : Bool :=
  let x := s.queue (16 * ctx + q)
  let c := s.ctx ctx
  let size := 2 ^ x.log2
  decide (ctx < 256) && decide (q < 16) && s.boot.st == .ready && s.resetWanted.isNone && (s.pkg == .active || (s.pkg == .entering && c.st == .draining)) && x.enable && !x.readFailed &&
  x.sqHead != x.sqTail && decide ((x.sqHead + size - x.cqHead % size) % size + 1 < size) &&
  (c.st == .opened || (c.st == .draining && !c.flr)) && (x.sqDev || (s.func c.fn).busMaster)

/-- Count a failed host read. -/
def State.hostErr (s : State) (port : Nat) : State := s.modHport port fun p => { p with hosterr := satAdd 0xFFFFFFFF p.hosterr 1 }

/-- A queue access failed: the queue accepts nothing more and the context is torn down (R453). -/
def State.queueFail (s : State) (ctx q : Nat) : State :=
  (s.modQueue (16 * ctx + q) fun x => { x with readFailed := true }).enterDraining ctx .queueAccess

/-- The entry at SQ HEAD, read from device memory or brought by the host; none when the read failed. -/
def State.readEntry (s : State) (ctx q : Nat) (entry : HostReply) : Option (List Byte) × State :=
  let x := s.queue (16 * ctx + q)
  if x.sqDev then
    match s.readBytes { ctx := ctx } (x.sqBase + 64 * x.sqHead) 64 { bank := none, remote := false } with
    | (.ok (bs, _), s1) => (some bs, s1)
    | (.error _, s1) => (none, s1)
  else match entry with
    | .ok bs => (some (padTo 64 bs), s)
    | .failed _ => (none, s.hostErr (s.ctx ctx).port)

/-- The physical blocks of bank-pool operands, found at acceptance (R268). -/
def State.placeBlocks (s : State) (ctx : Nat) : List Nat → List (Nat × Nat) × State
  | [] => ([], s)
  | b :: r =>
    match s.resolve ctx (512 * b) false { bank := some true, remote := false } with
    | (.ok pa, s1) => let x := s1.placeBlocks ctx r; ((b, pa) :: x.1, x.2)
    | (.error _, s1) => s1.placeBlocks ctx r

/-- The padding lanes of a CG64 operand (R201). -/
def Desc.paddings (d : Desc) : List (List Nat) := d.rows.flatMap d.padding

/-- The 512-byte blocks of virtual space that a docent command's bank-pool operands touch, padding lanes included. -/
def docentBlocks (raw : List Byte) (ds : Descs) : List Nat :=
  if cls raw = 4 then
    let pads := (bankOperands raw).flatMap fun o => match dAt ds o with
      | some d => d.paddings.flatMap fun t => (d.elemBytes t).map (· / 512)
      | none => []
    dedup (((docentGroups raw ds).flatMap fun g => g.flatMap fun x => x.2.flatMap fun t => (x.1.elemBytes t).map (· / 512)) ++ pads)
  else []

/-- A command enters the list; SQ HEAD advances. -/
def State.enqueue (s : State) (c : Cmd) : State :=
  let k := queueKey c.id
  let s1 : State := { s with cmds := s.cmds ++ [c] }
  s1.modQueue k fun x => { x with sqHead := (x.sqHead + 1) % 2 ^ x.log2, accepted := x.accepted + 1 }

/-- A command that finishes at its acceptance: refused (R77), or torn down (R71). It takes no engine-queue entry. -/
def State.admitEnded (s : State) (id : CmdId) (raw : List Byte) (e : Ending) : State :=
  s.enqueue { id := id, raw := raw, descs := [], engines := [], stage := .finished, ending := some e }

/-- The fate of an entry that was read. -/
def State.acceptRaw (s : State) (ctx q : Nat) (raw : List Byte) : State :=
  let id : CmdId := ⟨ctx, q, (s.queue (16 * ctx + q)).accepted⟩
  let c := s.ctx ctx
  if c.st = .draining then s.admitEnded id raw { status := .contextTornDown, detail := c.cause.code }
  else match s.check ctx raw with
    | (.error e, s1) => s1.admitEnded id raw e
    | (.ok ds, s1) =>
      let x := if cls raw = 4 then s1.placeGroups ctx (docentGroups raw ds) else (.ok [], s1)
      let banks := match x.1 with
        | .ok l => l
        | .error _ => []
      let es := x.2.enginesOf ctx raw ds banks
      if x.2.roomFor es then
        let y := x.2.placeBlocks ctx (docentBlocks raw ds)
        y.2.enqueue { id := id, raw := raw, descs := ds, places := y.1, engines := es,
                      spreadIgnored := spreadIgnored raw ds }
      else s

/-- COMMAND_ACCEPT. -/
def State.accept (s : State) (ctx q : Nat) (entry : HostReply) : State :=
  if s.mayAccept ctx q then
    match s.readEntry ctx q entry with
    | (none, s1) => s1.queueFail ctx q
    | (some raw, s1) => s1.acceptRaw ctx q raw
  else s

def execCommandAccept (ctx q : Nat) (entry : HostReply) (env : Env) (s : State) : Ans := s.within env fun t => t.accept ctx q entry

/- ---- commits (R79, R83, R85) ---- -/

/-- The oldest command of a queue. -/
def State.oldest (s : State) (ctx q : Nat) : Option Cmd :=
  (s.cmds.filter fun c => c.id.ctx == ctx && c.id.q == q).find? fun c => s.earlierDone c.id

def State.commitOldest (s : State) (ctx q : Nat) : State :=
  match s.oldest ctx q with
  | some c => s.tryCommit c.id
  | none => s

def execCommandCommit (ctx q : Nat) (env : Env) (s : State) : Ans := s.within env fun t => t.commitOldest ctx q

end Sys2Proof.Machine
end

