-- ==== Sys2Proof/Machine/HostRows.lean ====
section
/-! DEFINITION. The host's side (spec 16): HCOPY, BAR4, the functions and their resets, MSI-X, power states of the ports, link training
and host errors. -/

namespace Sys2Proof.Machine

/- ---- HCOPY (R447, R455, R456) ---- -/

/-- Translate host bytes: each must lie in the host window (R447, R455). Answers host-window addresses. -/
def State.resolveHost (s : State) (ctx : Nat) (wr : Bool) : List Nat → Except Fail (List Nat) × State
  | [] => (.ok [], s)
  | va :: r =>
    match s.translate ctx va wr with
    | (.ok pa, s1) =>
      if isHostWin pa then
        match s1.resolveHost ctx wr r with
        | (.error f, s2) => (.error f, s2)
        | (.ok l, s2) => (.ok (pa :: l), s2)
      else (.error (.trans va), s1)
    | (.ecc a, s1) => (.error (.ecc (s1.reportAddr a)), s1)
    | (.none, s1) => (.error (.trans va), s1)

/-- The host address of a host-window address (R447). -/
def State.hostAddr (s : State) (ctx pa : Nat) : Nat := ((s.ctx ctx).hwin + bits pa 39 0) % 2 ^ 64

/-- The bytes of a descriptor's elements, each once, in element order. -/
def Desc.allBytes (d : Desc) : List Nat := dedup ((tuples d.size).flatMap d.elemBytes)

/-- Runs of consecutive addresses, cut at the multiples of a limit. -/
def byteRuns (lim : Nat) : List (Nat × Byte) → List (Nat × List Byte)
  | [] => []
  | (a, b) :: r =>
    match byteRuns lim r with
    | (a1, bs) :: t => if a1 = a + 1 ∧ a1 % lim ≠ 0 then (a, b :: bs) :: t else (a, [b]) :: (a1, bs) :: t
    | [] => [(a, [b])]

/-- The same for reads: host address, host-window address, length. -/
def readRuns (lim : Nat) : List (Nat × Nat) → List (Nat × Nat × Nat)
  | [] => []
  | (a, w) :: r =>
    match readRuns lim r with
    | (a1, w1, n) :: t => if a1 = a + 1 ∧ a1 % lim ≠ 0 then (a, w, n + 1) :: t else (a, w, 1) :: (a1, w1, n) :: t
    | [] => [(a, w, 1)]

/-- The read requests of a host operand (R437, R447): none is longer than Max Read Request Size or crosses a 4 KiB boundary. -/
def State.hostReads (s : State) (ctx : Nat) (hpa : List Nat) : List (Nat × Nat × Nat) :=
  readRuns (2 ^ min 12 (s.func (s.ctx ctx).fn).cfg.mrrs) (hpa.map fun w => (s.hostAddr ctx w, w))

/-- With ATS Enable set, the engine keeps the 4 KiB pages that it has had translated (R447; log entry 41). -/
def State.keepPages (s : State) (ctx : Nat) (hpa : List Nat) : State :=
  let fn := (s.ctx ctx).fn
  if (s.func fn).cfg.ats then
    s.modFunc fn fun f => { f with ats := f.ats ++ ((dedup (hpa.map fun w => s.hostAddr ctx w / 4096 * 4096)).map fun p => (p, 4096)).filter fun p => !f.ats.contains p }
  else s

/-- The record of an HCOPY (R455). -/
def hcopyEnding (d : Desc) : Ending := { status := .ok, detail := sat32 d.bytesAll }

/-- Host memory to device memory: the host's bytes, in the order of the operand's bytes. -/
def State.hcopyIn (s : State) (c : Cmd) (d src : Desc) (bs : List Byte) (hpa : List Nat) : State :=
  let idx := tuples d.size
  let got : List (Nat × Byte) := src.allBytes.zip bs
  let es := idx.map fun i => elemFrom src.fmt (fun va => Assoc.get 0 got va) (src.elem i).1 (src.elem i).2
  planThen c.id (s.planAt (c.eng none) d { bank := some d.bank, remote := false } (idx.zip es) []) fun ws s1 =>
    if hpa.length ≤ bs.length then s1.complete c.id (hcopyEnding d) ws else s1

/-- Device memory to host memory. The half of a byte that a 4-bit element does not fill is a free value (log entry 20). -/
def State.hcopyOut (s : State) (c : Cmd) (d src : Desc) (hpa : List Nat) : State :=
  let idx := tuples d.size
  match s.resolveAll c.id.ctx false { bank := some src.bank, remote := false } (idx.map fun i => (src.elem i).1) with
  | (.error f, s1) => s1.fail c.id f.ending
  | (.ok pas, s1) =>
    match s1.touch c.id.ctx none (granules pas) c.seer with
    | (some a, s2) => s2.fail c.id (Fail.ecc a).ending
    | (none, s2) =>
      let es := (pas.zip idx).map fun p => elemFrom src.fmt (s2.see (c.eng none)) p.1 (src.elem p.2).2
      let out := (idx.zip es).foldl (fun a p => elemWrite d.fmt (Config.freeByte s2.fresh) a (d.elem p.1).1 (d.elem p.1).2 p.2) []
      let bytes := (d.allBytes.zip hpa).map fun x => (s2.hostAddr c.id.ctx x.2, Assoc.get 0 out x.1)
      let s3 := (byteRuns (2 ^ min 9 (s2.func (s2.ctx c.id.ctx).fn).cfg.mps) bytes).foldl
        (fun t r => t.emit (.hostWrite (t.ctx c.id.ctx).fn r.1 r.2)) s2.bump
      s3.complete c.id (hcopyEnding d) []

/-- A host read of an HCOPY failed (R456). -/
def State.hcopyFail (s : State) (c : Cmd) (pa : Nat) : State :=
  (s.hostErr (s.ctx c.id.ctx).port).fail c.id { status := .eccUncorrectable, r0 := pa % 2 ^ 32, r1 := pa / 2 ^ 32 }

/-- Whether DST is the host operand of an accepted HCOPY (R455). -/
def State.hostIsDst (s : State) (c : Cmd) : Bool :=
  match (s.lowest c.id.ctx (c.descD 0x08)).1 with
  | some pa => isHostWin pa
  | none => false

/-- The host-window address of read request number k; a number beyond the last stands for the last. -/
def failedAt (reads : List (Nat × Nat × Nat)) (k : Nat) : Nat := (reads.getD (min k (reads.length - 1)) (0, 0, 0)).2.1

/-- HCOPY with what its host reads bring; of a failed one the record names the host-window address (R456). -/
def State.hcopyCmd (s : State) (host : HostReply) (c : Cmd) : State :=
  let d := c.descD 0x08
  let src := c.descD 0x0A
  let toHost := s.hostIsDst c
  match s.resolveHost c.id.ctx toHost (if toHost then d else src).allBytes with
  | (.error f, s1) => s1.fail c.id f.ending
  | (.ok hpa, s0) =>
    let s1 := s0.keepPages c.id.ctx hpa
    if toHost then s1.hcopyOut c d src hpa
    else
      let reads := s1.hostReads c.id.ctx hpa
      let s2 := reads.foldl (fun t r => t.emit (.hostRead (t.ctx c.id.ctx).fn r.1 r.2.2)) s1
      match host with
      | .ok bs => s2.hcopyIn c d src bs hpa
      | .failed k => s2.hcopyFail c (failedAt reads k)

def execHcopy (id : CmdId) (host : HostReply) (env : Env) (s : State) : Ans := s.work id 6 1 env fun t c => t.hcopyCmd host c

/- ---- HI_CTX_ROOT (R444, R446) ---- -/

def State.writeRoot (s : State) (fn ctx value : Nat) : State :=
  if decide (ctx < 256) && fn == 64 * (s.ctx ctx).port then
    { s.modCtx ctx (fun c => { c with root := bits value 42 15 * 2 ^ 15 + bits value 0 0 }) with tlb := s.tlb.filter fun t => t.ctx != ctx }
  else s

def execHiCtxRootWrite (fn ctx value : Nat) (s : State) : Ans := if s.regsOpen fn then done (s.writeRoot fn ctx value) else .next s

/- ---- BAR4 (R443, R457, R520) ---- -/

/-- BAR4 accepts accesses of a port: its window covers them and its BAR0 state is up. -/
def State.bar4Open (s : State) (port off len : Nat) : Bool :=
  decide (port < 2) && s.portEnabled port && s.boot.st == .ready && decide (0 < len) && decide (off + len ≤ 2 ^ s.bar4Log port)

/-- A read that overlaps a held write waits (R392, R520). -/
def execBar4Read (port off len : Nat) (env : Env) (s : State) : Ans :=
  if s.bar4Open port off len then s.within env fun t => t.readBar4 port off len else .next s

/-- Split a write at the 2 KiB blocks of the memory map. -/
def blockPieces : Nat → Nat → List Byte → List (Nat × List Byte)
  | 0, _, _ => []
  | n + 1, pa, bs =>
    if bs = [] then [] else
    let k := 2048 - pa % 2048
    (pa, bs.take k) :: blockPieces n (pa + k) (bs.drop k)

/-- A write reaches memory piece by piece (R387, R520); true when a piece is held. -/
def State.arriveAll (s : State) (pa : Nat) (bs : List Byte) (who : Holder) : Bool × State :=
  (blockPieces (bs.length / 2048 + 2) pa bs).foldl (fun (a : Bool × State) x => let y := a.2.arrive x.1 x.2 who; (a.1 || y.1, y.2)) (false, s)

/-- A host write through BAR4. -/
def State.bar4Write (s : State) (port off : Nat) (bs : List Byte) : State :=
  let pa := s.bar4Addr port off
  if s.allPopulated pa bs.length then (s.arriveAll pa bs (.host port)).2 else s.unpop port

def execBar4Write (port off : Nat) (bytes : List Byte) (env : Env) (s : State) : Ans :=
  if s.bar4Open port off bytes.length then s.within env fun t => t.bar4Write port off bytes else .next s

/- ---- resets of functions (R439, R458) ---- -/

/-- One context of a function that is reset. -/
def State.flrCtx (s : State) (ctx : Nat) : State :=
  match (s.ctx ctx).st with
  | .opened => (s.modCtx ctx fun c => { c with flr := true }).enterDraining ctx .reinitialise
  | .draining => s.modCtx ctx fun c => { c with flr := true }
  | .tornDown => s.release ctx
  | .closed => s.queuesOff ctx

/-- A reset of the owning PF ends its mailbox's update (R484). -/
def State.dropUpdate (s : State) (fn : Nat) : State :=
  match s.update with
  | some u => if fn % 64 = 0 ∧ u.who = .mailbox (fn / 64) then { s with update := none } else s
  | none => s

/-- A Function Level Reset (R458): its contexts drain without records, its configuration space and MSI-X table reset. -/
def State.flr (s : State) (fn : Nat) : State :=
  (((s.ctxsOf fn).foldl State.flrCtx s).modFunc fn fun _ => {}).dropUpdate fn

/-- Every function of a port is reset, and the port's status and BAR4 base (R458); its requests that waited are gone. -/
def State.portReset (s : State) (port : Nat) : State :=
  let s1 := (List.range 64).foldl (fun t f => t.flr (64 * port + f)) s
  ({ s1 with bells := s1.bells.filter fun b => b.1 / 64 != port, reads4 := s1.reads4.filter fun r => r.1 != port } : State).modHport port fun p =>
    { p with linkup := false, flitMode := false, degraded := false, rate := 0, width := 0, numVf := 0, bar4 := 0 }

/-- The host's configuration requests are answered: from step 6 of the boot on (R467), and in RECOVERY (R469). -/
def State.configOpen (s : State) : Bool := s.boot.st == .ready || s.boot.st == .recovery

/- ---- package low power (R546, R547) ---- -/

/-- The PFs of every enabled port are in D3hot. -/
def State.allD3 (s : State) : Bool := (List.range 2).all fun p => !s.portEnabled p || (s.func (64 * p)).d3

/-- Entry into S2 begins: acceptance stops and a quiescent point is requested (R546). -/
def State.beginS2 (s : State) : State :=
  if s.pkg == .active && s.allD3 && s.boot.st == .ready then { s.requestQuiesce with pkg := .entering } else s

/-- Exit from S2 (R547): domains wake on demand; an entry that has not reached its quiescent point is given up; a quiescent point that
waited for the exit is asked for now (R373). -/
def State.leaveS2 (s : State) : State :=
  if s.pkg == .active then s
  else
    let s1 : State := { s with pkg := .active }
    if s1.wantsQuiesce then s1.requestQuiesce
    else if s.pkg == .entering then { s1 with quiesce := false } else s1

/-- After a reset of functions: an S2 goes on only while every enabled PF is in D3hot (R547, R550). -/
def State.recheckS2 (s : State) : State := if s.allD3 then s else s.leaveS2

def execD3hotEntry (port : Nat) (s : State) : Ans :=
  if decide (port < 2) && s.portEnabled port && s.configOpen then done (s.modFunc (64 * port) fun f => { f with d3 := true }).beginS2 else .next s

def execD0Return (port : Nat) (s : State) : Ans :=
  if decide (port < 2) && s.portEnabled port && s.configOpen then done (s.modFunc (64 * port) fun f => { f with d3 := false }).leaveS2 else .next s

def execFunctionLevelReset (fn : Nat) (s : State) : Ans :=
  if decide (fn < 128) && s.fnEnabled fn && s.configOpen then done (s.flr fn).recheckS2 else .next s

/-- Assertion of PERST# (R458); a disabled port's is ignored (R435). A port reset also ends S2 (R547). -/
def execPerstAssert (port : Nat) (s : State) : Ans :=
  if decide (port < 2) && s.portEnabled port then done ((s.portReset port).leaveS2) else .next s

/-- A DL_Down on a port (R458). -/
def execDlDown (port : Nat) (s : State) : Ans :=
  if decide (port < 2) && s.portEnabled port then done ((s.portReset port).leaveS2) else .next s

/- ---- SR-IOV, MSI-X, bus mastering, ATS (R439, R447, R453, R454) ---- -/

/-- Reset the VFs of a port from a number on (R439, R458). -/
def State.resetVfs (s : State) (port first : Nat) : State :=
  (List.range 63).foldl (fun t f => if first ≤ f + 1 then t.flr (64 * port + f + 1) else t) s

/-- VF Enable is cleared: every VF of the port is reinitialised (R439). -/
def execVfEnableClear (port : Nat) (s : State) : Ans :=
  if decide (port < 2) && s.portEnabled port && s.configOpen then done ((s.resetVfs port 1).modHport port fun p => { p with numVf := 0 })
  else .next s

/-- VF Enable is set with NumVFs; VFs above it are reset, since NumVFs changes only while VF Enable is 0. -/
def execVfEnableSet (port num : Nat) (s : State) : Ans :=
  if decide (port < 2) && s.portEnabled port && s.boot.st == .ready && decide (num ≤ Assoc.get 0 s.totalVf port) then
    done ((if num < (s.hport port).numVf then s.resetVfs port (num + 1) else s).modHport port fun p => { p with numVf := num })
  else .next s

/-- The vectors of a function that have a message pending and are not masked (R454). -/
def Func.due (f : Func) : List Nat := f.pend.filter f.unmasked.contains

/-- While MSI-X is enabled, unmasked vectors with their Pending Bit set send their messages. -/
def State.sendPending (s : State) (fn : Nat) : State :=
  let due := (s.func fn).due
  if (s.func fn).msixOn then
    due.foldl (fun t v => t.emit (.msix (fn / 64) (fn % 64) v)) (s.modFunc fn fun f => { f with pend := f.pend.filter fun v => !due.contains v })
  else s

/-- The host sets a function's MSI-X Enable and one vector's Mask Bit (R454). -/
def State.setMsix (s : State) (fn vector : Nat) (enable unmask : Bool) : State :=
  (s.modFunc fn fun f =>
    { f with msixOn := enable, unmasked := if unmask then insertNat f.unmasked vector else f.unmasked.filter (· != vector) }).sendPending fn

def execMsixVectorUnmask (fn vector : Nat) (enable unmask : Bool) (s : State) : Ans :=
  if decide (fn < 128) && s.fnEnabled fn && decide (vector < Assoc.get 0 s.vectors fn) then done (s.setMsix fn vector enable unmask)
  else .next s

/-- A write of a function's configuration space: Bus Master Enable (R453: with it 0 its host-memory queues stand still and its HCOPYs
do not start) and the fields of R437. Translations go when ATS Enable is cleared. -/
def execBusMasterEnableWrite (fn : Nat) (cfg : HostCfgWrite) (s : State) : Ans :=
  if decide (fn < 128) && s.fnEnabled fn && s.configOpen then
    done (s.modFunc fn fun f => { f with busMaster := cfg.busMaster, cfg := cfg.rest, ats := if cfg.rest.ats then f.ats else [] })
  else .next s

/-- The host invalidates translated host addresses that the engine holds for a function (R447). -/
def execAtsInvalidation (fn lo hi : Nat) (s : State) : Ans :=
  if decide (fn < 128) && s.fnEnabled fn then
    done (s.modFunc fn fun f => { f with ats := f.ats.filter fun r => decide (hi ≤ r.1) || decide (r.1 + r.2 ≤ lo) })
  else .next s

/- ---- link training and host errors (R435, R436, R438, R453, R456) ---- -/

/-- Lanes the arrangement gives a port (R435). -/
def State.arranged (s : State) (port : Nat) : Nat :=
  match bits s.boot.straps 7 6 with
  | 0 => 16
  | 3 => if port = 0 then 16 else 0
  | _ => 8

/-- A port finishes training: in Flit mode at 64 GT/s always, at 32 and 16 GT/s as its partner allows (R436). -/
def State.linkUp (s : State) (port rate width : Nat) (flit : Bool) : State :=
  s.modHport port fun p => { p with
    linkup := true, rate := rate, width := width, flitMode := rate == 5 || (flit && decide (3 ≤ rate)),
    degraded := p.degraded || decide (rate < 3) || decide (width < s.arranged port) }

def execHostLinkUp (port rate width : Nat) (flit : Bool) (s : State) : Ans :=
  if decide (port < 2) && s.portEnabled port && decide (rate ≤ 5) && decide (1 ≤ width) && decide (width ≤ s.arranged port) then
    done (s.linkUp port rate width flit)
  else .next s

/-- A host read gets no completion: that of a queue entry (R453), or request number k of a running HCOPY (R456). -/
def State.completionTimeout (s : State) (ctx q : Nat) (hcopyOf : Option (CmdId × Nat)) : State :=
  match hcopyOf with
  | some (id, k) =>
    match s.running id 6 1 with
    | some c =>
      if s.hostIsDst c then s
      else match s.resolveHost id.ctx false (c.descD 0x0A).allBytes with
        | (.error f, s1) => s1.fail id f.ending
        | (.ok hpa, s1) => s1.hcopyFail c (failedAt (s1.hostReads id.ctx hpa) k)
    | none => s
  | none =>
    if s.mayAccept ctx q && !(s.queue (16 * ctx + q)).sqDev then (s.hostErr (s.ctx ctx).port).queueFail ctx q else s

def execCompletionTimeout (ctx q : Nat) (hcopyOf : Option (CmdId × Nat)) (s : State) : Ans := done (s.completionTimeout ctx q hcopyOf)

end Sys2Proof.Machine
end

