-- ==== Sys2Proof/Machine/Power.lean ====
section
/-! DEFINITION. The rows of temperature, power, supply and ageing (spec 19), of low power (20, R544 to R548), of crossings (02, R61 to
R66), ticks and events (21, R551 to R558), and of refresh (R523). -/

namespace Sys2Proof.Machine

/-- The dies are powered: power-on reset is not held. -/
def State.powered (s : State) : Bool := s.boot.wait != .power

/- ---- sensors (R512, R513) ---- -/

/-- The sensors of a die by kind and number; none for a number that is no die. -/
def sensorCount (array : Bool) (die : Nat) : Option Nat :=
  if array then (if die < 256 then some 4 else none) else if die < 32 then some (logicSensors die) else none

def execSensorSample (array : Bool) (die : Nat) (readings : List Int) (s : State) : Ans :=
  if s.powered && sensorCount array die == some readings.length then
    done (if array then s.sampleArray die readings else s.sampleLogic die readings)
  else .next s

def execSensorFail (array : Bool) (die sensor : Nat) (s : State) : Ans :=
  if s.powered && (match sensorCount array die with
    | some n => decide (sensor < n)
    | none => false) then done (s.failSensor array die sensor) else .next s

/-- Every die has stayed below 95 °C for 1 s: the held dies boot (R517). -/
def State.cooled (s : State) : Bool := s.therm.all (fun x => decide (x.2.temp < 760)) && s.atherm.all fun x => decide (x.2.temp < 760)

def execCoolDownEnd (s : State) : Ans :=
  if s.boot.wait == .coolDown && s.cooled then done s.bootNow.reheat else .next s

/- ---- allowances (R516, R526) ---- -/

def execThermalAllowanceUpdate (s : State) : Ans := if s.powered then done s.thermalStep else .next s
def execPowerAllowanceUpdate (die watts : Nat) (s : State) : Ans :=
  if s.powered && decide (die < 8) then done (s.powerStep die watts) else .next s
def execPowerCalibration (packageW cdMaxW : Nat) (s : State) : Ans :=
  if s.powered then done { s with packageW := min 0xFFFF packageW, cdMaxW := min 0xFFFF cdMaxW } else .next s

/- ---- held writes and paused docents (R521) ---- -/

def heldTimeout (k : Nat) : Ending := { status := .writeHeldTimeout, detail := k }

/-- The result of a discarded host or remote write. -/
def State.heldResult (s : State) (w : HeldWrite) : State :=
  match w.who with
  | .host _ => s.event (sbDie w.stack) 0x0209 (w.pa % 2 ^ 32) (w.pa / 2 ^ 32)
  | .remote _ _ _ _ => s.ackRemote w 3

/-- A command some of whose writes wait for an array die. -/
def State.heldCmd (s : State) (k a : Nat) : Option Cmd := s.cmds.find? fun c => s.touchesHeld k a c.writes

/-- The ending of a command one of whose writes was discarded: the stack's part fails (R273, R521). -/
def Cmd.heldEnding (c : Cmd) (k : Nat) : Ending :=
  if cls c.raw = 4 then (partsEnding c.engines.length [(k, heldTimeout k)]).getD (heldTimeout k) else heldTimeout k

/-- The writes of a command to an array die are discarded: its part fails. Those of a killed run fail nothing (R370). -/
def State.dropHeld (s : State) (k a : Nat) (c : Cmd) : State :=
  let s1 := s.modCmd c.id fun x => { x with writes := x.writes.filter fun w => s.arrayDieOf w.1 != some (k, a) }
  match c.stage with
  | .running => if cls c.raw = 4 then s1.failPart c.id k (heldTimeout k) else s1.fail c.id (heldTimeout k)
  | .finished => s1.endCmd c.id (c.heldEnding k)
  | _ => s1

/-- A write held for 10 ms is discarded: the array die's oldest host or remote write, unless a command's came before it. -/
def State.heldExpire (s : State) (k a : Nat) : State :=
  match s.heldCmd k a, s.held.find? (fun w => w.stack == k && w.adie == a) with
  | none, none => s
  | none, some w => ({ s with held := s.held.erase w }).heldResult w
  | some c, none => s.dropHeld k a c
  | some c, some w => if w.behind.contains c.id then s.dropHeld k a c else ({ s with held := s.held.erase w }).heldResult w

def execHeldWriteExpiry (stack arrayDie : Nat) (s : State) : Ans := done (s.heldExpire stack arrayDie)

/-- The command whose task on a bank is paused. -/
def State.pausedCmd (s : State) (k b : Nat) : Option CmdId :=
  (s.cmds.find? fun c => match c.work with
    | .doc d => d.tasks.any fun t => t.stack == k && t.bank == b && t.paused
    | _ => false).map (·.id)

def execDocentPauseExpiry (stack bank : Nat) (s : State) : Ans :=
  match s.pausedCmd stack bank with
  | some id => done (s.failPart id stack (heldTimeout stack))
  | none => .next s

/- ---- refresh (R523) ---- -/

def bankKey (stack bank : Nat) : Nat := 1024 * stack + bank

/-- The next refresh operation of a bank; a new window begins after 8,192. -/
def State.refreshBank (s : State) (k b : Nat) : State :=
  let n := (Assoc.get 0 s.refreshOp (bankKey k b) + 1) % 8192
  let s1 : State := { s with refreshOp := Assoc.set 0 s.refreshOp (bankKey k b) n }
  if n = 0 then { s1 with acts := s1.acts.filter fun x => x.1 / 65536 != bankKey k b } else s1

def execRefreshOperation (stack bank : Nat) (s : State) : Ans :=
  if s.powered && decide (stack < 16) && decide (bank < 1024) then done (s.refreshBank stack bank) else .next s

/-- The rows beside a row are refreshed; the row's count of the window begins again. `acts` counts these refreshes by row. -/
def execTargetedRefresh (stack bank row : Nat) (s : State) : Ans :=
  if s.powered && decide (stack < 16) && decide (bank < 1024) && decide (row < 49152) then
    let k := 65536 * bankKey stack bank + row
    done { s with acts := Assoc.set 0 s.acts k (Assoc.get 0 s.acts k + 1) }
  else .next s

/- ---- rails (R528 to R530) ---- -/

/-- A rail crosses its warning level. During a relock the allowance follows at its end (R538). -/
def State.railWarn (s : State) (r mv : Nat) : State :=
  let s1 := s.modRail r fun x =>
    { x with mv := mv, warn := true, low := true, least := if x.warn then min x.least mv else mv, crossedReset := x.warn && x.crossedReset }
  ({ s1 with asupply := if s1.relocking then s1.asupply else 8 }).settleHeat

def execRailWarningCross (rail mv : Nat) (s : State) : Ans :=
  if s.powered && decide (rail < 7) && s.below rail mv 5 then done (s.railWarn rail mv) else .next s

/-- A rail returns above its warning level; a dip without reset is counted and recorded. -/
def State.railReturn (s : State) (r mv : Nat) : State :=
  let x := s.rail r
  let s1 := s.modRail r fun y => { y with mv := mv, warn := false, least := 0, crossedReset := false }
  let s2 := if x.crossedReset then s1
    else ({ s1 with dips := satAdd 0xFFFFFFFF s1.dips 1 }).event hd1Die 0x0206 r x.least
  s2.settleHeat

def execRailWarningReturn (rail mv : Nat) (s : State) : Ans :=
  if s.powered && decide (rail < 7) && (s.rail rail).warn && !s.below rail mv 5 then done (s.railReturn rail mv) else .next s

/-- Every rail has stayed above its warning level for 1 ms. -/
def execSupplyRecovery (s : State) : Ans := if s.rails.all fun r => !r.2.warn then done { s with asupply := 16 } else .next s

/-- A rail crosses its reset level: a device reset, or for VDD_AUX a loss of power. -/
def State.railReset (s : State) (r mv : Nat) : State :=
  if r = 5 then s.powerOff
  else
    let s1 := s.modRail r fun x => { x with mv := mv, warn := true, low := true, crossedReset := true, least := if x.warn then min x.least mv else mv }
    (s1.event hd1Die 0x0207 r mv).wantReset 5 0 hd1Die

def execRailResetCross (rail mv : Nat) (s : State) : Ans :=
  if s.powered && decide (rail < 7) && s.below rail mv 10 then done (s.railReset rail mv) else .next s

def execRailPowerLoss (rail mv : Nat) (s : State) : Ans :=
  if s.powered && decide (rail < 7) && (s.below rail mv 20 || (rail == 5 && s.below rail mv 10)) then done s.powerOff else .next s

/- ---- patina (R534, R536) ---- -/

def execPatinaMeasurement (slacks again : List (Nat × Nat × Int)) (s : State) : Ans :=
  if s.powered then done (s.measurePatina slacks again) else .next s
def execPatinaHeaderSave (s : State) : Ans := if s.powered then done s.startSave else .next s

/- ---- G2 (R50, R51, R544, R548) ---- -/

/-- What a domain is. -/
inductive Domain where
  | tessGroup (die group : Nat)
  | cache (die : Nat)
  | docents (stack group : Nat)
  | port (p : Nat)
  | other
deriving DecidableEq, Repr

def domainOf (n : Nat) : Domain :=
  if n < 280 then (if n % 35 < 32 then .tessGroup (n / 35) (n % 35) else if n % 35 = 32 then .cache (n / 35) else .other)
  else if n < 376 then (if 2 ≤ (n - 280) % 6 then .docents ((n - 280) / 6) ((n - 280) % 6 - 2) else .other)
  else if n < 430 then (if (n - 376) % 9 < 8 then .port (8 * ((n - 376) / 9) + (n - 376) % 9) else .other)
  else .other

/-- A tessera group that the grade disables is off for good (R51). -/
def State.gradeOff (s : State) (n : Nat) : Bool :=
  match domainOf n with
  | .tessGroup _ g => decide (s.tessPerCd ≤ 4 * g)
  | _ => false

/-- A domain is switched off. -/
def State.domainOff (s : State) (n : Nat) : Bool := s.offDom.contains n || s.gradeOff n

/-- A domain is idle and its kind may be switched off. -/
def State.g2May (s : State) (n : Nat) : Bool :=
  s.boot.st == .ready && !s.domainOff n &&
  match domainOf n with
  | .tessGroup d g => bit s.lpCtl 0 && (List.range 4).all (fun i => (s.tessera (128 * d + 4 * g + i)).st == .idle) &&
      s.cmds.all fun c => !(cls c.raw == 1 && (c.stage == .running || c.stage == .killing) &&
        c.engines.any fun e => engineDie e == d)
  | .cache _ => bit s.lpCtl 1
  | .docents k g => bit s.lpCtl 2 && s.cmds.all fun c => match c.work with
      | .doc w => w.tasks.all fun t => !(t.stack == k && t.bank / 256 == g && t.st != .waiting)
      | _ => true
  | .port p => (s.portGroup p).isNone || (s.port p).st != .up
  | .other => false

/-- What a domain loses. -/
def State.g2Lose (s : State) (n : Nat) : State :=
  match domainOf n with
  | .tessGroup d g => (List.range 4).foldl (fun u i => u.modTessera (128 * d + 4 * g + i) fun t =>
      { mustClear := true, context := t.context, lastCtx := t.lastCtx }) s
  | .cache d => s.discardDie d
  | .docents k g => s.modStack k fun x => { x with program := x.program.filter fun y => y.1 / 256 != g }
  | .port p => s.modPort p fun x => { x with st := .down, nbr := 0, nport := 0, fails := [] }
  | .other => s

def execG2Entry (domain : Nat) (s : State) : Ans :=
  if s.g2May domain then done { s.g2Lose domain with offDom := insertNat s.offDom domain } else .next s

/-- A domain leaves G2; a Woson port then trains again (R544). -/
def State.wake (s : State) (n : Nat) : State :=
  if s.offDom.contains n then
    let s1 : State := { s with offDom := s.offDom.filter (· != n) }
    match domainOf n with
    | .port p => (s1.modPort p fun x => { x with st := .training }).resync (portCrossing p)
    | _ => s1
  else s

/-- Work arrives for a domain in G2; in S2 domains stay off (R547). -/
def execG2Wake (domain : Nat) (s : State) : Ans :=
  if s.pkg == .s2 then .next s else done (s.wake domain)

/-- A write to SC_LP_CTL. -/
def State.writeLpCtl (s : State) (fn value : Nat) : State :=
  if isPf fn then
    let v := bits value 2 0
    let wakes (n : Nat) : Bool := match domainOf n with
      | .tessGroup _ _ => !bit v 0
      | .cache _ => !bit v 1
      | .docents _ _ => !bit v 2
      | _ => false
    { s with lpCtl := v, offDom := if s.pkg = .s2 then s.offDom else s.offDom.filter fun n => !wakes n }
  else s

def execScLpCtlWrite (fn value : Nat) (s : State) : Ans := if s.regsOpen fn then done (s.writeLpCtl fn value) else .next s

/- ---- crossings (R61 to R66) ---- -/

/-- One side of a FIFO crossing leaves reset and asks (R61 step 1, R62). -/
def execResyncRequest (x : Crossing) (far : Bool) (s : State) : Ans :=
  match crossKey x with
  | some k => done (s.modCrossing k fun c => if far then { c with far := true } else { c with near := true })
  | none => .next s

/-- What waited for a crossing goes on: flits of a Woson port's group. -/
def State.resume (s : State) (k : Nat) : State :=
  if k / 32 < 24 ∨ 30 ≤ k / 32 ∨ k % 32 < 2 then s
  else match s.portGroup (8 * (k / 32 - 24) + k % 32 - 2) with
    | some g => if s.groupUp g then s.drainGroup g else s
    | none => s

/-- The acknowledgement: one handshake serves both sides (R61 step 3, R62). -/
def execResyncAck (x : Crossing) (s : State) : Ans :=
  match crossKey x with
  | some k =>
    if s.resyncing k then done ((s.resync k).resume k) else .next s
  | none => .next s

/- ---- ticks and events (R551 to R558) ---- -/

/-- A write to SC_TICK_CMD. -/
def State.tickCmd (s : State) (fn value : Nat) : State :=
  if isPf fn && bit value 31 && s.snapBusy.isEmpty then
    { s.modEv hd1Die (fun e => { e with snap := e.tick }) with snapBusy := List.range 31 }
  else s

def execTickSnapshot (fn value : Nat) (s : State) : Ans := if s.regsOpen fn then done (s.tickCmd fn value) else .next s

def execSnapshotMessage (die : Nat) (s : State) : Ans :=
  if s.snapBusy.contains die && !s.resyncing (netCrossing die) then
    done { s.modEv die (fun e => { e with snap := e.tick }) with snapBusy := s.snapBusy.filter (· != die) }
  else .next s

/-- A die records an event of its own; a double-sampled value that was not accepted marks its crossing (R60). -/
def State.recordEvent (s : State) (die code a0 a1 : Nat) : State :=
  let s1 := if code = 0x0301 then s.modCrossing (32 * bits a0 4 0 + bits a0 15 8 % 32) fun c => { c with disagree := true } else s
  s1.event die code a0 a1

def execEventRecord (die code arg0 arg1 : Nat) (s : State) : Ans :=
  if s.powered && decide (die < 32) && decide (code < 65536) then done (s.recordEvent die code arg0 arg1) else .next s

/-- A record waits while the return of the control network resynchronises (R61). -/
def execEventStore (die : Nat) (s : State) : Ans :=
  if decide (die < 32) && (die == hd1Die || !s.resyncing (returnCrossing die)) then done (s.storeFrom die) else .next s

/-- The eight words of an event record (R554); an empty slot reads zero. -/
def EvRec.words (r : EvRec) : List Nat :=
  [r.tick % 2 ^ 32, r.tick / 2 ^ 32 % 2 ^ 32, r.seq, r.code + 65536 * r.src, r.arg0, r.arg1, r.boot, r.num]
def State.slotWords (s : State) (slot : Nat) : List Nat :=
  match s.logSlot slot with
  | some r => r.words
  | none => List.replicate 8 0

/-- The address of an event slot. -/
def slotAddr (slot : Nat) : Nat := 0x00210000 + 32 * slot

/-- A read of a slot's word 0 captures the slot for the function's next reads; a VF reads zero (R442). -/
def State.readSlot0 (s : State) (fn slot : Nat) : Nat × State :=
  if isPf fn then
    ((s.slotWords slot).headD 0, { s with slotCap := Assoc.set none s.slotCap fn (some (slot, s.slotWords slot)) })
  else (0, s)

def execEvtSlotRead (fn slot : Nat) (s : State) : Ans :=
  if s.regsOpen fn && decide (slot < 4096) then
    let x := s.readSlot0 fn slot
    done (x.2.emit (.regRead fn (slotAddr slot) 4 x.1))
  else .next s

end Sys2Proof.Machine
end

