-- ==== Sys2Proof/Machine/Boot.lean ====
section
/-! DEFINITION. The rows of start-up, resets, quiescent points, remaps, saves, the mailbox and the firmware update (spec 17, 18), and of
the board sideband (17, R485; 19, R539, R540). -/

namespace Sys2Proof.Machine

/- ---- power-on and boot (R49, R467, R518) ---- -/

/-- The rails rise: every die is held in power-on reset; the flash holds what it held before, at the first power-on the board's
image (R463). -/
def State.powerUp (s : State) (b : Board) : State :=
  let s1 : State := { s with board := some b, flash := if s.board.isNone then b.flash else s.flash }
  (List.range 7).foldl (fun t r => t.modRail r fun x => { x with mv := s1.nominal r / 8 }) s1

def execPowerOn (board : Board) (s : State) : Ans := if s.powered then .next s else done (s.powerUp board)

/-- All rails have stayed above warning for 2 ms: the reset sequencer releases the dies. -/
def execRailsStable (s : State) : Ans :=
  if !s.powered && s.board.isSome && !s.rails.isEmpty && s.rails.all (fun r => !r.2.warn) then done s.bootNow.reheat else .next s

def execBootTemperatureWaitEnd (s : State) : Ans :=
  match s.boot.wait with
  | .logicCold => if s.logicWarm then done s.bootStep4 else .next s
  | .arrayCold => if s.arraysWarm then done s.bringUp else .next s
  | _ => .next s

/- ---- device resets (R504 to R506) ---- -/

/-- A write to GL_RESET_CTL. -/
def State.resetCtl (s : State) (fn value : Nat) : State :=
  if isPf fn && bit value 31 && bits value 15 0 == 0xC3A5 then s.wantReset 1 0 hd0Die else s

def execDeviceResetRequest (fn value : Nat) (s : State) : Ans := if s.barOpen fn then done (s.resetCtl fn value) else .next s

def execHd0HeartbeatTimeout (s : State) : Ans :=
  if s.powered && s.boot.wait != .coolDown then done s.hostDieFailure else .next s

/- ---- quiescent points (R57, R373, R478, R501, R534) ---- -/

def execQuiescentPoint (s : State) : Ans := done s.quiescent

/-- The PLLs have relocked; a supply allowance that waited for the relock applies (R538). -/
def execPllRelockComplete (s : State) : Ans :=
  if s.relocking then
    done { s with relocking := false, asupply := if s.rails.any (fun r => r.2.warn) then 8 else s.asupply }
  else .next s

/-- An overlay would change a context's PORT, FUNCTION, SEMFIRST or SEMCOUNT. -/
def Overlay.moves (o : Overlay) (k : Nat) (c : Ctx) : Bool :=
  let x := c.fromOverlay (o.ctxOf k)
  x.port != c.port || x.func != c.func || x.semFirst != c.semFirst || x.semCount != c.semCount

/-- A slot of this module is in use: an open step, a held copy or a nonempty bin set. -/
def State.slotUsed (s : State) (i : Nat) : Bool :=
  let x := s.slot i
  x.isOpen || !x.even.copies.isEmpty || !x.odd.copies.isEmpty || (s.courier (i % 6)).held.any fun h => h.1 == i

/-- The slots of this module that two expert maps give different entries. -/
def State.slotsMoved (s : State) (o : Overlay) : List Nat :=
  let mine (e : Nat) : List Nat := if expertValid e && expertModule e == s.modid then [expertSlot e] else []
  dedup ((List.range 4096).flatMap fun n =>
    let a := s.expertEntry n
    let b := Assoc.get 0 o.expert n
    if a = b then [] else mine a ++ mine b)

/-- Why a switch is refused (R478), in the order of GL_OVL.REFUSE. -/
def State.switchRefusal (s : State) (i : Nat) : Option Nat :=
  match s.overlay i with
  | none => some 1
  | some o =>
    if (List.range 256).any fun k => (s.ctx k).st != .closed && o.moves k (s.ctx k) then some 2
    else if (s.slotsMoved o).any s.slotUsed then some 3
    else if s.ovlBusy.isSome then some 4
    else none

/-- A write to GL_OVL_CMD. -/
def State.ovlCmd (s : State) (fn value : Nat) : State :=
  if isPf fn && bit value 31 && s.boot.st == .ready then
    let i := bits value 2 0
    match s.switchRefusal i with
    | some r => { s with ovlRefuse := r }
    | none => if i = s.active then s else ({ s with ovlBusy := some i }).requestQuiesce
  else s

def execOverlaySwitchRequest (fn value : Nat) (s : State) : Ans := if s.barOpen fn then done (s.ovlCmd fn value) else .next s

/- ---- remaps (R499 to R502) ---- -/

/-- The cause of a request (R500). -/
def Stack.remapCause (x : Stack) (finding : Bool) (bank row : Nat) : Nat :=
  if !finding then 3 else if x.badRows.contains (bank, row) then 1 else if (x.entryOf bank row).isSome then 4 else 2

/-- A write to SB_REMAP_REQ. -/
def State.remapReq (s : State) (fn k value : Nat) : State :=
  if isPf fn && decide (k < 16) && bit value 31 then
    let bank := bits value 25 16
    let row := bits value 15 0
    let x := s.stack k
    if 49152 ≤ row ∨ x.pending.any (fun q => q.1 == bank && q.2.1 == row) then s.refuseRemap k 3 bank row
    else if 8 ≤ x.pending.length then s.refuseRemap k 4 bank row
    else s.modStack k fun y => { y with pending := y.pending ++ [(bank, row, x.remapCause (bit value 26) bank row)] }
  else s

def execRemapRequest (fn stack value : Nat) (s : State) : Ans := if s.regsOpen fn then done (s.remapReq fn stack value) else .next s

/-- A write to GL_REMAP_CMD. -/
def State.remapCmd (s : State) (fn value : Nat) : State :=
  if isPf fn && bit value 31 && s.boot.st == .ready then ({ s with applyReq := true }).requestQuiesce else s

def execRemapApply (fn value : Nat) (s : State) : Ans := if s.barOpen fn then done (s.remapCmd fn value) else .next s

/-- A save that carries applied remaps, or one that does not, completes (R480, R502). -/
def State.savesRemaps (s : State) : Bool := s.stackTab.any fun k => k.2.saving
def execRemapSaveComplete (s : State) : Ans := if s.persistBusy && s.savesRemaps then done s.endSave else .next s
def execPersistSaveComplete (s : State) : Ans := if s.persistBusy && !s.savesRemaps then done s.endSave else .next s

/- ---- the mailbox (R483, R484) ---- -/

/-- A mailbox operation is issued: the write of CMD with GO takes OP and LEN, and BUSY is set until the response is ready; a GO while
BUSY is ignored. -/
def State.mailOp (s : State) (fn op len : Nat) : State :=
  let port := fn / 64
  if isPf fn && s.portEnabled port && (s.boot.st == .ready || s.boot.st == .recovery) && !(s.hport port).mbBusy then
    s.modHport port fun p => { p with mbOp := op, mbLen := len % 8192, mbBusy := true, mbWait := 2 }
  else s

def execGetInfo (fn len : Nat) (s : State) : Ans := done (s.mailOp fn 0x01 len)
def execAttest (fn len : Nat) (s : State) : Ans := done (s.mailOp fn 0x02 len)
def execGetCert (fn len : Nat) (s : State) : Ans := done (s.mailOp fn 0x03 len)
def execUpdateBegin (fn len : Nat) (s : State) : Ans := done (s.mailOp fn 0x10 len)
def execUpdateData (fn len : Nat) (s : State) : Ans := done (s.mailOp fn 0x11 len)
def execUpdateEnd (fn len : Nat) (s : State) : Ans := done (s.mailOp fn 0x12 len)
def execUpdateAbort (fn len : Nat) (s : State) : Ans := done (s.mailOp fn 0x13 len)

/-- 60 s without an operation release the hold. -/
def execUpdateHoldTimeout (s : State) : Ans := done s.dropHold

/- ---- PLDM for Firmware Update (R485) ---- -/

/-- A PLDM answer of the firmware device: which request, and its result. -/
def State.pldmReply (s : State) (req result : Nat) : State := s.emit (.pldm req [result])

/-- ALREADY_IN_UPDATE_MODE of DSP0267. -/
def alreadyInUpdateMode : Nat := 0x81

/-- The update agent may talk to the module: HD0 runs its firmware or its ROM (R469, R539). -/
def State.pldmUp (s : State) : Bool := s.boot.st == .ready || s.boot.st == .recovery

def execRequestUpdate (imageLen : Nat) (s : State) : Ans :=
  if !s.pldmUp then .next s
  else if s.update.isSome then done (s.pldmReply 0x10 alreadyInUpdateMode)
  else let x := s.beginUpdate .pldm imageLen; done (x.2.pldmReply 0x10 x.1)

def execRequestFirmwareData (offset : Nat) (data : List Byte) (s : State) : Ans :=
  if !s.pldmUp then .next s else let x := s.dataUpdate .pldm offset data; done (x.2.pldmReply 0x15 x.1)

/-- VerifyComplete: the checks of UPDATE_END. -/
def State.verify (s : State) : Nat × State :=
  s.withHold .pldm fun u => match s.updateFail with
    | none => (mbOk, { s with update := some { u with verified := true } })
    | some _ => (mbVerifyFailed, s)

def execVerifyComplete (s : State) : Ans :=
  if !s.pldmUp then .next s else let x := s.verify; done (x.2.pldmReply 0x17 x.1)

/-- ApplyComplete: the marker write, after a verification that passed. -/
def State.apply (s : State) : Nat × State :=
  s.withHold .pldm fun u =>
    if !u.verified then (mbBadState, s) else if s.slotWorn then (mbFlashError, s.dropHold) else (mbOk, s.writeMarker.dropHold)

def execApplyComplete (s : State) : Ans :=
  if !s.pldmUp then .next s else let x := s.apply; done (x.2.pldmReply 0x18 x.1)

def execCancelUpdate (s : State) : Ans :=
  if !s.pldmUp then .next s else let x := s.abortUpdate .pldm; done (x.2.pldmReply 0x1D x.1)

/-- ActivateFirmware reports that a device reset is needed. -/
def execActivateFirmware (s : State) : Ans := if s.pldmUp then done (s.pldmReply 0x1A 1) else .next s

/- ---- sideband (R539, R540) ---- -/

def execSetEventReceiver (eid : Nat) (s : State) : Ans := if s.powered then done { s with eventReceiver := some (eid % 256) } else .next s
def execSetEndpointId (eid : Nat) (s : State) : Ans := if s.powered then done ({ s.dropSession with eid := eid % 256 }.emit (.mctp 1 (eid % 256))) else .next s
def execEntdaa (addr : Nat) (s : State) : Ans := if s.powered then done ({ s.dropSession with i3cAddr := addr % 128 }.emit (.mctp 2 (addr % 128))) else .next s

/-- The sensor values of R540. -/
def State.sensorValues (s : State) : List (Nat × Int) :=
  let hot (l : List (Nat × Therm)) (n : Nat) : Int :=
    (List.range n).foldl (fun a i => max a (Assoc.get {} l i).temp) (Assoc.get {} l 0).temp
  [(1, hot s.therm 32), (2, hot s.atherm 256), (3, s.packageW)] ++
  (List.range 7).map (fun r => (4 + r, ((s.rail r).mv : Int))) ++
  [(11, (s.planEff : Int)), (12, (((List.range 8).map s.pulses).foldl min 16 : Nat)), (13, s.patina.margin), (14, (s.patina.g : Int)),
   (15, (s.patina.k : Int)), (16, (s.patina.hours : Int)), (17, (s.patina.projection : Int))]

/-- Thresholds of sensors 1 and 2 that a value has reached. -/
def sensorLevel (id : Nat) (v : Int) : Nat :=
  if id = 1 then b2n (decide (760 ≤ v)) + b2n (decide (840 ≤ v)) + b2n (decide (920 ≤ v))
  else if id = 2 then b2n (decide (680 ≤ v)) + b2n (decide (800 ≤ v)) + b2n (decide (920 ≤ v))
  else 0

/-- The sensor values are refreshed, and threshold crossings are sent to the event receiver. -/
def State.refreshSensors (s : State) : State :=
  let new := s.sensorValues
  let old (id : Nat) : Int := Assoc.get (Assoc.get 0 new id) s.sensors id
  let crossed := new.filter fun v => sensorLevel v.1 v.2 != sensorLevel v.1 (old v.1)
  let s1 : State := { s with sensors := new }
  match s.eventReceiver with
  | some e => crossed.foldl (fun t v => t.emit (.pldm 0x0A [e, v.1, ofSigned 32 v.2, sensorLevel v.1 v.2])) s1
  | none => s1

def execSensorRefresh (s : State) : Ans := if s.powered then done s.refreshSensors else .next s

/- ---- boundary scan (R486) ---- -/

/-- IEEE 1149.1 instructions by the model's own numbers (log entry 31): BYPASS, IDCODE, SAMPLE/PRELOAD and EXTEST run always; any
other is a Hjelros test instruction: under the debug lock it acts as BYPASS, as IEEE 1149.1 has it for an instruction that is not
provided, and without the lock the spec does not say what it does. -/
def execBoundaryScanInstruction (ir : Nat) (s : State) : Ans :=
  if ir < 4 then done { s.emit (.jtag ir) with jtagIr := ir }
  else if s.locked then done { s.emit (.jtag 0) with jtagIr := 0 }
  else .refused .testInstruction

end Sys2Proof.Machine
end

