-- ==== Sys2Proof/Machine/Woson.lean ====
section
/-! DEFINITION. The rows of the Woson links (spec 15): training, flits, time limits, packets, peers and fences. -/

namespace Sys2Proof.Machine

/- ---- training (R409, R415) ---- -/

/-- The G2 domain of a Woson port. -/
def portDomain (p : Nat) : Nat := 376 + 9 * (p / 8) + p % 8

/-- A group comes UP: a new link epoch, empty buffers, the advertised credits (R381, R412, R415). -/
def State.groupTrain (s : State) (g lepoch : Nat) : State :=
  s.modGroup g fun x =>
    { lepoch := (max x.lepoch lepoch + 1) % 256, credits := (List.range 4).map fun vc => (vc, advertised vc) }

/-- A trained port joins its group. -/
def State.portJoin (s : State) (p g lepoch : Nat) : State :=
  let s1 := if s.groupUp g then s else s.groupTrain g lepoch
  (s1.modPort p fun x => { x with st := .up, trains := sat32 (x.trains + 1), fails := [] }).flushWaiting

/-- The reported port may belong to the group. The group table (R416) names the neighbour but not its ports: DEDUCED (log entry 76),
a group leads to ports of one link die of its neighbour, each UP port to its own. -/
def State.portFits (s : State) (g p nport : Nat) : Bool :=
  decide (nport < 48) && (s.upPorts g).all fun q => q == p || ((s.port q).nport / 8 == nport / 8 && (s.port q).nport != nport)

/-- The exchange of TRAIN flits ends on a port; a port outside every group sends none. -/
def State.train (s : State) (p nbr nport lepoch : Nat) : State :=
  let s1 := (s.wake (portDomain p)).modPort p fun x => { x with st := .training, nbr := nbr % 64, nport := nport % 64 }
  match s1.portGroup p with
  | none => s1
  | some g =>
    let s2 := s1.emit (.trainFlit p s.modid (s.group g).lepoch)
    if entryNbr (s1.groupEntry g) = nbr ∧ s1.portFits g p nport then s2.portJoin p g lepoch
    else s2.event (ldDie (p / 8)) 0x0305 p (256 * (nbr % 64) + nport % 64)

def execPortTrained (port nbr nport lepoch : Nat) (s : State) : Ans :=
  if decide (port < 48) && s.boot.st == .ready && (s.port port).st != .up && decide (nbr < 64) && decide (lepoch < 256) then
    done (s.train port nbr nport lepoch)
  else .next s

/-- An UP port leaves UP (R414). -/
def State.retrain (s : State) (p : Nat) : State := if (s.port p).st = .up then s.portLeave p else s

def execBlockLockLoss (port : Nat) (s : State) : Ans := done (s.retrain port)

/- ---- port and packet registers (R430 to R432) ---- -/

/-- A port's counters return to zero. -/
def State.clearPort (s : State) (p : Nat) : State :=
  s.modPort p fun x => { x with feccor := 0, fecunc := 0, crcerr := 0, replay := 0, stale := 0, trains := 0 }

/-- A write of RETRAIN. -/
def execLdWpRetrain (fn port : Nat) (s : State) : Ans := if s.regsOpen fn && isPf fn && decide (port < 48) && !s.domainOff (portDomain port) then done (s.retrain port) else .next s
/-- A write of CLEAR. -/
def execLdWpCtlClear (fn port : Nat) (s : State) : Ans := if s.regsOpen fn && isPf fn && decide (port < 48) && !s.domainOff (portDomain port) then done (s.clearPort port) else .next s

/-- A link die's packet counters return to zero. -/
def State.clearPackets (s : State) (ld : Nat) : State :=
  s.modCourier ld fun c => { c with pkStale := 0, pkHop := 0, pkLost := 0, pkFenced := 0, pkBad := 0 }

def execLdPkCtlClear (fn ld : Nat) (s : State) : Ans := if s.regsOpen fn && isPf fn && decide (ld < 6) then done (s.clearPackets ld) else .next s

/- ---- flits (R411 to R414) ---- -/

/-- Resend every unacknowledged flit; a SEQ replayed 8 times without progress retrains the port that carried it last. -/
def State.replayOr (s : State) (g : Nat) : State :=
  let s1 := s.replayGroup g
  if 8 ≤ (s1.group g).stuck then
    match (s1.group g).replay.head? with
    | some x => (s1.modGroup g fun y => { y with stuck := 0 }).portLeave x.1
    | none => s1
  else s1

/-- Codewords of a flit that the FEC could not correct. -/
def lostWords (f : Flit) : Nat := if f.fecOk then 0 else max 1 f.fecFailed

/-- Codewords of a flit: corrected ones count; of those that could not be, more than 16 within 1 ms retrain the port. -/
def State.countFec (s : State) (p : Nat) (f : Flit) : State :=
  s.modPort p fun x => { x with
    feccor := sat64 (x.feccor + f.fecCorrected)
    fecunc := sat64 (x.fecunc + lostWords f)
    fails := (x.fails.filter fun t => decide (s.clock < t + 100000)) ++ List.replicate (lostWords f) s.clock }

/-- A flit that is not taken: counted, and answered with a NAK; where its port leaves UP, on another port of the group. -/
def State.rejectFlit (s : State) (g p : Nat) (f : Flit) : State :=
  let stale := f.fecOk && f.crc == crc32 f.covered && f.lepoch != (s.group g).lepoch
  let s1 := s.modPort p fun x =>
    if stale then { x with stale := sat64 (x.stale + 1) } else { x with crcerr := sat64 (x.crcerr + 1) }
  if 16 < (s1.port p).fails.length then
    let s2 := s1.portLeave p
    match s2.upPorts g with
    | q :: _ => s2.sendNak g q
    | [] => s2
  else s1.sendNak g p

/-- The acknowledgement, NAK and credits in the header of a flit that is taken. -/
def State.flitHeader (s : State) (g : Nat) (f : Flit) : State :=
  let s1 := if f.ackv then s.ackGroup g f.ackseq else s
  let s2 := s1.modGroup g fun x => { x with credits := Assoc.set 0 x.credits f.crvc (x.credit f.crvc + f.credits) }
  let s3 := if f.nak then s2.replayOr g else s2
  if s3.groupUp g then s3.drainGroup g else s3

/-- A flit arrives at an UP port of group g. -/
def State.takeFlit (s : State) (g p : Nat) (f : Flit) : State :=
  let s1 := s.countFec p f
  if f.sound && f.lepoch == (s1.group g).lepoch then
    let s2 := s1.flitHeader g f
    if f.ftype = 1 ∧ s2.groupUp g then s2.dataFlit g p f else s2
  else s1.rejectFlit g p f

/-- A flit as the wire can hold it: every header field within its width. -/
def flitFits (f : Flit) : Bool :=
  decide (f.ftype < 8) && decide (f.vc < 4) && decide (f.seq < 4096) && decide (f.ackseq < 4096) && decide (f.crvc < 4) &&
  decide (f.credits < 32) && decide (f.lepoch < 256) && decide (f.vlen < 256) && decide (f.reserved < 256) &&
  decide (f.payload.length = 244)

/-- A flit reaches a link die; none does while the port's crossing resynchronises (R61). -/
def execFlitReceive (port : Nat) (f : Flit) (s : State) : Ans :=
  match s.portGroup port with
  | some g => if (s.port port).st == .up && flitFits f && !s.resyncing (portCrossing port) then done (s.takeFlit g port f) else .next s
  | none => .next s

/-- A gap stays unfilled: a NAK (R413). -/
def execGapTimeout (group : Nat) (s : State) : Ans :=
  if s.groupUp group && ((s.group group).naking || !(s.group group).ahead.isEmpty) then
    done (s.sendNak group ((s.upPorts group).headD 0))
  else .next s

/-- 4 µs without ACKSEQ progress: replay (R413). -/
def execAckTimeout (group : Nat) (s : State) : Ans :=
  if s.groupUp group && !(s.group group).replay.isEmpty then done (s.replayOr group) else .next s

/- ---- packets at a link die (R417, R420, R426) ---- -/

/-- A packet of one type at a link die: it leaves the die's queue; reserved fields discard it, another module's is forwarded,
and one of VC0 to VC2 needs a reachable source and its peer epoch. -/
def State.packetAt (s : State) (ld pt : Nat) (p : Packet) (k : State → State) : State :=
  let s1 : State := { s with inbox := s.inbox.erase (ld, p) }
  if p.reserved ≠ 0 then s1.modCourier ld fun c => { c with pkBad := sat64 (c.pkBad + 1) }
  else if p.dmod ≠ s.modid then s1.forward ld p
  else if vcOf pt < 3 ∧ ¬((s.peer p.smod).reachable = true ∧ p.pepoch = (s.peer p.smod).epoch) then
    s1.modCourier ld fun c => { c with pkStale := sat64 (c.pkStale + 1) }
  else k s1

/-- A packet of its row's type at a link die. -/
def isPacket (ld pt : Nat) (p : Packet) : Bool :=
  p.ptype == pt && decide (ld < 6) && decide (p.smod < 64) && decide (p.dmod < 64)

/-- A packet is the first of its source, destination and virtual channel that waits at a link die (R395, R423). -/
def State.inTurn (s : State) (ld : Nat) (p : Packet) : Bool :=
  match s.inbox.find? fun x => x.1 == ld && x.2.smod == p.smod && x.2.dmod == p.dmod && vcOf x.2.ptype == vcOf p.ptype with
  | some x => x.2 == p
  | none => true

/-- The event takes place: a packet of its row's type, in its turn. Packets that cross the fabric (VC3 is served in the link die)
wait while its bridge resynchronises (R61). -/
def State.packetDue (s : State) (ld pt : Nat) (p : Packet) : Bool :=
  isPacket ld pt p && s.inTurn ld p && ((vcOf pt == 3 && p.dmod == s.modid) || !s.resyncing (bridgeCrossing ld))

/- ---- requests (R421, R422) ---- -/

/-- The export entry of a target offset. -/
def State.exportOf (s : State) (addr : Nat) : Nat := s.exportEntry (bits addr 33 30)
/-- The device address of a target offset (R421). -/
def State.exportAddr (s : State) (addr : Nat) : Nat := bits (s.exportOf addr) 42 30 * 2 ^ 30 + bits addr 29 0
/-- A request's export entry allows it and its memory is populated; permission bit 62 is READ, 61 WRITE. -/
def State.exported (s : State) (p : Packet) (perm : Nat) : Bool :=
  bit (s.exportOf p.addr) 63 && bit (s.exportOf p.addr) perm && s.allPopulated (s.exportAddr p.addr) (32 * p.lenw)

/-- Answer a request. -/
def State.respondTo (s : State) (p : Packet) (pt status : Nat) (data : List Byte) : State :=
  s.originate p.smod pt p.tag (ceilDiv data.length 32) status 0 data

/-- Serve a READ_REQ from memory. -/
def State.serveRead (s : State) (p : Packet) : State :=
  let pa := s.exportAddr p.addr
  if !s.exported p 62 then s.respondTo p 0x11 2 []
  else
    let x := (s.share (granulesOf pa (32 * p.lenw))).scanGranules (granulesOf pa (32 * p.lenw))
    if x.1 then x.2.respondTo p 0x11 1 [] else x.2.respondTo p 0x11 0 (s.rawBytes pa (32 * p.lenw))

/-- A read that overlaps a held write waits (R520). -/
def execReadReq (ld : Nat) (p : Packet) (env : Env) (s : State) : Ans :=
  if s.packetDue ld 0x01 p then
    if p.dmod = s.modid ∧ s.readWaits (s.exportAddr p.addr) (32 * p.lenw) then .next s
    else s.within env fun t => t.packetAt ld 0x01 p fun u => u.serveRead p
  else .next s

/-- Perform a WRITE_REQ; a held one is answered when it lands or is given up. -/
def State.serveWrite (s : State) (ld : Nat) (p : Packet) : State :=
  if !s.exported p 61 then s.respondTo p 0x12 2 []
  else
    let x := s.arriveAll (s.exportAddr p.addr) (padTo (32 * p.lenw) p.payload) (.remote ld p.smod p.tag p.pepoch)
    if x.1 then x.2 else x.2.respondTo p 0x12 0 []

def execWriteReq (ld : Nat) (p : Packet) (env : Env) (s : State) : Ans :=
  if s.packetDue ld 0x02 p then s.within env fun t => t.packetAt ld 0x02 p fun u => u.serveWrite ld p else .next s

/-- A semaphore is assigned to an OPEN context. -/
def State.semOpen (s : State) (n : Nat) : Bool := (List.range 256).any fun c => (s.ctx c).st == .opened && (s.ctx c).owns n

/-- Apply or discard a remote addition, and acknowledge it (R397). -/
def State.serveSignal (s : State) (ld : Nat) (p : Packet) : State :=
  let r := u16 p.payload 0
  let s1 := if s.semOpen (semNo r) then s.modSem (semNo r) fun v => v + BitVec.ofNat 32 (u16 p.payload 2)
    else s.event (ldDie ld) 0x0309 p.smod r
  s1.respondTo p 0x13 0 []

def execSignalReq (ld : Nat) (p : Packet) (s : State) : Ans :=
  if s.packetDue ld 0x03 p then done (s.packetAt ld 0x03 p fun u => u.serveSignal ld p) else .next s

/- ---- responses (R422, R395, R397) ---- -/

/-- The lowest virtual address of a command that an access to granules of remote memory came from. -/
def State.remoteVa (s : State) (c : Cmd) (pa n : Nat) (wr : Bool) : Nat :=
  ((c.descs.flatMap fun d => d.2.allBytes).find? fun va => match (s.translate c.id.ctx va wr).1 with
    | .ok a => decide (pa ≤ a) && decide (a < pa + 32 * n)
    | _ => false).getD 0

/-- How a command ends whose request was answered with a status other than 0 (R422); the stack of a held write is the
target's and no packet carries it: a free value. -/
def State.remoteEnding (s : State) (c : Cmd) (status pa n : Nat) (wr : Bool) : Ending :=
  match status with
  | 1 => (Fail.ecc pa).ending
  | 2 => (Fail.trans (s.remoteVa c pa n wr)).ending
  | _ => (Fail.held (Config.freeNat s.fresh % 16)).ending

/-- End a command for what another module answered. -/
def State.endRemote (s : State) (id : CmdId) (e : Ending) : State :=
  match s.cmd id with
  | none => s
  | some c =>
    if c.open_ then
      let s1 := s.bump.endCmd id e
      if e.status.tears then s1.enterDraining id.ctx e.status.cause else s1
    else s

/-- The request a response answers. -/
def State.answered (s : State) (p : Packet) (k : ReqKind → Bool) : Option Req :=
  s.reqs.find? fun r => r.peer == p.smod && r.tag == p.tag && k r.kind

def ReqKind.isRead : ReqKind → Bool
  | .read _ _ => true
  | _ => false
def ReqKind.isWrite : ReqKind → Bool
  | .write _ _ => true
  | _ => false

/-- A READ_RESP brings a command its granules, or fails it. -/
def State.takeRead (s : State) (p : Packet) : State :=
  match s.answered p ReqKind.isRead with
  | some r =>
    let s1 : State := { s with reqs := s.reqs.erase r }
    match r.kind, s1.cmd r.cmd with
    | .read pa n, c =>
      if p.status = 0 then s1.addRemote r.cmd (spread pa (padTo (32 * n) p.payload))
      else match c with
        | some c => s1.endRemote r.cmd (s1.remoteEnding c p.status pa n false)
        | none => s1
    | _, _ => s1
  | none => s

def execReadResp (ld : Nat) (p : Packet) (s : State) : Ans :=
  if s.packetDue ld 0x11 p && decide (p.status ≤ 3) then done (s.packetAt ld 0x11 p fun u => u.takeRead p) else .next s

/-- A WRITE_ACK: the write has landed, or it fails its command; a failure reported after a kill is discarded (R370). -/
def State.takeWriteAck (s : State) (p : Packet) : State :=
  match s.answered p ReqKind.isWrite with
  | some r =>
    let s1 : State := { s with reqs := s.reqs.erase r }
    match r.kind, s1.cmd r.cmd with
    | .write pa n, some c =>
      let s2 := s1.modCmd r.cmd fun x => { x with unacked := x.unacked - 1 }
      if p.status = 0 ∨ c.stage = .killing ∨ c.stage = .queued then s2 else s2.endRemote r.cmd (s1.remoteEnding c p.status pa n true)
    | _, _ => s1
  | none => s

def execWriteAck (ld : Nat) (p : Packet) (s : State) : Ans :=
  if s.packetDue ld 0x12 p && decide (p.status ≤ 3) then done (s.packetAt ld 0x12 p fun u => u.takeWriteAck p) else .next s

/-- A SIGNAL_ACK: the addition was taken; the REMOTE_SIGNAL's work is done, whichever of its runs had sent it. -/
def State.takeSignalAck (s : State) (p : Packet) : State :=
  match s.answered p fun k => k == .signal with
  | some r =>
    let s1 : State := { s with reqs := s.reqs.erase r }
    match s1.cmd r.cmd with
    | some c =>
      let s2 := s1.modCmd r.cmd fun x => { x with unacked := 0, acked := true }
      if c.stage = .running then s2.finishNow r.cmd okEnd [] else s2
    | none => s1
  | none => s

def execSignalAck (ld : Nat) (p : Packet) (s : State) : Ans :=
  if s.packetDue ld 0x13 p then done (s.packetAt ld 0x13 p fun u => u.takeSignalAck p) else .next s

/- ---- courier frames (R343, R357) ---- -/

/-- The courier a frame is for: of a COPY the home courier that this module's own map names, else that of the link die that
received it; of an answer the origin; of a RESULT_ACK the one that assigned its BINREF. -/
def State.courierOf (s : State) (ld : Nat) (f : Frame) : Nat :=
  let e := s.expertEntry f.expert
  match f.type with
  | 1 => if expertValid e && expertModule e == s.modid then expertSlot e % 6 else ld
  | 4 => f.binref % 6
  | _ => f.old

/-- Deliver the frame of a COURIER packet. -/
def State.takeCourier (s : State) (ld : Nat) (p : Packet) : State :=
  let f := frameOf p.payload
  if f.type = 0 ∨ 5 < f.type ∨ f.reserved ≠ 0 ∨ 6 ≤ s.courierOf ld f then s.staleFrame ld
  else { s with frames := s.frames ++ [(ld, s.courierOf ld f, f)] }

def execCourier (ld : Nat) (p : Packet) (s : State) : Ans :=
  if s.packetDue ld 0x21 p then done (s.packetAt ld 0x21 p fun u => u.takeCourier ld p) else .next s

/- ---- reachability (R424 to R427) ---- -/

/-- Another module of the system that this one routes to. -/
def State.isPeer (s : State) (m : Nat) : Bool := decide (m < 64) && m != s.modid && s.routeValid m

/-- Send JOIN. -/
def State.sendJoin (s : State) (m : Nat) : State :=
  (s.modPeer m fun q => { q with joining := true }).originate m 0x32 0 1 0 0
    (padTo 32 (leBytes (s.peer m).epoch 2 ++ leBytes (b2n (s.peer m).rst) 2))

/-- A HEARTBEAT from an unreachable peer starts JOINs; in S2 peers stay unreachable (R550). -/
def State.takeHeartbeat (s : State) (m : Nat) : State :=
  if s.isPeer m && !(s.peer m).reachable && !(s.peer m).joining && s.pkg != .s2 then s.sendJoin m else s

def execHeartbeat (ld : Nat) (p : Packet) (s : State) : Ans :=
  if s.packetDue ld 0x31 p then done (s.packetAt ld 0x31 p fun u => u.takeHeartbeat p.smod) else .next s

/-- A HEARTBEAT to every module with a valid route; none in S2 (R546). -/
def State.sendHeartbeats (s : State) : State :=
  (List.range 64).foldl (fun t m => if t.isPeer m then t.originate m 0x31 0 0 0 0 [] else t) s

def execHeartbeatSend (s : State) : Ans := if s.boot.st == .ready && s.pkg != .s2 then done s.sendHeartbeats else .next s

/-- A reachable peer is marked unreachable. -/
def State.lose (s : State) (m : Nat) : State := if s.isPeer m && (s.peer m).reachable then s.markUnreachable m else s

def execHeartbeatTimeout (m : Nat) (s : State) : Ans := done (s.lose m)

/-- Something sent to m waits for its answer. -/
def State.awaits (s : State) (m : Nat) : Bool :=
  s.reqs.any (fun r => r.peer == m) || s.ledger.any fun e => e.2.st == .sent && e.2.dest == m

def execResponseTimeout (m : Nat) (s : State) : Ans := if s.awaits m then done (s.lose m) else .next s

/-- JOIN (J, RST): step 3 of R427. -/
def State.takeJoin (s : State) (m j : Nat) (rst : Bool) : State :=
  let s1 := if rst || (j != (s.peer m).epoch && (s.peer m).reachable) then s.markUnreachable m else s
  let s2 := s1.modPeer m fun q => { q with epoch := max j q.epoch }
  s2.originate m 0x33 0 1 0 0 (padTo 32 (leBytes (s2.peer m).epoch 2))

def execJoin (ld : Nat) (p : Packet) (s : State) : Ans :=
  if s.packetDue ld 0x32 p then
    done (s.packetAt ld 0x32 p fun u => if u.isPeer p.smod then u.takeJoin p.smod (u16 p.payload 0) (bit (u16 p.payload 2) 0) else u)
  else .next s

/-- JOIN_ACK (N): step 4 of R427. -/
def State.takeJoinAck (s : State) (m n : Nat) : State :=
  s.modPeer m fun q => { q with epoch := max n q.epoch, reachable := true, joining := false, rst := false }

def execJoinAck (ld : Nat) (p : Packet) (s : State) : Ans :=
  if s.packetDue ld 0x33 p then
    done (s.packetAt ld 0x33 p fun u => if u.isPeer p.smod && u.pkg != .s2 then u.takeJoinAck p.smod (u16 p.payload 0) else u)
  else .next s

def execJoinRepeat (m : Nat) (s : State) : Ans :=
  if s.isPeer m && (s.peer m).joining && !(s.peer m).reachable && s.pkg != .s2 then done (s.sendJoin m) else .next s

/- ---- lost packets and fences (R428) ---- -/

/-- PATH_LOST for a destination, carrying its current epoch. -/
def State.takePathLost (s : State) (d e : Nat) : State :=
  if s.isPeer d && e == (s.peer d).epoch then s.markUnreachable d else s

def execPathLost (ld : Nat) (p : Packet) (s : State) : Ans :=
  if s.packetDue ld 0x34 p then done (s.packetAt ld 0x34 p fun u => u.takePathLost (u16 p.payload 0) (u16 p.payload 2)) else .next s

def execFenceExpiry (ld k : Nat) (s : State) : Ans := done (s.modCourier ld fun c => { c with fences := c.fences.eraseIdx k })

end Sys2Proof.Machine
end

