-- ==== Sys2Proof/Machine/RegRead.lean ====
section
/-! DEFINITION. What BAR0 reads (spec 00, R10 to R16; 16, R441, R442): the word at every offset of every block, by the register
tables of the chapters, who may see it, and the side effects of reading it. -/

namespace Sys2Proof.Machine

/- ---- the map of BAR0 (R441) ---- -/

inductive Blk where
  | gl | hi | sc | td (d : Nat) | sb (k : Nat) | ld (l : Nat) | none
deriving DecidableEq, Repr

/-- The block of a BAR0 offset, and the offset in it. -/
def blockAt (off : Nat) : Blk × Nat :=
  if off < 0x00100000 then (.gl, off)
  else if off < 0x00200000 then (.hi, off - 0x00100000)
  else if off < 0x00300000 then (.sc, off - 0x00200000)
  else if off < 0x01000000 then (.none, 0)
  else if off < 0x02000000 then (.td ((off - 0x01000000) / 0x00200000), (off - 0x01000000) % 0x00200000)
  else if off < 0x03000000 then (.sb ((off - 0x02000000) / 0x00100000), (off - 0x02000000) % 0x00100000)
  else if off < 0x03600000 then (.ld ((off - 0x03000000) / 0x00100000), (off - 0x03000000) % 0x00100000)
  else (.none, 0)

/-- An offset lies in an array of n registers of a stride. -/
def inSpan (o base stride n : Nat) : Bool := decide (base ≤ o) && decide (o < base + stride * n)

def lo32 (v : Nat) : Nat := v % 2 ^ 32
def hi32 (v : Nat) : Nat := v / 2 ^ 32 % 2 ^ 32
/-- A word of consecutive 64-bit pairs, x bytes from the first. -/
def pairsWord (vs : List Nat) (x : Nat) : Nat := let v := vs.getD (x / 8) 0; if x % 8 < 4 then lo32 v else hi32 v

/-- The context of a register of the host block. -/
def regCtx (o : Nat) : Option Nat :=
  if inSpan o 0x4000 4 256 || inSpan o 0x4400 4 256 || inSpan o 0x4800 4 256 || inSpan o 0x4C00 4 256 then some (o % 0x400 / 4)
  else if inSpan o 0x5000 4 256 then some ((o - 0x5000) / 4)
  else if inSpan o 0x6000 8 256 || inSpan o 0x6800 8 256 then some (o % 0x800 / 8)
  else if inSpan o 0x8000 0x200 256 then some ((o - 0x8000) / 0x200)
  else none

/-- The low half of a 64-bit pair stands at an offset. -/
def isPair (off : Nat) : Bool :=
  off % 8 == 0 &&
  match blockAt off with
  | (.gl, o) => o == 0x60 || inSpan o 0x400 8 48 || inSpan o 0x600 8 16
  | (.hi, o) => inSpan o 0x10 8 2 || inSpan o 0x6000 8 256 || inSpan o 0x6800 8 256 ||
      (inSpan o 0x8000 0x200 256 && (o % 0x20 == 0 || o % 0x20 == 8)) || o == 0x8D000 || o == 0x8D010
  | (.sc, o) => o == 0x900 || o == 0xD000 || o == 0xD010 || inSpan o 0xE008 8 5
  | (.td _, o) => o == 0x3018 || inSpan o 0x6008 8 6 || inSpan o 0x6108 8 3 || o == 0xD000 || o == 0xD010 || inSpan o 0xE008 8 5
  | (.sb _, o) => inSpan o 0x2108 8 4 || o == 0x3018 || inSpan o 0x5000 8 32 || o == 0xD000 || o == 0xD010 || inSpan o 0xE008 8 5
  | (.ld _, o) => (inSpan o 0x1000 0x40 8 && inSpan (o % 0x40) 8 8 5) || inSpan o 0x1208 8 5 || inSpan o 0x4010 8 8 ||
      o == 0xD000 || o == 0xD010 || inSpan o 0xE008 8 5
  | (.none, _) => false

/- ---- words that several blocks hold (R66, R508, R552) ---- -/

/-- The tick and event registers of a die. -/
def State.tickWord (s : State) (die o : Nat) : Nat :=
  let e := s.ev die
  match o with
  | 0x00 => lo32 e.tick
  | 0x04 => hi32 e.tick
  | 0x08 => e.seq
  | 0x0C => e.drop
  | 0x10 => lo32 e.snap
  | 0x14 => hi32 e.snap
  | _ => 0

/-- ECC_LASTLOC. -/
def Ecc.lastloc (e : Ecc) : Nat := b2n e.lastValid * 2 ^ 63 + e.last % 2 ^ 43

/-- The ECC registers of a block. -/
def State.eccWord (s : State) (base o : Nat) : Nat :=
  let e := s.eccBlock base
  if inSpan o 8 8 5 then pairsWord [e.corr, e.uncorr, e.poison, e.retry, e.lastloc] (o - 8) else 0

/-- Crossings with a status register, by die number. -/
def crossings (d : Nat) : Nat := if d < 8 then 8 else if d < 24 then 3 else if d < 30 then 10 else if d = 30 then 4 else 32

/-- A crossing status register; that of a bridge the die lacks reads zero. -/
def State.crossWord (s : State) (die o : Nat) : Nat :=
  if o / 4 < crossings die ∧ (8 ≤ die ∨ cdCrossing die (o / 4) = true) then
    let c := s.crossing (32 * die + o / 4)
    b2n c.overrun * 2 ^ 31 + b2n c.disagree * 2 ^ 30 + b2n (c.near || c.far) * 2 ^ 29 + c.resyncs * 2 ^ 16 + c.overruns
  else 0

/-- The registers at block offsets 0xD000 to 0xF0FF of a die. -/
def State.dieWord (s : State) (die o : Nat) : Nat :=
  if inSpan o 0xD000 4 6 then s.tickWord die (o - 0xD000)
  else if inSpan o 0xE000 4 12 then s.eccWord (blockOfDie die) (o - 0xE000)
  else if inSpan o 0xF000 4 32 then s.crossWord die (o - 0xF000)
  else 0

/- ---- the global block ---- -/

/-- GL_CAP (R30). -/
def State.cap (s : State) (n : Nat) : Nat :=
  [8, s.tessPerCd, 8 * s.tessPerCd, 16, 16, 96, 1024, 768, 32, 256, 4096, 4096, 32, 1024, 48, 64, 65536, 16777215, 256, 0xFFFF].getD n 0

/-- GL_OVL (R477). -/
def State.ovlWord (s : State) : Nat :=
  b2n s.ovlBusy.isSome * 2 ^ 31 + s.ovlRefuse * 2 ^ 28 +
  ((List.range 8).map fun i => b2n (s.overlay i).isSome * 2 ^ (12 + i)).foldl (· + ·) 0 + b2n s.fallback * 2 ^ 11 + s.active

/-- GL_PLAN (R29). -/
def State.planWord (s : State) : Nat :=
  b2n (decide (s.planEff < s.planReq)) * 2 ^ 11 + b2n s.planFromOverlay * 2 ^ 10 + s.planEff * 2 ^ 8 + s.planReq * 2 ^ 6 +
  bits s.boot.straps 12 11 * 2 ^ 4 + coolLimit (bits s.boot.straps 14 13) * 2 ^ 2 + s.partLimit

/-- GL_REACH (R433). -/
def State.reachable (s : State) (m : Nat) : Bool := m == s.modid || (s.peer m).reachable
def State.reach (s : State) : Nat := ((List.range 64).map fun m => b2n (s.reachable m) * 2 ^ m).foldl (· + ·) 0

/-- GL_PEER (R433). -/
def State.peerWord (s : State) (m : Nat) : Nat :=
  b2n (s.reachable m) * 2 ^ 31 + (s.peer m).marks * 2 ^ 16 + (s.peer m).epoch

/-- The mailbox registers (R483); a disabled port has none. -/
def State.mbxWord (s : State) (port o : Nat) : Nat :=
  let p := s.hport port
  if !s.portEnabled port then 0
  else match o with
    | 0 => p.mbOp * 2 ^ 16 + p.mbLen
    | 4 => b2n p.mbBusy * 2 ^ 31 + b2n p.mbDone * 2 ^ 30 + p.mbResult * 2 ^ 16 + p.mbRlen
    | _ => 0

/-- A word of a mailbox buffer. -/
def State.mbxBuf (s : State) (port o : Nat) : Nat :=
  if s.portEnabled port then ofLe ((List.range 4).map fun i => Assoc.get 0 (s.hport port).mbBuf (o + i)) else 0

def State.glWord (s : State) (o : Nat) : Nat :=
  match o with
  | 0x00 => s.ident
  | 0x04 => 0x00140100
  | 0x08 => s.boot.straps % 2 ^ 17
  | 0x0C => s.bootWord
  | 0x10 => s.imgver
  | 0x14 => s.ovlWord
  | 0x1C => s.buildWord
  | 0x30 => Config.deviceId.toNat % 2 ^ 32
  | 0x34 => Config.deviceId.toNat / 2 ^ 32 % 2 ^ 32
  | 0x38 => Config.deviceId.toNat / 2 ^ 64 % 2 ^ 32
  | 0x3C => Config.deviceId.toNat / 2 ^ 96
  | 0x40 => s.planWord
  | 0x48 => s.memSplit * 2 + b2n s.stripeAll
  | 0x58 => s.resetCause * 2 ^ 28 + s.resetDie * 2 ^ 16 + s.resetCount
  | 0x60 => lo32 s.reach
  | 0x64 => hi32 s.reach
  | _ =>
    if inSpan o 0x100 4 64 then s.cap ((o - 0x100) / 4)
    else if inSpan o 0x200 4 64 then s.peerWord ((o - 0x200) / 4)
    else if inSpan o 0x300 4 64 then s.routeEntry ((o - 0x300) / 4)
    else if inSpan o 0x400 8 48 then pairsWord [s.groupEntry ((o - 0x400) / 8)] (o % 8)
    else if inSpan o 0x600 8 16 then pairsWord [s.exportEntry ((o - 0x600) / 8)] (o % 8)
    else if inSpan o 0x800 0x20 2 then s.mbxWord ((o - 0x800) / 0x20) (o % 0x20)
    else if inSpan o 0x1000 0x1000 2 then s.mbxBuf ((o - 0x1000) / 0x1000) (o % 0x1000)
    else 0

/- ---- the host block ---- -/

/-- HI_PORT_STATUS (R438). -/
def State.portWord (s : State) (p : Nat) : Nat :=
  let h := s.hport p
  b2n h.linkup * 2 ^ 31 + b2n h.flitMode * 2 ^ 30 + b2n h.degraded * 2 ^ 29 + h.rate * 2 ^ 26 + h.width * 2 ^ 21 +
  bits s.boot.straps 7 6 * 2 ^ 19 + b2n (s.portEnabled p) * 2 ^ 18 + h.numVf * 2 ^ 12

/-- The error counters of a port in order of offset (R459). -/
def HPort.errors (h : HPort) : List Nat :=
  [h.badsize, h.dbdrop, h.unpop, h.poisoned, h.hosterr, h.msixdrop, h.lostrec, h.flrrec, h.qcfg]

/-- HI_CTX_CFG and HI_CTX_STATE (R68). -/
def Ctx.cfgWord (c : Ctx) : Nat := c.port * 2 ^ 16 + c.func * 2 ^ 10 + c.share * 2 ^ 2 + c.prio
def State.ctxWord (s : State) (k : Nat) : Nat :=
  let c := s.ctx k
  b2n c.shareRefused * 2 ^ 31 + c.cause.code * 2 ^ 24 +
  ((List.range 16).map fun q => b2n (s.queue (16 * k + q)).enable * 2 ^ (8 + q)).foldl (· + ·) 0 + c.st.code

/-- The registers of a queue (R448). -/
def Queue.word (q : Queue) (o : Nat) : Nat :=
  match o with
  | 0x00 => lo32 q.sqBase
  | 0x04 => hi32 q.sqBase
  | 0x08 => lo32 q.cqBase
  | 0x0C => hi32 q.cqBase
  | 0x10 => b2n q.enable * 2 ^ 31 + b2n q.sqDev * 2 ^ 30 + b2n q.cqDev * 2 ^ 29 + b2n q.disabling * 2 ^ 28 + q.vector * 2 ^ 16 + q.log2
  | 0x14 => q.sqHead * 2 ^ 16 + q.sqTail
  | 0x18 => q.cqTail * 2 ^ 16 + q.cqHead
  | _ => 0

def State.hiWord (s : State) (o : Nat) : Nat :=
  if inSpan o 0x0 4 2 then s.portWord (o / 4)
  else if inSpan o 0x10 8 2 then pairsWord [(s.hport ((o - 0x10) / 8)).bar4] (o % 8)
  else if inSpan o 0x100 0x40 2 then (s.hport ((o - 0x100) / 0x40)).errors.getD (o % 0x40 / 4) 0
  else if inSpan o 0x4000 4 256 then (s.ctx ((o - 0x4000) / 4)).cfgWord
  else if inSpan o 0x4400 4 256 then s.ctxWord ((o - 0x4400) / 4)
  else if inSpan o 0x4C00 4 256 then (s.ctx ((o - 0x4C00) / 4)).itemCycles
  else if inSpan o 0x5000 4 256 then (s.ctx ((o - 0x5000) / 4)).kills
  else if inSpan o 0x6000 8 256 then pairsWord [(s.ctx ((o - 0x6000) / 8)).root] (o % 8)
  else if inSpan o 0x6800 8 256 then pairsWord [(s.ctx ((o - 0x6800) / 8)).hwin] (o % 8)
  else if inSpan o 0x8000 0x20 4096 then (s.queue ((o - 0x8000) / 0x20)).word (o % 0x20)
  else if inSpan o 0x8D000 4 6 then s.tickWord hd0Die (o - 0x8D000)
  else if inSpan o 0x8F000 4 4 then s.crossWord hd0Die (o - 0x8F000)
  else 0

/- ---- the system block ---- -/

/-- SC_PD_ON (R52). -/
def State.pdOn (s : State) (k : Nat) : Nat :=
  ((List.range 32).map fun j => b2n (decide (32 * k + j < 442) && !s.domainOff (32 * k + j)) * 2 ^ j).foldl (· + ·) 0

/-- SC_TEMP (R514). -/
def State.tempWord (s : State) (i : Nat) : Nat :=
  let t := s.logicTherm i
  t.st * 2 ^ 29 + b2n t.degraded * 2 ^ 28 + t.healthyCount (logicSensors i) * 2 ^ 22 + ofSigned 16 t.temp

/-- SC_THROTTLE (R527). -/
def State.throttleWord (s : State) (d : Nat) : Nat :=
  let p := s.pulses d
  let c := planCeiling s.planEff
  let lim (a : Nat) : Nat := b2n (a == p && decide (a < c))
  p * 2 ^ 16 + c * 2 ^ 8 + b2n (decide (840 ≤ s.controlling d)) * 2 ^ 3 + lim s.asupply * 2 ^ 2 + lim (s.die d).apower * 2 +
  lim (s.die d).atherm

/-- The margin in whole ps, saturating to 8 bits (R535). -/
def Patina.marginPs (p : Patina) : Int :=
  let q := p.margin.fdiv 8
  max (-128) (min 127 (if q * 8 ≠ p.margin ∧ Config.roundUp p.margin = true then q + 1 else q))

/-- SC_PATINA (R535). -/
def State.patinaWord (s : State) : Nat :=
  b2n s.patina.exhausted * 2 ^ 31 + b2n s.patina.pendingK * 2 ^ 30 + s.patina.g * 2 ^ 16 + ofSigned 8 s.patina.marginPs * 2 ^ 8

/-- SC_LP_STAT.PKG (R548). -/
def Pkg.code : Pkg → Nat
  | .active => 0 | .entering => 1 | .s2 => 2

def State.scWord (s : State) (o : Nat) : Nat :=
  match o with
  | 0x200 => b2n s.relocking * 2 ^ 8 + 8 * 2 ^ 4 + s.patina.k
  | 0x520 => s.packageW * 2 ^ 16 + s.cdMaxW
  | 0x620 => s.dips
  | 0x700 => s.patinaWord
  | 0x704 => s.patina.hours % 2 ^ 32
  | 0x708 => s.patina.projection
  | 0x70C => s.vset
  | 0x800 => s.lpCtl
  | 0x804 => s.pkg.code * 2 ^ 30 + s.s2Count
  | 0x900 => lo32 s.evTotal
  | 0x904 => hi32 s.evTotal
  | _ =>
    if inSpan o 0x100 4 14 then s.pdOn ((o - 0x100) / 4)
    else if inSpan o 0x400 4 32 then s.tempWord ((o - 0x400) / 4)
    else if inSpan o 0x500 4 8 then s.throttleWord ((o - 0x500) / 4)
    else if inSpan o 0x600 4 7 then
      let r := s.rail ((o - 0x600) / 4)
      b2n r.warn * 2 ^ 31 + b2n r.low * 2 ^ 30 + r.mv % 2 ^ 16
    else if inSpan o 0x10000 32 4096 then (s.slotWords ((o - 0x10000) / 32)).getD (o % 32 / 4) 0
    else s.dieWord hd1Die o

/- ---- the die blocks ---- -/

def TessSt.code : TessSt → Nat
  | .idle => 0 | .running => 1 | .halted => 2 | .clearing => 3

/-- TD_TESS_STATE (R132); tesserae are numbered physically as they are logically. -/
def State.tessWord (s : State) (d t : Nat) : Nat :=
  if t < s.tessPerCd then
    let x := s.tessera (128 * d + t)
    x.st.code * 2 ^ 30 + x.context * 2 ^ 22 + 2 ^ 15 + t
  else 0

/-- A word of a halt record (R165). -/
def State.haltWord (s : State) (d t o : Nat) : Nat :=
  if t < s.tessPerCd && decide (o < 0x2C) then (s.halt (128 * d + t)).reg (o / 4) else 0

def State.tdWord (s : State) (d o : Nat) : Nat :=
  let x := s.die d
  match o with
  | 0x3000 => b2n (x.budEnable && !s.locked) * 2 ^ 31 + b2n s.locked * 2 ^ 30 + x.budCtx * 2 ^ 8
  | 0x3004 => x.budX
  | 0x3008 => x.budA
  | 0x3010 =>
    b2n (x.snapArmed && !s.locked) * 2 ^ 31 + b2n s.locked * 2 ^ 30 + b2n x.snapDone * 2 ^ 29 + b2n x.snapFailed * 2 ^ 28 +
    x.snapCtx * 2 ^ 8 + x.snapTess
  | 0x3018 => lo32 x.snapBase
  | 0x301C => hi32 x.snapBase
  | _ =>
    if inSpan o 0x1000 4 128 then s.tessWord d ((o - 0x1000) / 4)
    else if inSpan o 0x4000 0x40 128 then s.haltWord d ((o - 0x4000) / 0x40) (o % 0x40)
    else if inSpan o 0x6008 8 6 then pairsWord [x.groups, x.zgroups, x.npasses, x.spasses, x.mrows, x.mitems] (o - 0x6008)
    else if inSpan o 0x6108 8 3 then pairsWord [x.apBlocks, x.apSkipped, x.apNan] (o - 0x6108)
    else if inSpan o 0x6200 4 16 then
      let p := s.pipe (16 * d + (o - 0x6200) / 4)
      b2n p.running * 2 ^ 30 + p.context * 2 ^ 22 + p.opcode * 2 ^ 14
    else s.dieWord (cdDie d) o

/-- SB_ARRAY_TEMP (R524). -/
def State.arrayWord (s : State) (k j : Nat) : Nat :=
  let t := s.arrayTherm (16 * k + j)
  bandOf t * 2 ^ 29 + b2n t.degraded * 2 ^ 28 + b2n (s.holdsWrites k j) * 2 ^ 27 + b2n (s.docentsStopped k j) * 2 ^ 26 +
  t.healthyCount 4 * 2 ^ 23 + ofSigned 16 t.temp

def State.sbWord (s : State) (k o : Nat) : Nat :=
  let x := s.stack k
  match o with
  | 0x2000 => planBudget s.planEff * 2 ^ 16 + ((List.range 16).map fun a => s.activeOn k a).foldl (· + ·) 0
  | 0x3000 => x.sidemax * 2 ^ 27 + x.base * 2 ^ 16 + x.frames
  | 0x3004 => b2n x.fatal * 2 ^ 31 + s.layoutsIn k * 2 ^ 8
  | 0x3008 => x.free
  | 0x300C => x.reserved
  | 0x3010 => x.mapped
  | 0x3018 => lo32 x.descCnt
  | 0x301C => hi32 x.descCnt
  | 0x3024 => x.tblUnits
  | 0x3028 => s.tblFree k
  | 0x5104 =>
    b2n x.saving * 2 ^ 31 + b2n x.unsaved * 2 ^ 30 + x.refuse * 2 ^ 27 +
    ((List.range 32).countP fun i => (x.remap i).isSome) * 2 ^ 16 + x.pending.length
  | _ =>
    if inSpan o 0x2108 8 4 then pairsWord [x.tasks, x.busy, x.shared, x.skipped] (o - 0x2108)
    else if inSpan o 0x4000 4 16 then s.arrayWord k ((o - 0x4000) / 4)
    else if inSpan o 0x5000 8 32 then pairsWord [s.remapWord k ((o - 0x5000) / 8)] (o % 8)
    else s.dieWord (sbDie k) o

/-- The group of a port as LD_WP_STATUS gives it (R430). -/
def State.groupNo (s : State) (p : Nat) : Nat := (s.portGroup p).getD 0x3F

def PortSt.code : PortSt → Nat
  | .down => 0 | .training => 1 | .up => 2

/-- The registers of a Woson port (R430). -/
def State.wpWord (s : State) (p o : Nat) : Nat :=
  let x := s.port p
  match o with
  | 0x00 =>
    x.st.code * 2 ^ 30 + s.groupNo p * 2 ^ 24 + x.nbr * 2 ^ 18 + x.nport * 2 ^ 12 +
    (match s.portGroup p with
     | some g => (s.group g).lepoch
     | none => 0)
  | 0x30 => x.trains
  | _ => if inSpan o 8 8 5 then pairsWord [x.feccor, x.fecunc, x.crcerr, x.replay, x.stale] (o - 8) else 0

/-- Copies held or binned at a courier (R360). -/
def State.copiesAt (s : State) (l : Nat) : Nat :=
  (s.courier l).held.length +
  ((s.slots.filter fun x => x.1 % 6 == l).map fun x => x.2.even.copies.length + x.2.odd.copies.length).foldl (· + ·) 0

def State.ldWord (s : State) (l o : Nat) : Nat :=
  let c := s.courier l
  match o with
  | 0x4004 => s.ledgerFree l
  | 0x4008 => s.resMib * 2 ^ 16 + s.binMib
  | 0x400C => s.copiesAt l
  | _ =>
    if inSpan o 0x1000 0x40 8 then s.wpWord (8 * l + (o - 0x1000) / 0x40) (o % 0x40)
    else if inSpan o 0x1208 8 5 then pairsWord [c.pkStale, c.pkHop, c.pkLost, c.pkFenced, c.pkBad] (o - 0x1208)
    else if inSpan o 0x4010 8 8 then
      pairsWord [c.sent, c.processed, c.capacity, c.unreach, c.orphaned, c.stale, c.received, c.discarded] (o - 0x4010)
    else s.dieWord (ldDie l) o

/-- The current value of the 32-bit word at an offset; unassigned ones read zero (R13). -/
def State.word (s : State) (off : Nat) : Nat :=
  match blockAt off with
  | (.gl, o) => s.glWord o
  | (.hi, o) => s.hiWord o
  | (.sc, o) => s.scWord o
  | (.td d, o) => s.tdWord d o
  | (.sb k, o) => s.sbWord k o
  | (.ld l, o) => s.ldWord l o
  | (.none, _) => 0

/- ---- who may read (R53, R439, R442, R469) ---- -/

/-- The domain of a register is on: the state of a tessera lies in its group's domain, a port's registers in the port's. -/
def State.regOn (s : State) (off : Nat) : Bool :=
  match blockAt off with
  | (.td d, o) => !(inSpan o 0x1000 4 128 && s.domainOff (tessDomain d ((o - 0x1000) / 4)))
  | (.ld l, o) => !(inSpan o 0x1000 0x40 8 && s.domainOff (portDomain (8 * l + (o - 0x1000) / 0x40)))
  | _ => true

/-- A function sees a register. -/
def State.sees (s : State) (fn off : Nat) : Bool :=
  (isPf fn || (match blockAt off with
    | (.gl, _) => true
    | (.hi, o) => (match regCtx o with
      | some c => (s.ctx c).fn == fn
      | none => false)
    | _ => false)) &&
  s.regOn off && (s.boot.st != .recovery || decide (off < 0x00100000))

/- ---- reading (R11, R12, R14, R15) ---- -/

/-- Fields of type RC clear. -/
def HPort.clearError (h : HPort) (i : Nat) : HPort :=
  match i with
  | 0 => { h with badsize := 0 }
  | 1 => { h with dbdrop := 0 }
  | 2 => { h with unpop := 0 }
  | 3 => { h with poisoned := 0 }
  | 4 => { h with hosterr := 0 }
  | 5 => { h with msixdrop := 0 }
  | 6 => { h with lostrec := 0 }
  | 7 => { h with flrrec := 0 }
  | 8 => { h with qcfg := 0 }
  | _ => h

/-- EVT_DROP and the OVERRUN_COUNTs of a die, at the offset of its common registers. -/
def State.dieRc (s : State) (die o : Nat) : State :=
  if o = 0xD00C then s.modEv die fun e => { e with drop := 0 }
  else if inSpan o 0xF000 4 (crossings die) then s.modCrossing (32 * die + (o - 0xF000) / 4) fun c => { c with overruns := 0 }
  else s

/-- What reading a word clears. -/
def State.readClears (s : State) (off : Nat) : State :=
  match blockAt off with
  | (.hi, o) =>
    if inSpan o 0x100 0x40 2 then s.modHport ((o - 0x100) / 0x40) fun h => h.clearError (o % 0x40 / 4)
    else if inSpan o 0x5000 4 256 then s.modCtx ((o - 0x5000) / 4) fun c => { c with kills := 0 }
    else if inSpan o 0x8D000 4 6 || inSpan o 0x8F000 4 4 then s.dieRc hd0Die (o - 0x80000)
    else s
  | (.sc, o) => if o = 0x620 then { s with dips := 0 } else s.dieRc hd1Die o
  | (.td d, o) => s.dieRc (cdDie d) o
  | (.sb k, o) => s.dieRc (sbDie k) o
  | (.ld l, o) => s.dieRc (ldDie l) o
  | _ => s

/-- The capture of a function for a pair (R15). -/
def pairKey (fn off : Nat) : Nat := 2 ^ 26 * fn + off
def State.captured (s : State) (fn off : Nat) : Option Nat := Assoc.get none s.pairRead (pairKey fn off)
def State.setCapture (s : State) (fn off : Nat) (v : Option Nat) : State :=
  { s with pairRead := Assoc.set none s.pairRead (pairKey fn off) v }

/-- SB_CACHE_FREE, RESERVED and MAPPED with their capture (R308). -/
def State.readPool (s : State) (fn k o : Nat) : Nat × State :=
  let x := s.stack k
  let key := capKey fn k
  let put (v : Option (Nat × Nat × Bool × Bool)) : State := { s with cacheCap := Assoc.set none s.cacheCap key v }
  match o, Assoc.get none s.cacheCap key with
  | 0x3008, _ => (x.free, put (some (x.reserved, x.mapped, true, true)))
  | 0x300C, some (r, m, true, y) => (r, put (some (r, m, false, y)))
  | 0x3010, some (r, m, y, true) => (m, put (some (r, m, y, false)))
  | 0x300C, _ => (x.reserved, s)
  | _, _ => (x.mapped, s)

/-- Words 1 to 7 of the event slot a function captured (R555). -/
def State.readSlot (s : State) (fn slot w : Nat) : Nat × State :=
  if w = 0 then s.readSlot0 fn slot
  else match Assoc.get none s.slotCap fn with
    | some (k, ws) => (if k = slot then ws.getD w 0 else (s.slotWords slot).getD w 0, s)
    | none => ((s.slotWords slot).getD w 0, s)

/-- An aligned 32-bit read. -/
def State.read32 (s : State) (fn off : Nat) : Nat × State :=
  if !s.sees fn off then (0, s)
  else if isPair off then (s.word off, s.setCapture fn off (some (s.word (off + 4))))
  else if off % 8 = 4 ∧ isPair (off - 4) then
    match s.captured fn (off - 4) with
    | some v => (v, s.setCapture fn (off - 4) none)
    | none => (s.word off, s)
  else match blockAt off with
    | (.sb k, o) => if inSpan o 0x3008 4 3 then s.readPool fn k o else (s.word off, s.readClears off)
    | (.sc, o) => if inSpan o 0x10000 32 4096 then s.readSlot fn ((o - 0x10000) / 32) (o % 32 / 4) else (s.word off, s.readClears off)
    | _ => (s.word off, s.readClears off)

/-- An aligned 64-bit read: a pair in one cycle, or two words in order (R14). -/
def State.read64 (s : State) (fn off : Nat) : Nat × State :=
  if isPair off then
    if s.sees fn off then (s.word off + 2 ^ 32 * s.word (off + 4), s.setCapture fn off none) else (0, s)
  else
    let a := s.read32 fn off
    let b := a.2.read32 fn (off + 4)
    (a.1 + 2 ^ 32 * b.1, b.2)

/-- An access is one that BAR0 accepts (R14, R16). -/
def barAccess (off size : Nat) : Bool := (size == 4 || size == 8) && off % size == 0 && decide (off + size ≤ 2 ^ 26)

/-- A read with its reply. -/
def State.barRead (s : State) (fn off size : Nat) : State :=
  let x := if size = 4 then s.read32 fn off else s.read64 fn off
  x.2.emit (.regRead fn off size x.1)

def execRcRead (fn off size : Nat) (s : State) : Ans :=
  if s.barOpen fn && barAccess off size then done (s.barRead fn off size) else .next s

/-- A 32-bit read of a low half (R15). -/
def execPairLowRead (fn off : Nat) (s : State) : Ans :=
  if s.barOpen fn && isPair off then done (s.barRead fn off 4) else .next s

/-- A 32-bit read of a high half (R15). -/
def execPairHighRead (fn off : Nat) (s : State) : Ans :=
  if s.barOpen fn && off % 8 == 4 && isPair (off - 4) then done (s.barRead fn off 4) else .next s

end Sys2Proof.Machine
end

