-- ==== Sys2Proof/Machine/RegWrite.lean ====
section
/-! DEFINITION. What BAR0 writes do (spec 00, R10 to R16; 16, R442): each register's fields by their access types, the halves of
pairs, and accesses of a bad size. -/

namespace Sys2Proof.Machine

/- ---- registers that several blocks hold ---- -/

/-- ECC_CTL.CLEAR (R508). -/
def State.clearEcc (s : State) (base : Nat) : State :=
  s.modEccBlock base fun e => { e with corr := 0, uncorr := 0, poison := 0, retry := 0 }

/-- ECC_CTL and the crossing status registers (W1C) of a die. -/
def State.dieWrite (s : State) (die o v : Nat) : State :=
  if o = 0xE000 then (if bit v 0 then s.clearEcc (blockOfDie die) else s)
  else if inSpan o 0xF000 4 (crossings die) then
    s.modCrossing (32 * die + (o - 0xF000) / 4) fun c =>
      { c with overrun := c.overrun && !bit v 31, disagree := c.disagree && !bit v 30 }
  else s

/- ---- the blocks ---- -/

/-- GL_MBX_CMD (R483): OP and LEN, and with GO the operation. -/
def State.mbxCmd (s : State) (port v : Nat) : State :=
  let op := bits v 23 16
  let len := bits v 12 0
  if bit v 31 then s.mailOp (64 * port) op len
  else if s.portEnabled port then s.modHport port fun p => { p with mbOp := op, mbLen := len }
  else s

/-- A word of a mailbox buffer. -/
def State.mbxFill (s : State) (port o v : Nat) : State :=
  if s.portEnabled port && !(s.hport port).mbBusy then
    s.modHport port fun p => { p with mbBuf := (spread o (leBytes v 4)).foldl (fun l c => Assoc.set 0 l c.1 c.2) p.mbBuf }
  else s

def State.glWrite (s : State) (fn o v : Nat) : State :=
  match o with
  | 0x18 => s.ovlCmd fn v
  | 0x50 => s.remapCmd fn v
  | 0x54 => s.resetCtl fn v
  | 0x800 => s.mbxCmd 0 v
  | 0x820 => s.mbxCmd 1 v
  | 0x804 => s.modHport 0 fun p => { p with mbDone := p.mbDone && !bit v 30 }
  | 0x824 => s.modHport 1 fun p => { p with mbDone := p.mbDone && !bit v 30 }
  | _ => if inSpan o 0x1000 0x1000 2 then s.mbxFill ((o - 0x1000) / 0x1000) (o % 0x1000) v else s

def State.hiWrite (s : State) (fn o v : Nat) : State :=
  if inSpan o 0x0 4 2 then s.modHport (o / 4) fun p => { p with degraded := p.degraded && !bit v 29 }
  else if inSpan o 0x4000 4 256 then s.writeCfg fn ((o - 0x4000) / 4) v
  else if inSpan o 0x4400 4 256 then s.modCtx ((o - 0x4400) / 4) fun c => { c with shareRefused := c.shareRefused && !bit v 31 }
  else if inSpan o 0x4800 4 256 then s.writeCmd fn ((o - 0x4800) / 4) (bits v 1 0)
  else if inSpan o 0x4C00 4 256 then s.modCtx ((o - 0x4C00) / 4) fun c => { c with itemCycles := bits v 23 0 }
  else if inSpan o 0x8000 0x20 4096 && o % 0x20 == 0x10 then
    s.writeQcfg fn ((o - 0x8000) / 0x200) ((o - 0x8000) / 0x20 % 16) v
  else if inSpan o 0x8F000 4 4 then s.dieWrite hd0Die (o - 0x80000) v
  else s

def State.scWrite (s : State) (fn o v : Nat) : State :=
  match o with
  | 0x800 => s.writeLpCtl fn v
  | 0x910 => s.tickCmd fn v
  | _ =>
    if inSpan o 0x600 4 7 then s.modRail ((o - 0x600) / 4) fun r => { r with low := r.low && !bit v 30 }
    else s.dieWrite hd1Die o v

/-- The registers of a compute die: budgets and snapshots are closed by the debug lock (R167, R559). -/
def State.tdWrite (s : State) (d o v : Nat) : State :=
  let open_ (f : Die → Die) : State := if s.locked then s else s.modDie d f
  match o with
  | 0x3000 => open_ fun x => { x with budEnable := bit v 31, budCtx := bits v 15 8 }
  | 0x3004 => open_ fun x => { x with budX := v % 2 ^ 32 }
  | 0x3008 => open_ fun x => { x with budA := v % 2 ^ 32 }
  | 0x3010 => open_ fun x =>
    { x with snapArmed := bit v 31, snapDone := x.snapDone && !bit v 29, snapFailed := x.snapFailed && !bit v 28, snapCtx := bits v 15 8 }
  | 0x6000 => if bit v 0 then
      s.modDie d fun x => { x with groups := 0, zgroups := 0, npasses := 0, spasses := 0, mrows := 0, mitems := 0 } else s
  | 0x6100 => if bit v 0 then s.modDie d fun x => { x with apBlocks := 0, apSkipped := 0, apNan := 0 } else s
  | _ =>
    if inSpan o 0x4000 0x40 128 && o % 0x40 == 0 && bit v 31 && decide ((o - 0x4000) / 0x40 < s.tessPerCd) then
      s.modHalt (128 * d + (o - 0x4000) / 0x40) fun h => { h with valid := false, ovr := false }
    else s.dieWrite (cdDie d) o v

def State.sbWrite (s : State) (fn k o v : Nat) : State :=
  match o with
  | 0x2100 => if bit v 0 then s.modStack k fun x => { x with tasks := 0, busy := 0, shared := 0, skipped := 0 } else s
  | 0x3020 => if bit v 0 then s.modStack k fun x => { x with descCnt := 0 } else s
  | 0x5100 => s.remapReq fn k v
  | _ => s.dieWrite (sbDie k) o v

/-- LD_WP_CTL: CLEAR before RETRAIN, so that what the retrain counts survives the CLEAR (R432). -/
def State.wpWrite (s : State) (p o v : Nat) : State :=
  if o = 4 then
    let s1 := if bit v 0 then s.clearPort p else s
    if bit v 1 then s1.retrain p else s1
  else s

def State.ldWrite (s : State) (l o v : Nat) : State :=
  match o with
  | 0x1200 => if bit v 0 then s.clearPackets l else s
  | 0x4000 => if bit v 0 then
      s.modCourier l fun c =>
        { c with sent := 0, processed := 0, capacity := 0, unreach := 0, orphaned := 0, stale := 0, received := 0, discarded := 0 } else s
  | _ => if inSpan o 0x1000 0x40 8 then s.wpWrite (8 * l + (o - 0x1000) / 0x40) (o % 0x40) v else s.dieWrite (ldDie l) o v

/-- A write of a word that is no half of a pair. -/
def State.writeWord (s : State) (fn off v : Nat) : State :=
  match blockAt off with
  | (.gl, o) => s.glWrite fn o v
  | (.hi, o) => s.hiWrite fn o v
  | (.sc, o) => s.scWrite fn o v
  | (.td d, o) => s.tdWrite d o v
  | (.sb k, o) => s.sbWrite fn k o v
  | (.ld l, o) => s.ldWrite l o v
  | (.none, _) => s

/- ---- pairs ---- -/

/-- A queue base is writable: a function that may, and a queue that is off (R448, R449). -/
def State.writeBase (s : State) (fn k : Nat) (f : Queue → Queue) : State :=
  if s.mayConfigure fn (k / 16) && !(s.queue k).enable && !(s.queue k).disabling then s.modQueue k f else s

/-- ECC_LASTLOC: writing 1 to VALID clears it. -/
def State.eccPair (s : State) (base o v : Nat) : State :=
  if o = 0xE028 ∧ bit v 63 = true then s.modEccBlock base fun e => { e with lastValid := false } else s

/-- A write of both halves of a pair. -/
def State.writePair (s : State) (fn off v : Nat) : State :=
  match blockAt off with
  | (.hi, o) =>
    if inSpan o 0x10 8 2 then s.modHport ((o - 0x10) / 8) fun p => { p with bar4 := bits v 42 30 * 2 ^ 30 }
    else if inSpan o 0x6000 8 256 then s.writeRoot fn ((o - 0x6000) / 8) v
    else if inSpan o 0x6800 8 256 then
      let c := (o - 0x6800) / 8
      if fn = 64 * (s.ctx c).port then s.modCtx c fun x => { x with hwin := bits v 63 16 * 2 ^ 16 } else s
    else if inSpan o 0x8000 0x20 4096 then
      let base := bits v 63 12 * 2 ^ 12
      s.writeBase fn ((o - 0x8000) / 0x20) fun q => if o % 0x20 = 0 then { q with sqBase := base } else { q with cqBase := base }
    else s
  | (.sc, o) => s.eccPair (blockOfDie hd1Die) o v
  | (.td d, o) =>
    if o = 0x3018 then (if s.locked then s else s.modDie d fun x => { x with snapBase := bits v 42 20 * 2 ^ 20 })
    else s.eccPair (blockOfDie (cdDie d)) o v
  | (.sb k, o) => s.eccPair (blockOfDie (sbDie k)) o v
  | (.ld l, o) => s.eccPair (blockOfDie (ldDie l)) o v
  | _ => s

/- ---- accesses ---- -/

/-- A function's write to a register counts (R53, R442, R469). -/
def State.mayWrite (s : State) (fn off : Nat) : Bool :=
  (isPf fn || (match blockAt off with
    | (.hi, o) => (inSpan o 0x4800 4 256 || inSpan o 0x8000 0x200 256) && (match regCtx o with
      | some c => (s.ctx c).fn == fn
      | none => false)
    | _ => false)) &&
  s.regOn off && (s.boot.st != .recovery || decide (off < 0x00100000))

def State.heldLow (s : State) (fn off : Nat) : Option Nat := Assoc.get none s.pairWrite (pairKey fn off)
def State.holdLow (s : State) (fn off : Nat) (v : Option Nat) : State :=
  { s with pairWrite := Assoc.set none s.pairWrite (pairKey fn off) v }

/-- An aligned 32-bit write (R11, R15). -/
def State.write32 (s : State) (fn off v : Nat) : State :=
  if !s.mayWrite fn off then s
  else if isPair off then s.holdLow fn off (some (v % 2 ^ 32))
  else if off % 8 = 4 ∧ isPair (off - 4) then
    let low := (s.heldLow fn (off - 4)).getD (s.word (off - 4))
    (s.holdLow fn (off - 4) none).writePair fn (off - 4) (low + 2 ^ 32 * (v % 2 ^ 32))
  else s.writeWord fn off v

/-- An aligned 64-bit write: a pair in one cycle, or two words in order (R14). -/
def State.write64 (s : State) (fn off v : Nat) : State :=
  if isPair off then (if s.mayWrite fn off then (s.holdLow fn off none).writePair fn off v else s)
  else (s.write32 fn off (v % 2 ^ 32)).write32 fn (off + 4) (v / 2 ^ 32 % 2 ^ 32)

/-- A BAR0 write. -/
def State.barWrite (s : State) (fn off size v : Nat) : State := if size = 4 then s.write32 fn off (v % 2 ^ 32) else s.write64 fn off v

def execRegisterWrite (fn off size value : Nat) (s : State) : Ans :=
  if s.barOpen fn && barAccess off size then done (s.barWrite fn off size value) else .next s

/-- A 32-bit write of a low half is held (R15). -/
def execPairLowWrite (fn off value : Nat) (s : State) : Ans :=
  if s.barOpen fn && isPair off then done (s.barWrite fn off 4 value) else .next s

/-- A 32-bit write of a high half takes effect, with a held low half or alone (R15). -/
def execPairHighWrite (fn off value : Nat) (s : State) : Ans :=
  if s.barOpen fn && off % 8 == 4 && isPair (off - 4) then done (s.barWrite fn off 4 value) else .next s

/-- An access narrower than 32 bits or not aligned to its own size (R16): counted; a read returns zero. -/
def execBar0BadsizeAccess (fn off size : Nat) (write : Bool) (s : State) : Ans :=
  if s.barOpen fn && decide (0 < size) && decide (off + size ≤ 2 ^ 26) && (decide (size < 4) || off % size != 0) then
    let s1 := s.modHport (fn / 64) fun p => { p with badsize := satAdd 0xFFFFFFFF p.badsize 1 }
    done (if write then s1 else s1.emit (.regRead fn off size 0))
  else .next s

/-- ECC_CTL.CLEAR of a TD_, SB_, LD_ or SC_ block by its base (R508). -/
def execTdEccCtlClear (fn base : Nat) (s : State) : Ans :=
  match blockNo base with
  | some d => if s.regsOpen fn && isPf fn && d != hd0Die then done (s.clearEcc base) else .next s
  | none => .next s

end Sys2Proof.Machine
end

