-- ==== Sys2Proof/Machine/Dispatch.lean ====
section
/-! DEFINITION. One arm per row of spec/opcode_table.json: each arm is one direct call of the row's meaning. -/

namespace Sys2Proof.Machine

/-- The effect of a command on everything but the queue. -/
def exec (i : Instr) (s : State) : Host.Outcome State Fault Refusal :=
  match i with
  | .registerWrite fn off size value => Sys2Proof.Machine.execRegisterWrite fn off size value s
  | .rcRead fn off size => Sys2Proof.Machine.execRcRead fn off size s
  | .bar0BadsizeAccess fn off size write => Sys2Proof.Machine.execBar0BadsizeAccess fn off size write s
  | .pairLowRead fn off => Sys2Proof.Machine.execPairLowRead fn off s
  | .pairHighRead fn off => Sys2Proof.Machine.execPairHighRead fn off s
  | .pairLowWrite fn off value => Sys2Proof.Machine.execPairLowWrite fn off value s
  | .pairHighWrite fn off value => Sys2Proof.Machine.execPairHighWrite fn off value s
  | .hiCtxCfgWrite fn ctx value => Sys2Proof.Machine.execHiCtxCfgWrite fn ctx value s
  | .ctxOpen fn ctx => Sys2Proof.Machine.execCtxOpen fn ctx s
  | .ctxTeardown fn ctx => Sys2Proof.Machine.execCtxTeardown fn ctx s
  | .ctxRelease fn ctx => Sys2Proof.Machine.execCtxRelease fn ctx s
  | .drainComplete ctx => Sys2Proof.Machine.execDrainComplete ctx s
  | .qEnable fn ctx q value => Sys2Proof.Machine.execQEnable fn ctx q value s
  | .qDisable fn ctx q value => Sys2Proof.Machine.execQDisable fn ctx q value s
  | .qDisableComplete ctx q => Sys2Proof.Machine.execQDisableComplete ctx q s
  | .tailDoorbell fn off size value => Sys2Proof.Machine.execTailDoorbell fn off size value s
  | .headDoorbell fn off size value => Sys2Proof.Machine.execHeadDoorbell fn off size value s
  | .commandAccept ctx q entry env => Sys2Proof.Machine.execCommandAccept ctx q entry env s
  | .engineChoose e env => Sys2Proof.Machine.execEngineChoose e env s
  | .killComplete id => Sys2Proof.Machine.execKillComplete id s
  | .waitTimeout id => Sys2Proof.Machine.execWaitTimeout id s
  | .commandCommit ctx q env => Sys2Proof.Machine.execCommandCommit ctx q env s
  | .semWrite id => Sys2Proof.Machine.execSemWrite id s
  | .allocSet id => Sys2Proof.Machine.execAllocSet id s
  | .descCreate id env => Sys2Proof.Machine.execDescCreate id env s
  | .descClear id => Sys2Proof.Machine.execDescClear id s
  | .cacheInvalidate id => Sys2Proof.Machine.execCacheInvalidate id s
  | .remoteSignal id => Sys2Proof.Machine.execRemoteSignal id s
  | .scrub id env => Sys2Proof.Machine.execScrub id env s
  | .runGrid id env => Sys2Proof.Machine.execRunGrid id env s
  | .itemClaim die tess env => Sys2Proof.Machine.execItemClaim die tess env s
  | .itemFinish die tess => Sys2Proof.Machine.execItemFinish die tess s
  | .nop die tess x => Sys2Proof.Machine.execNop die tess x s
  | .endI die tess x => Sys2Proof.Machine.execEndI die tess x s
  | .trap die tess x => Sys2Proof.Machine.execTrap die tess x s
  | .br die tess x => Sys2Proof.Machine.execBr die tess x s
  | .push die tess x => Sys2Proof.Machine.execPush die tess x s
  | .pop die tess x => Sys2Proof.Machine.execPop die tess x s
  | .salu die tess => Sys2Proof.Machine.execSalu die tess s
  | .aalu die tess => Sys2Proof.Machine.execAalu die tess s
  | .smul die tess => Sys2Proof.Machine.execSmul die tess s
  | .vint die tess => Sys2Proof.Machine.execVint die tess s
  | .vcmp die tess => Sys2Proof.Machine.execVcmp die tess s
  | .vsel die tess => Sys2Proof.Machine.execVsel die tess s
  | .vfp die tess => Sys2Proof.Machine.execVfp die tess s
  | .vcvt die tess => Sys2Proof.Machine.execVcvt die tess s
  | .vred die tess => Sys2Proof.Machine.execVred die tess s
  | .vsfu die tess => Sys2Proof.Machine.execVsfu die tess s
  | .topk die tess => Sys2Proof.Machine.execTopk die tess s
  | .vsplat die tess => Sys2Proof.Machine.execVsplat die tess s
  | .vext die tess => Sys2Proof.Machine.execVext die tess s
  | .vld die tess => Sys2Proof.Machine.execVld die tess s
  | .vst die tess => Sys2Proof.Machine.execVst die tess s
  | .xpose die tess => Sys2Proof.Machine.execXpose die tess s
  | .ldtile die tess => Sys2Proof.Machine.execLdtile die tess s
  | .matmul die tess => Sys2Proof.Machine.execMatmul die tess s
  | .drain die tess => Sys2Proof.Machine.execDrain die tess s
  | .load die tess => Sys2Proof.Machine.execLoad die tess s
  | .store die tess => Sys2Proof.Machine.execStore die tess s
  | .fence die tess => Sys2Proof.Machine.execFence die tess s
  | .transferComplete die tess k env => Sys2Proof.Machine.execTransferComplete die tess k env s
  | .queueWaitWatchdog die tess x => Sys2Proof.Machine.execQueueWaitWatchdog die tess x s
  | .instructionBudget die tess x => Sys2Proof.Machine.execInstructionBudget die tess x s
  | .tdSparseCtlClear fn die => Sys2Proof.Machine.execTdSparseCtlClear fn die s
  | .attnFwd die pipe env => Sys2Proof.Machine.execAttnFwd die pipe env s
  | .attnMerge die pipe env => Sys2Proof.Machine.execAttnMerge die pipe env s
  | .attnBwdQ die pipe env => Sys2Proof.Machine.execAttnBwdQ die pipe env s
  | .attnBwdKv die pipe env => Sys2Proof.Machine.execAttnBwdKv die pipe env s
  | .attnUnitTake die pipe => Sys2Proof.Machine.execAttnUnitTake die pipe s
  | .tdApCtlClear fn die => Sys2Proof.Machine.execTdApCtlClear fn die s
  | .copy id env => Sys2Proof.Machine.execCopy id env s
  | .quantize id env => Sys2Proof.Machine.execQuantize id env s
  | .dequantize id env => Sys2Proof.Machine.execDequantize id env s
  | .gemv stack bank env => Sys2Proof.Machine.execGemv stack bank env s
  | .gatherReduce stack bank env => Sys2Proof.Machine.execGatherReduce stack bank env s
  | .attnPartial stack bank env => Sys2Proof.Machine.execAttnPartial stack bank env s
  | .optStep stack bank env => Sys2Proof.Machine.execOptStep stack bank env s
  | .convert stack bank env => Sys2Proof.Machine.execConvert stack bank env s
  | .fill stack bank env => Sys2Proof.Machine.execFill stack bank env s
  | .docentTaskStart stack arrayDie env => Sys2Proof.Machine.execDocentTaskStart stack arrayDie env s
  | .docentTaskComplete stack bank => Sys2Proof.Machine.execDocentTaskComplete stack bank s
  | .broadcastSlice stack => Sys2Proof.Machine.execBroadcastSlice stack s
  | .mergePartial stack env => Sys2Proof.Machine.execMergePartial stack env s
  | .tdDocCtlClear fn stack => Sys2Proof.Machine.execTdDocCtlClear fn stack s
  | .cacheOpen id => Sys2Proof.Machine.execCacheOpen id s
  | .stepReserve id env => Sys2Proof.Machine.execStepReserve id env s
  | .stepCommit id env => Sys2Proof.Machine.execStepCommit id env s
  | .stepAbort id => Sys2Proof.Machine.execStepAbort id s
  | .sbCacheFreeRead fn stack => Sys2Proof.Machine.execSbCacheFreeRead fn stack s
  | .sbCacheCtlClear fn stack => Sys2Proof.Machine.execSbCacheCtlClear fn stack s
  | .dispatch id env => Sys2Proof.Machine.execDispatch id env s
  | .combine id env => Sys2Proof.Machine.execCombine id env s
  | .expertOpen id => Sys2Proof.Machine.execExpertOpen id s
  | .expertClose id => Sys2Proof.Machine.execExpertClose id s
  | .expertGather id env => Sys2Proof.Machine.execExpertGather id env s
  | .expertReturn id env => Sys2Proof.Machine.execExpertReturn id env s
  | .copyFrame ld f => Sys2Proof.Machine.execCopyFrame ld f s
  | .verdict ld f => Sys2Proof.Machine.execVerdict ld f s
  | .result ld f => Sys2Proof.Machine.execResult ld f s
  | .resultAck ld f => Sys2Proof.Machine.execResultAck ld f s
  | .returnF ld f => Sys2Proof.Machine.execReturnF ld f s
  | .holdExpiry ld k => Sys2Proof.Machine.execHoldExpiry ld k s
  | .resultResend ld binref => Sys2Proof.Machine.execResultResend ld binref s
  | .ldCrCtlClear fn ld => Sys2Proof.Machine.execLdCrCtlClear fn ld s
  | .hcopy id host env => Sys2Proof.Machine.execHcopy id host env s
  | .hiCtxRootWrite fn ctx value => Sys2Proof.Machine.execHiCtxRootWrite fn ctx value s
  | .bar4Read port off len env => Sys2Proof.Machine.execBar4Read port off len env s
  | .bar4Write port off bytes env => Sys2Proof.Machine.execBar4Write port off bytes env s
  | .functionLevelReset fn => Sys2Proof.Machine.execFunctionLevelReset fn s
  | .perstAssert port => Sys2Proof.Machine.execPerstAssert port s
  | .dlDown port => Sys2Proof.Machine.execDlDown port s
  | .vfEnableClear port => Sys2Proof.Machine.execVfEnableClear port s
  | .msixVectorUnmask fn vector enable unmask => Sys2Proof.Machine.execMsixVectorUnmask fn vector enable unmask s
  | .d3hotEntry port => Sys2Proof.Machine.execD3hotEntry port s
  | .d0Return port => Sys2Proof.Machine.execD0Return port s
  | .portTrained port nbr nport lepoch => Sys2Proof.Machine.execPortTrained port nbr nport lepoch s
  | .blockLockLoss port => Sys2Proof.Machine.execBlockLockLoss port s
  | .ldWpRetrain fn port => Sys2Proof.Machine.execLdWpRetrain fn port s
  | .ldWpCtlClear fn port => Sys2Proof.Machine.execLdWpCtlClear fn port s
  | .flitReceive port f => Sys2Proof.Machine.execFlitReceive port f s
  | .gapTimeout group => Sys2Proof.Machine.execGapTimeout group s
  | .ackTimeout group => Sys2Proof.Machine.execAckTimeout group s
  | .ldPkCtlClear fn ld => Sys2Proof.Machine.execLdPkCtlClear fn ld s
  | .readReq ld p env => Sys2Proof.Machine.execReadReq ld p env s
  | .writeReq ld p env => Sys2Proof.Machine.execWriteReq ld p env s
  | .signalReq ld p => Sys2Proof.Machine.execSignalReq ld p s
  | .readResp ld p => Sys2Proof.Machine.execReadResp ld p s
  | .writeAck ld p => Sys2Proof.Machine.execWriteAck ld p s
  | .signalAck ld p => Sys2Proof.Machine.execSignalAck ld p s
  | .courier ld p => Sys2Proof.Machine.execCourier ld p s
  | .heartbeat ld p => Sys2Proof.Machine.execHeartbeat ld p s
  | .heartbeatSend => Sys2Proof.Machine.execHeartbeatSend s
  | .heartbeatTimeout m => Sys2Proof.Machine.execHeartbeatTimeout m s
  | .responseTimeout m => Sys2Proof.Machine.execResponseTimeout m s
  | .join ld p => Sys2Proof.Machine.execJoin ld p s
  | .joinAck ld p => Sys2Proof.Machine.execJoinAck ld p s
  | .joinRepeat m => Sys2Proof.Machine.execJoinRepeat m s
  | .pathLost ld p => Sys2Proof.Machine.execPathLost ld p s
  | .fenceExpiry ld k => Sys2Proof.Machine.execFenceExpiry ld k s
  | .powerOn board => Sys2Proof.Machine.execPowerOn board s
  | .railsStable => Sys2Proof.Machine.execRailsStable s
  | .bootTemperatureWaitEnd => Sys2Proof.Machine.execBootTemperatureWaitEnd s
  | .deviceResetRequest fn value => Sys2Proof.Machine.execDeviceResetRequest fn value s
  | .hd0HeartbeatTimeout => Sys2Proof.Machine.execHd0HeartbeatTimeout s
  | .quiescentPoint => Sys2Proof.Machine.execQuiescentPoint s
  | .pllRelockComplete => Sys2Proof.Machine.execPllRelockComplete s
  | .overlaySwitchRequest fn value => Sys2Proof.Machine.execOverlaySwitchRequest fn value s
  | .remapRequest fn stack value => Sys2Proof.Machine.execRemapRequest fn stack value s
  | .remapApply fn value => Sys2Proof.Machine.execRemapApply fn value s
  | .remapSaveComplete => Sys2Proof.Machine.execRemapSaveComplete s
  | .persistSaveComplete => Sys2Proof.Machine.execPersistSaveComplete s
  | .getInfo fn len => Sys2Proof.Machine.execGetInfo fn len s
  | .attest fn len => Sys2Proof.Machine.execAttest fn len s
  | .getCert fn len => Sys2Proof.Machine.execGetCert fn len s
  | .updateBegin fn len => Sys2Proof.Machine.execUpdateBegin fn len s
  | .updateData fn len => Sys2Proof.Machine.execUpdateData fn len s
  | .updateEnd fn len => Sys2Proof.Machine.execUpdateEnd fn len s
  | .updateAbort fn len => Sys2Proof.Machine.execUpdateAbort fn len s
  | .updateHoldTimeout => Sys2Proof.Machine.execUpdateHoldTimeout s
  | .requestUpdate imageLen => Sys2Proof.Machine.execRequestUpdate imageLen s
  | .requestFirmwareData offset data => Sys2Proof.Machine.execRequestFirmwareData offset data s
  | .verifyComplete => Sys2Proof.Machine.execVerifyComplete s
  | .applyComplete => Sys2Proof.Machine.execApplyComplete s
  | .cancelUpdate => Sys2Proof.Machine.execCancelUpdate s
  | .activateFirmware => Sys2Proof.Machine.execActivateFirmware s
  | .setEventReceiver eid => Sys2Proof.Machine.execSetEventReceiver eid s
  | .setEndpointId eid => Sys2Proof.Machine.execSetEndpointId eid s
  | .entdaa addr => Sys2Proof.Machine.execEntdaa addr s
  | .sensorRefresh => Sys2Proof.Machine.execSensorRefresh s
  | .sensorSample array die readings => Sys2Proof.Machine.execSensorSample array die readings s
  | .sensorFail array die sensor => Sys2Proof.Machine.execSensorFail array die sensor s
  | .coolDownEnd => Sys2Proof.Machine.execCoolDownEnd s
  | .thermalAllowanceUpdate => Sys2Proof.Machine.execThermalAllowanceUpdate s
  | .powerAllowanceUpdate die watts => Sys2Proof.Machine.execPowerAllowanceUpdate die watts s
  | .powerCalibration packageW cdMaxW => Sys2Proof.Machine.execPowerCalibration packageW cdMaxW s
  | .heldWriteExpiry stack arrayDie => Sys2Proof.Machine.execHeldWriteExpiry stack arrayDie s
  | .docentPauseExpiry stack bank => Sys2Proof.Machine.execDocentPauseExpiry stack bank s
  | .refreshOperation stack bank => Sys2Proof.Machine.execRefreshOperation stack bank s
  | .targetedRefresh stack bank row => Sys2Proof.Machine.execTargetedRefresh stack bank row s
  | .railWarningCross rail mv => Sys2Proof.Machine.execRailWarningCross rail mv s
  | .supplyRecovery => Sys2Proof.Machine.execSupplyRecovery s
  | .railResetCross rail mv => Sys2Proof.Machine.execRailResetCross rail mv s
  | .railPowerLoss rail mv => Sys2Proof.Machine.execRailPowerLoss rail mv s
  | .patinaMeasurement slacks again => Sys2Proof.Machine.execPatinaMeasurement slacks again s
  | .patinaHeaderSave => Sys2Proof.Machine.execPatinaHeaderSave s
  | .g2Entry domain => Sys2Proof.Machine.execG2Entry domain s
  | .g2Wake domain => Sys2Proof.Machine.execG2Wake domain s
  | .scLpCtlWrite fn value => Sys2Proof.Machine.execScLpCtlWrite fn value s
  | .resyncRequest x far => Sys2Proof.Machine.execResyncRequest x far s
  | .resyncAck x => Sys2Proof.Machine.execResyncAck x s
  | .tickSnapshot fn value => Sys2Proof.Machine.execTickSnapshot fn value s
  | .snapshotMessage die => Sys2Proof.Machine.execSnapshotMessage die s
  | .eventRecord die code arg0 arg1 => Sys2Proof.Machine.execEventRecord die code arg0 arg1 s
  | .eventStore die => Sys2Proof.Machine.execEventStore die s
  | .evtSlotRead fn slot => Sys2Proof.Machine.execEvtSlotRead fn slot s
  | .tdEccCtlClear fn base => Sys2Proof.Machine.execTdEccCtlClear fn base s
  | .hostLinkUp port rate width flit => Sys2Proof.Machine.execHostLinkUp port rate width flit s
  | .busMasterEnableWrite fn cfg => Sys2Proof.Machine.execBusMasterEnableWrite fn cfg s
  | .vfEnableSet port num => Sys2Proof.Machine.execVfEnableSet port num s
  | .atsInvalidation fn lo hi => Sys2Proof.Machine.execAtsInvalidation fn lo hi s
  | .completionTimeout ctx q hcopyOf => Sys2Proof.Machine.execCompletionTimeout ctx q hcopyOf s
  | .railWarningReturn rail mv => Sys2Proof.Machine.execRailWarningReturn rail mv s
  | .shareAccountCrossing e ctx => Sys2Proof.Machine.execShareAccountCrossing e ctx s
  | .boundaryScanInstruction ir => Sys2Proof.Machine.execBoundaryScanInstruction ir s

end Sys2Proof.Machine
end

