-- ==== Sys2Proof/Machine/Tick.lean ====
section
/-! DEFINITION. What time alone does, one REFCLK period of 10 ns at a time (log entry 10): the dies' ticks (R551), share accounts
(R363) and the operating hours (R532). A step takes it on an empty queue. -/

namespace Sys2Proof.Machine

/-- The engines of the part. -/
def State.allEngines (s : State) : List EngineId :=
  ((List.range 8).flatMap fun d => [.tessGroup d, .attn d, .dma d] ++ (List.range s.tessPerCd).map (.pinned d)) ++
  (List.range 16).map .registrar ++ (List.range 6).map .courier ++ (List.range 2).flatMap fun p => [.hostCopy p, .hostCtl p]

/-- A context runs a command on an engine. -/
def State.runsOn (s : State) (e : EngineId) (ctx : Nat) : Bool := s.cmds.any fun c => c.id.ctx == ctx && c.occupies e

/-- An account after 10 ns, in sixteenths of a nanosecond. -/
def State.nextAccount (s : State) (e : EngineId) (ctx : Nat) : Int :=
  let a := s.account (accountKey e ctx)
  let lim : Int := 16 * limitNs (engineCls e)
  if s.runsOn e ctx then max (-lim) (a - 160) else min lim (a + 10 * ((s.ctx ctx).share : Int))

/-- The contexts that reserve a share. -/
def State.sharing (s : State) : List Nat := (List.range 256).filter fun c => (s.ctx c).share != 0

/-- Every account moves. -/
def State.tickAccounts (s : State) : State :=
  s.sharing.foldl (fun t c => t.allEngines.foldl (fun u e => u.modAccount (accountKey e c) fun _ => s.nextAccount e c) t) s

/-- The logic dies that run: none in power-on reset, HD1 alone while a thermal shutdown holds the others (R517). -/
def State.runningDies (s : State) : List Nat :=
  match s.boot.wait with
  | .power => []
  | .coolDown => [hd1Die]
  | _ => List.range 32

def State.tickDies (s : State) : State :=
  s.runningDies.foldl (fun t d => t.modEv d fun e => { e with tick := (e.tick + 1) % 2 ^ 64 }) s

/-- Ticks of an operating hour. -/
def hourTicks : Nat := 360000000000

/-- Operating hours count while a compute die is powered. -/
def State.tickHours (s : State) : State :=
  if s.runningDies.contains 0 then
    let n := s.patina.sub + 1
    if n = hourTicks then { s with patina := { s.patina with sub := 0, hours := s.patina.hours + 1 } }
    else { s with patina := { s.patina with sub := n } }
  else s

/-- One REFCLK period; fuses go on burning and busy mailboxes answer (log entries 10, 86). -/
def State.tick (s : State) : State :=
  let s1 := s.tickAccounts.tickDies.tickHours
  ({ s1 with clock := s1.clock + 1 }).burnStep.mailStep

end Sys2Proof.Machine
end

