-- ==== Sys2Proof/Safety.lean ====
section
/-! DEFINITION. The words the statements use: what a step may change of waiting commands, which states the invariants allow, and
what a run without a stop is. -/

namespace Sys2Proof.Machine

/-- A command without what every step brings up to date: whether its wait limit runs, whether its wait is met and since when
it is ready (R84, R89). -/
def Cmd.core (c : Cmd) : Cmd := { c with limitOn := false, waitMet := false, readyAt := none }

/-- Two states hold the same commands, but for what every step brings up to date. -/
def sameCmds (s t : State) : Prop := t.cmds.map Cmd.core = s.cmds.map Cmd.core

/-- One command is up to date: its limit runs once its order conditions hold, its wait is met once its limit runs and the
semaphore's value satisfies it, and it is marked ready exactly when it is (R84, R89). -/
def State.upToDate (s : State) (c : Cmd) : Bool :=
  (c.limitOn || !(c.stage == .queued && c.ending.isNone && s.orderMet c)) &&
  (c.waitMet || !(c.limitOn && c.stage == .queued && s.valueMet c)) &&
  (if c.stage == .running then true else c.readyAt.isSome == s.readyNow c)

/-- The block stands between two commands: a device reset that was asked for has taken place, or waits only for messages between dies
(R63) after every command has ended (R505); no read of a held write is left; and every command is up to date. -/
def State.Settled (s : State) : Prop :=
  (s.resetWanted = none ∨ (s.fifosEmpty = false ∧ s.cmds = [])) ∧ s.stalled = false ∧ ∀ c ∈ s.cmds, s.upToDate c = true

/-- Nothing waits for the next step by itself: no device reset is asked for, no fuse is being burned, no mailbox works, and no doorbell
or read of BAR4 waits for a posted write (R392, R471, R483, R505). -/
abbrev State.Calm (s : State) : Prop :=
  s.resetWanted = none ∧ s.boot.burning = false ∧ s.hports.any (·.2.mbBusy) = false ∧ s.bells = [] ∧ s.reads4 = []

/-- `s` with what stopping a command's engines may change taken from t (R367): the command, its tesserae, pipelines and docents with
their counters, and the reads on their way. -/
def State.afterWork (s t : State) : State :=
  { s with cmds := t.cmds, dies := t.dies, fresh := t.fresh, pipes := t.pipes, reqs := t.reqs, stackTab := t.stackTab, tess := t.tess }

/-- The same where writes that the engines have issued land or leave before they stop (R367 step 3). -/
def State.afterStop (s t : State) : State :=
  { s.afterWork t with
    mem := t.mem, ecc := t.ecc, dcache := t.dcache, tlb := t.tlb, evd := t.evd, couriers := t.couriers, groups := t.groups
    nextTag := t.nextTag, out := t.out }

/-- The same where a context leaves OPEN: its commands stop, and both sides of its expert exchanges end (R71, R334, R355). -/
def State.afterTear (s t : State) : State :=
  { s.afterStop t with ctxs := t.ctxs, handles := t.handles, ledger := t.ledger, slots := t.slots, frames := t.frames }

/-- `t` is `u` after local writes `ws` (newest first) of an uncommitted command have landed: that command and its engine find them,
and every other reader finds each byte as it was or as it is now (R383 to R387). -/
def Lands (u t : State) (who : Seer) (ws : List (Nat × Byte)) : Prop :=
  (∀ a w, w.stamp = who.stamp → t.mem.read a w = (u.mem.writeAll ws.reverse).read a w) ∧
  ∀ a w, t.mem.read a w = u.mem.read a w ∨ t.mem.read a w = (u.mem.writeAll ws.reverse).read a w

/-- Writes that land now: to this module's memory, to array dies that take writes, and none that merges into a poisoned granule
(R395, R491, R520). -/
abbrev State.landsAll (s : State) (ws : List (Nat × Byte)) : Prop :=
  (∀ w ∈ ws, isRemote w.1 = false ∧ s.holdsAt w.1 = false) ∧ s.poisonHit ws = none

/-- `t` is `u` after an engine's work on command `id` is done with ending `e` and last writes `ws` (newest first): local ones land
(R387) and remote ones are sent (R395). Where all can land, the command waits finished, and nothing else changes. -/
def Finishes (u t : State) (id : CmdId) (e : Ending) (ws : List (Nat × Byte)) : Prop :=
  t = (u.complete id e ws).refresh ∧
  ∀ c, u.cmd id = some c → c.ending = none → u.landsAll ws →
    t = ({ u with cmds := t.cmds, mem := t.mem, ecc := t.ecc, dcache := t.dcache, stackTab := t.stackTab } : State) ∧
    Lands u t c.seer ws ∧
    (t.cmd id).map Cmd.core = some (Cmd.core { c with stage := .finished, ending := some e, writes := if e.good then c.writes else [] }) ∧
    ∀ k, k ≠ id → (t.cmd k).map Cmd.core = (u.cmd k).map Cmd.core

/-- A command that has finished commits in the same step: every earlier command of its queue is done, its remote writes are
acknowledged, its local ones have landed, and its record goes to a completion queue in host memory of a context that no Function
Level Reset drains (R83, R452, R453, R520). -/
abbrev State.commitsNow (s : State) (c : Cmd) : Prop :=
  s.earlierDone c.id = true ∧ c.unacked = 0 ∧ c.writes = [] ∧ (s.ctx c.id.ctx).flr = false ∧
  (s.queue (queueKey c.id)).cqDev = false ∧ (s.func (s.ctx c.id.ctx).fn).busMaster = true

/-- The host write of a command's record (R452). -/
def State.recordOut (s : State) (c : Cmd) (e : Ending) : Out :=
  let q := s.queue (queueKey c.id)
  .hostWrite (s.ctx c.id.ctx).fn (q.cqBase + 32 * (c.id.pos % 2 ^ q.log2)) (recordBytes c e (2 ^ q.log2))

/-- The record of command c with ending e goes to host memory: the command is gone, and its record is out. -/
def Recorded (s t : State) (c : Cmd) (e : Ending) : Prop :=
  (∀ y ∈ t.cmds, y.id ≠ c.id) ∧ s.recordOut c e ∈ t.out ∧
  (t.queue (queueKey c.id)).written = (s.queue (queueKey c.id)).written + 1

/-- `t` follows `s` by the commit of command c with ending e: its record is out, what it wrote stands for every reader and no other
byte has changed. -/
def Committed (s t : State) (c : Cmd) (e : Ending) : Prop :=
  Recorded s t c e ∧ ∀ a w, t.mem.read a w = (s.mem.unveil c.stamp false).read a w

/-- `s` with what every commit may change taken from `t`: commands, their queues, memory with its ECC counts, semaphores, and what
goes to the host. -/
def State.afterCommit (s t : State) : State :=
  { s with cmds := t.cmds, queues := t.queues, sems := t.sems, mem := t.mem, ecc := t.ecc, funcs := t.funcs, hports := t.hports, out := t.out }

/-- What SIGNAL_ADD of a command adds to semaphore n (R90). -/
def signalAdd (c : Cmd) (n : Nat) : W32 :=
  if present (u16 c.raw 0x16) ∧ n = semNo (u16 c.raw 0x16) then BitVec.ofNat 32 (u16 c.raw 0x1C) else 0

/- ---- tesserae ---- -/

/-- The X-stream of a tessera issues an instruction of opcode op in the simulated state m of its item: nothing holds it, it meets
no condition and no uncorrectable word, and the A-stream does not halt in the same cycle (R118, R162, R164, R490). -/
def State.xIssues (s : State) (die t op : Nat) (c : Cmd) (m : Sim) : Prop :=
  s.hitOf die t = none ∧ ∃ m0, s.sim die t = some (c, m0) ∧ m0.xTurn op = .go m ∧ m.aHaltNow c = none

/-- The A-stream issues an instruction of opcode op (R122, R162, R164). -/
def State.aIssues (s : State) (die t op : Nat) (c : Cmd) (m : Sim) : Prop :=
  s.hitOf die t = none ∧ ∃ m0, s.sim die t = some (c, m0) ∧ m0.aTurn c op = .go m ∧ m.xHaltNow = none

/-- The X-stream has retired its instruction: its next word, and the cycle from which that may issue (R118, R141). -/
def Tess.xRetired (t : Tess) (pc next : Nat) : Tess := { t with xpc := pc, xNext := next, xRet := t.xRet + 1, xWait := none }
/-- The A-stream has retired its instruction (R122). -/
def Tess.aRetired (t : Tess) (pc next : Nat) : Tess := { t with apc := pc, aNext := next, aRet := t.aRet + 1, aWait := none }

/-- `r` is `s` but for one tessera, its die's counters and its command's scale guard, which are those of m. -/
def ItemStep (s r : State) (die t : Nat) (c : Cmd) (m : Sim) : Prop :=
  r = ({ s with tess := r.tess, dies := r.dies, cmds := r.cmds } : State) ∧
  r.tessera (tessKey die t) = m.t ∧ (∀ k, k ≠ tessKey die t → r.tessera k = s.tessera k) ∧
  r.die die = m.d ∧ (∀ k, k ≠ die → r.die k = s.die k) ∧ sameCmds (s.modGrid c.id fun g => { g with guard := m.g }) r

/-- `r` is `s` after a tessera halted in the state m (R131, R161 to R165, R80): both streams stop, the halt record names stream,
reason, PC, command and item, the command ends with ENGINE_HALTED, and its context drains. A tessera of another context, another
halt record, another context and every register outside the engines keep their values. -/
def Halts (s r : State) (die t : Nat) (c : Cmd) (m : Sim) (x : Bool) (reason pc : Nat) : Prop :=
  let k := tessKey die t
  (r.tessera k).st = .halted ∧ (r.tessera k).mustClear = true ∧
  (∀ j, j ≠ k → (∀ y ∈ s.tess, y.1 = j → ∀ i, y.2.item = some i → i.cmd.ctx ≠ c.id.ctx) → r.tessera j = s.tessera j) ∧
  (r.halt k).valid = true ∧ (r.halt k).ovr = (s.halt k).valid ∧ (r.halt k).stream = x ∧ (r.halt k).reason = reason ∧
  (r.halt k).pc = pc ∧ (r.halt k).word = m.t.word x pc ∧ (r.halt k).context = c.id.ctx ∧ (r.halt k).queue = c.id.q ∧
  (r.halt k).seq = c.id.pos % 65536 ∧ (r.halt k).xret = min m.t.xRet 0xFFFFFFFF ∧ (r.halt k).aret = min m.t.aRet 0xFFFFFFFF ∧
  (∀ j, j ≠ k → r.halt j = s.halt j) ∧
  (c.ending = none → (r.cmd c.id).map (·.ending) =
    some (some { status := .engineHalted, detail := reason * 2 ^ 24 + die * 2 ^ 21 + t * 2 ^ 14 + b2n x * 2 ^ 13 })) ∧
  ((s.ctx c.id.ctx).st = .opened → r.ctx c.id.ctx = { s.ctx c.id.ctx with st := .draining, cause := .engineHalt }) ∧
  (∀ j, j ≠ c.id.ctx → r.ctx j = s.ctx j) ∧
  r = ({ s.afterTear r with halts := r.halts } : State)

/- ---- docents ---- -/

/-- `r` is `u` after a docent worked on task x of command c (R293): the task has taken n items more, is computed with the last, and is
else changed by f; partials arrived at the merge unit; the command's counts are the given ones. Nothing else of any command
changes. -/
def ItemsDone (u r : State) (c : Cmd) (x : DocTask) (n : Nat) (arrive : List Part) (counts : DocCounts) (f : DocTask → DocTask) : Prop :=
  (r.cmd c.id).map Cmd.core = some (Cmd.core { c with
    work := .doc { c.doc with
      counts := counts, arrived := c.doc.arrived ++ arrive.map fun p => (x.stack, p)
      tasks := c.doc.tasks.map fun y => if y.stack = x.stack ∧ y.bank = x.bank then
        f { y with taken := y.taken + n, st := if y.taken + n < y.items.length then .active else .computed } else y } }) ∧
  ∀ k, k ≠ c.id → (r.cmd k).map Cmd.core = (u.cmd k).map Cmd.core

/-- The same for one item, after which the task holds `parts` and its next slice of a vector. -/
def ItemDone (u r : State) (c : Cmd) (x : DocTask) (parts arrive : List Part) (counts : DocCounts) : Prop :=
  ItemsDone u r c x 1 arrive counts fun y => { y with parts := parts, buf := x.buf.drop 1 }

/-- The docent of task x wrote `ws` (newest first) into its bank, and then finished an item. -/
def ItemWritten (u r : State) (c : Cmd) (x : DocTask) (counts : DocCounts) (ws : List (Nat × Byte)) : Prop :=
  u.landsAll ws → r = ({ u with cmds := r.cmds, mem := r.mem, ecc := r.ecc } : State) ∧
    Lands u r ⟨c.stamp, docentSeer x.stack x.bank⟩ ws ∧ ItemDone u r c x x.parts [] counts

/- ---- links ---- -/

/-- `t` follows `s` by module m being marked unreachable (R425, R354): its epoch rises, a JOIN already out is repeated still (R427), no
request to it remains, a command with a write or signal outstanding there ends with REMOTE_INDETERMINATE and one with reads only with
REMOTE_UNREACHABLE, and copies sent there are unreachable. -/
def Lost (s t : State) (m : Nat) : Prop :=
  let p := s.peer m
  let read (r : Req) : Bool := match r.kind with
    | .read _ _ => true
    | _ => false
  t.peer m = { p with reachable := false, marks := min 255 (p.marks + 1), epoch := (p.epoch + 1) % 65536, joining := p.joining && !p.reachable } ∧
  (∀ k, k ≠ m → t.peer k = s.peer k) ∧ (∀ r ∈ t.reqs, r.peer ≠ m) ∧
  (∀ id c, s.cmd id = some c → c.open_ = true →
    ((∃ r ∈ s.reqs, r.peer = m ∧ r.cmd = id ∧ read r = false) →
      (t.cmd id).map (·.ending) = some (some { status := .remoteIndeterminate, detail := m })) ∧
    ((∃ r ∈ s.reqs, r.peer = m ∧ r.cmd = id) → (∀ r ∈ s.reqs, r.peer = m → r.cmd = id → read r = true) →
      (t.cmd id).map (·.ending) = some (some { status := .remoteUnreachable, detail := m }))) ∧
  (∀ k, (s.entry k).st = .sent ∨ (s.entry k).st = .accepted → (s.entry k).dest = m →
    (s.handle (handleKey (s.entry k).ctx (s.entry k).handle)).st ≠ .orphan → t.entry k = { s.entry k with st := .doneU, res := [] }) ∧
  t = ({ s.afterStop t with peers := t.peers, ledger := t.ledger, handles := t.handles, slots := t.slots } : State)

/-- The row of a packet that arrives at a link die, by its type (R420). -/
def packetRow (ld : Nat) (p : Packet) (env : Env) : Option Instr :=
  match p.ptype with
  | 0x01 => some (.readReq ld p env)
  | 0x02 => some (.writeReq ld p env)
  | 0x03 => some (.signalReq ld p)
  | 0x11 => if p.status ≤ 3 then some (.readResp ld p) else none
  | 0x12 => if p.status ≤ 3 then some (.writeAck ld p) else none
  | 0x13 => some (.signalAck ld p)
  | 0x21 => some (.courier ld p)
  | 0x31 => some (.heartbeat ld p)
  | 0x32 => some (.join ld p)
  | 0x33 => some (.joinAck ld p)
  | 0x34 => some (.pathLost ld p)
  | _ => none

/- ---- runs ---- -/

/-- A run of n steps that meets no fault and no refusal. -/
def safeRun (n : Nat) (s : State) : Prop := ∃ t, Host.Core.run
  ⟨State, Fault, Refusal, step, State.reset⟩ n s = .next t

end Sys2Proof.Machine
end

