-- ==== Sys2Proof/Certificates/Slice0/Obligations.lean ====
section
/-! DEFINITION. The statements for the provers. `t = x.refresh` says that the next state is `x`, in which only the waits of
commands are brought up to date (R84, R89): everything `x` takes from `s` is as it was. The premise `s.Calm` says that nothing
waits to take place by itself in the same step. -/

open Sys2Proof Sys2Proof.Machine


/-- A step takes the command at the front of the queue and runs it on the state with the queue's rest; on an empty queue one
REFCLK period passes (the model's choice, log entry 10). -/
def Obligations.StepRunsTheFrontCommand : Prop := ∀ (s : State) (c : Instr),
  step { s with pending := c :: s.pending } = exec c s ∧ (s.pending = [] → step s = .next s.tick)

/-- One period on an empty queue (R363, R532, R551, R552): every running die's tick counts up by one, wrapping at 64 bits; an
account of a context with a share loses 10 ns while the context runs on the engine and else gains SHARE/16 of it, within its
limits (kept in sixteenths of a nanosecond); the operating hours take an hour when it is full. Fuses that are being burned go on, one
of the counter at a time and then those of the revoked keys (R471, R472); a busy mailbox comes nearer to its response (R483).
Nothing else changes. -/
def Obligations.ClockPeriodMovesTimeOnly : Prop := ∀ (s : State), s.pending = [] → ∃ t, step s = .next t ∧
  (s.hports.any (·.2.mbBusy) = false →
    t = { s with clock := s.clock + 1, accounts := t.accounts, evd := t.evd, patina := t.patina, boot := t.boot }) ∧
  (∀ d, t.ev d = if d ∈ s.runningDies then { s.ev d with tick := ((s.ev d).tick + 1) % 2 ^ 64 } else s.ev d) ∧
  (∀ e ctx, e ∈ s.allEngines → ctx < 256 → (s.ctx ctx).share ≠ 0 →
    t.account (accountKey e ctx) = (if s.runsOn e ctx then max (-(16 * (limitNs (engineCls e) : Int))) (s.account (accountKey e ctx) - 160)
      else min (16 * (limitNs (engineCls e) : Int)) (s.account (accountKey e ctx) + 10 * ((s.ctx ctx).share : Int)))) ∧
  (∀ n, (s.ctx (n % 256)).share = 0 → t.account n = s.account n) ∧
  (0 ∈ s.runningDies → 3600 * 10 ^ 8 * t.patina.hours + t.patina.sub = 3600 * 10 ^ 8 * s.patina.hours + s.patina.sub + 1) ∧
  (0 ∉ s.runningDies → t.patina = s.patina) ∧
  (s.boot.burning = false → t.boot = s.boot) ∧
  (s.boot.burning = true → t.boot = (if s.boot.counter < s.boot.floor then { s.boot with counter := s.boot.counter + 1 }
    else { s.boot with revoked := s.boot.revoked ||| s.revokes, burning := false })) ∧
  ∀ p, p < 2 → (s.hport p).mbBusy = true → 1 < (s.hport p).mbWait → t.hport p = { s.hport p with mbWait := (s.hport p).mbWait - 1 }

/-- The machine right after reset, where the spec gives the values: ROM in GL_BOOT.STATE with the rails down; contexts CLOSED without
share, kills or root; queues disabled with pointers 0; no descriptor, allocation record, command or cached translation;
semaphores 0; budgets 0xFFFFFFFF; tesserae IDLE; handles and ledger entries FREE; slots empty; ports DOWN; no module reachable;
the package active; and every byte of memory undefined. -/
def Obligations.ResetHasTheSpecsValues : Prop :=
  let s := State.reset
  s.pending = [] ∧ s.out = [] ∧ s.boot.st = .rom ∧ s.powered = false ∧ s.cmds = [] ∧ s.tlb = [] ∧ s.reqs = [] ∧ s.held = [] ∧
  s.pkg = .active ∧ s.pages = [] ∧ s.evTotal = 0 ∧ s.dips = 0 ∧ s.update = none ∧
  (∀ k, (s.ctx k).st = .closed ∧ (s.ctx k).cause = .none ∧ (s.ctx k).share = 0 ∧ (s.ctx k).shareRefused = false ∧ (s.ctx k).kills = 0 ∧
    (s.ctx k).root = 0 ∧ (s.ctx k).layout = none) ∧
  (∀ k, (s.queue k).enable = false ∧ (s.queue k).sqHead = 0 ∧ (s.queue k).sqTail = 0 ∧ (s.queue k).cqHead = 0 ∧ (s.queue k).cqTail = 0) ∧
  (∀ k, s.desc k = none) ∧ (∀ k, s.alloc k = none) ∧ (∀ k, s.sem k = 0) ∧ (∀ k, (s.die k).budX = 0xFFFFFFFF ∧ (s.die k).budA = 0xFFFFFFFF) ∧
  (∀ k, (s.tessera k).st = .idle) ∧ (∀ k, (s.halt k).valid = false) ∧ (∀ k, (s.handle k).st = .free) ∧ (∀ k, (s.entry k).st = .free) ∧
  (∀ k, s.slot k = {}) ∧ (∀ k, (s.port k).st = .down) ∧ (∀ k, (s.peer k).reachable = false) ∧ (∀ k, s.line k = none) ∧
  ∀ a, a < 2 ^ 43 → undefAt s.mem.undef a = some { lo := 0, hi := 2 ^ 43, stamp := 0 }

/-- The invariants hold at reset. -/
def Obligations.ResetKeepsTheInvariants : Prop := State.reset.Settled ∧ Memory.wf State.reset.mem = true

/-- Whatever the command and the state, every step that answers a next state leaves the block between two commands, with every
waiting command's limit, wait and readiness as its order conditions and its semaphore's value give them. -/
def Obligations.StepKeepsSettled : Prop := ∀ (s t : State), s.Settled → step s = .next t → t.Settled

/-- Every step keeps memory in its canonical form. -/
def Obligations.StepKeepsMemoryCanonical : Prop := ∀ (s t : State), Memory.wf s.mem = true → step s = .next t → Memory.wf t.mem = true

/-- No command faults, and none is refused but a boundary-scan instruction of Hjelros's test set, whose effect the spec does not
give (R486): unlocked, that one is refused by name; under the debug lock it acts as an instruction IEEE 1149.1 does not have. The
four instructions of the standard shift the instruction register (the numbers are the model's, log entry 31). -/
def Obligations.ExecRefusesOnlyTestInstructions : Prop := ∀ (i : Instr) (s : State),
  ((∃ t, exec i s = .next t) ∨ ∃ ir, i = .boundaryScanInstruction ir ∧ 4 ≤ ir ∧ s.locked = false ∧ exec i s = .refused .testInstruction) ∧
  ∀ ir, i = .boundaryScanInstruction ir → s.Calm → (ir < 4 ∨ s.locked = true) → ∃ t, exec i s = .next t ∧
    t = ({ s with jtagIr := t.jtagIr, out := t.out } : State).refresh ∧ t.jtagIr = (if ir < 4 then ir else 0) ∧
    t.out = s.out ++ [.jtag (if ir < 4 then ir else 0)]
/-- The eight CLEAR commands: a PF's write of CLEAR sets the counters named by the register's table to zero and changes
nothing else; a VF's write changes nothing. -/
def Obligations.ClearCommandsZeroTheirCounters : Prop := ∀ (s : State) (fn n : Nat), s.Calm → s.regsOpen fn = true →
  (isPf fn = true →
    (n < 8 → ∃ t, exec (.tdSparseCtlClear fn n) s = .next t ∧ t = ({ s with dies := t.dies } : State).refresh ∧
      t.die n = { s.die n with groups := 0, zgroups := 0, npasses := 0, spasses := 0, mrows := 0, mitems := 0 } ∧
      ∀ k, k ≠ n → t.die k = s.die k) ∧
    (n < 8 → ∃ t, exec (.tdApCtlClear fn n) s = .next t ∧ t = ({ s with dies := t.dies } : State).refresh ∧
      t.die n = { s.die n with apBlocks := 0, apSkipped := 0, apNan := 0 } ∧ ∀ k, k ≠ n → t.die k = s.die k) ∧
    (n < 16 → ∃ t, exec (.tdDocCtlClear fn n) s = .next t ∧ t = ({ s with stackTab := t.stackTab } : State).refresh ∧
      t.stack n = { s.stack n with tasks := 0, busy := 0, shared := 0, skipped := 0 } ∧ ∀ k, k ≠ n → t.stack k = s.stack k) ∧
    (n < 16 → ∃ t, exec (.sbCacheCtlClear fn n) s = .next t ∧ t = ({ s with stackTab := t.stackTab } : State).refresh ∧
      t.stack n = { s.stack n with descCnt := 0 } ∧ ∀ k, k ≠ n → t.stack k = s.stack k) ∧
    (n < 6 → ∃ t, exec (.ldCrCtlClear fn n) s = .next t ∧ t = ({ s with couriers := t.couriers } : State).refresh ∧
      t.courier n = { s.courier n with
        sent := 0, processed := 0, capacity := 0, unreach := 0, orphaned := 0, stale := 0, received := 0, discarded := 0 } ∧ ∀ k, k ≠ n → t.courier k = s.courier k) ∧
    (n < 6 → ∃ t, exec (.ldPkCtlClear fn n) s = .next t ∧ t = ({ s with couriers := t.couriers } : State).refresh ∧
      t.courier n = { s.courier n with pkStale := 0, pkHop := 0, pkLost := 0, pkFenced := 0, pkBad := 0 } ∧
      ∀ k, k ≠ n → t.courier k = s.courier k) ∧
    (n < 48 → s.domainOff (portDomain n) = false → ∃ t, exec (.ldWpCtlClear fn n) s = .next t ∧
      t = ({ s with ports := t.ports } : State).refresh ∧
      t.port n = { s.port n with feccor := 0, fecunc := 0, crcerr := 0, replay := 0, stale := 0, trains := 0 } ∧
      ∀ k, k ≠ n → t.port k = s.port k) ∧
    (n < 32 → n ≠ hd0Die → ∃ t, exec (.tdEccCtlClear fn (blockOfDie n)) s = .next t ∧
      t = ({ s with ecc := t.ecc } : State).refresh ∧
      t.eccBlock (blockOfDie n) = { s.eccBlock (blockOfDie n) with corr := 0, uncorr := 0, poison := 0, retry := 0 } ∧
      ∀ k, k ≠ blockOfDie n → t.eccBlock k = s.eccBlock k)) ∧
  (isPf fn = false →
    exec (.tdSparseCtlClear fn n) s = .next s ∧ exec (.tdApCtlClear fn n) s = .next s ∧ exec (.tdDocCtlClear fn n) s = .next s ∧
    exec (.sbCacheCtlClear fn n) s = .next s ∧ exec (.ldCrCtlClear fn n) s = .next s ∧ exec (.ldPkCtlClear fn n) s = .next s ∧
    exec (.ldWpCtlClear fn n) s = .next s ∧ exec (.tdEccCtlClear fn (blockOfDie n)) s = .next s)

/-- A BAR0 read answers one reply and changes only read-to-clear fields and the captures of reads (R12, R15); a register its
function does not see reads zero (R442). The read-to-clear registers: a context's KILLS (R366), the nine error counters of a port
(R459), EVT_DROP of a die (R552) and the count of supply dips (R531) read their count and clear it. -/
def Obligations.RegisterReadAnswersAndClears : Prop := ∀ (s : State) (fn off size : Nat), s.Calm →
  s.barOpen fn = true → barAccess off size = true → ∃ t, exec (.rcRead fn off size) s = .next t ∧
    t.out = s.out ++ [.regRead fn off size (if size = 4 then (s.read32 fn off).1 else (s.read64 fn off).1)] ∧
    t = ({ s with out := t.out, hports := t.hports, ctxs := t.ctxs, evd := t.evd, cross := t.cross, dips := t.dips,
                  pairRead := t.pairRead, cacheCap := t.cacheCap, slotCap := t.slotCap } : State).refresh ∧
    (∀ c, t.ctx c = s.ctx c ∨ t.ctx c = { s.ctx c with kills := 0 }) ∧
    (s.sees fn off = false → size = 4 → t.out = s.out ++ [.regRead fn off size 0]) ∧
    (∀ p i, p < 2 → i < 9 → off = hiBase + 0x100 + 0x40 * p + 4 * i → size = 4 → s.sees fn off = true →
      t.out = s.out ++ [.regRead fn off size ((s.hport p).errors.getD i 0)] ∧ (t.hport p).errors.getD i 1 = 0 ∧
      (∀ j, j ≠ i → (t.hport p).errors.getD j 0 = (s.hport p).errors.getD j 0) ∧ ∀ k, k ≠ p → t.hport k = s.hport k) ∧
    (∀ c, c < 256 → off = hiBase + 0x5000 + 4 * c → size = 4 → s.sees fn off = true →
      t.out = s.out ++ [.regRead fn off size (s.ctx c).kills] ∧ t.ctx c = { s.ctx c with kills := 0 } ∧ ∀ k, k ≠ c → t.ctx k = s.ctx k) ∧
    (∀ d, d < 32 → d ≠ 30 → off = blockOfDie d + 0xD00C → size = 4 → s.sees fn off = true →
      t.out = s.out ++ [.regRead fn off size (s.ev d).drop] ∧ t.ev d = { s.ev d with drop := 0 } ∧ ∀ k, k ≠ d → t.ev k = s.ev k) ∧
    (off = scBase + 0x620 → size = 4 → s.sees fn off = true → t.out = s.out ++ [.regRead fn off size s.dips] ∧ t.dips = 0)

/-- A BAR0 write by access type (R11, R14, R442): ITEM_CYCLES takes bits 23:0, SHARE_REFUSED and a rail's LOW are cleared by a 1
and kept by a 0, a budget is taken unless the debug lock holds, a halt record's VALID is cleared; an offset without a
register and a function without the right leave all as it was; a 64-bit write that is no pair is two writes in order. -/
def Obligations.RegisterWriteByAccessType : Prop := ∀ (s : State) (fn v : Nat), s.Calm → s.barOpen fn = true →
  (∀ c, c < 256 → s.mayWrite fn (hiBase + 0x4C00 + 4 * c) = true → ∃ t,
    exec (.registerWrite fn (hiBase + 0x4C00 + 4 * c) 4 v) s = .next t ∧ t = ({ s with ctxs := t.ctxs } : State).refresh ∧
    t.ctx c = { s.ctx c with itemCycles := v % 2 ^ 24 } ∧ ∀ k, k ≠ c → t.ctx k = s.ctx k) ∧
  (∀ c, c < 256 → s.mayWrite fn (hiBase + 0x4400 + 4 * c) = true → ∃ t,
    exec (.registerWrite fn (hiBase + 0x4400 + 4 * c) 4 v) s = .next t ∧ t = ({ s with ctxs := t.ctxs } : State).refresh ∧
    t.ctx c = { s.ctx c with shareRefused := (s.ctx c).shareRefused && !bit (v % 2 ^ 32) 31 } ∧ ∀ k, k ≠ c → t.ctx k = s.ctx k) ∧
  (∀ r, r < 7 → s.mayWrite fn (scBase + 0x600 + 4 * r) = true → ∃ t,
    exec (.registerWrite fn (scBase + 0x600 + 4 * r) 4 v) s = .next t ∧ t = ({ s with rails := t.rails } : State).refresh ∧
    t.rail r = { s.rail r with low := (s.rail r).low && !bit (v % 2 ^ 32) 30 } ∧ ∀ k, k ≠ r → t.rail k = s.rail k) ∧
  (∀ d, d < 8 → s.mayWrite fn (tdBase d + 0x3004) = true → ∃ t,
    exec (.registerWrite fn (tdBase d + 0x3004) 4 v) s = .next t ∧ t = ({ s with dies := t.dies } : State).refresh ∧
    t.die d = (if s.locked then s.die d else { s.die d with budX := v % 2 ^ 32 }) ∧ ∀ k, k ≠ d → t.die k = s.die k) ∧
  (∀ d n, d < 8 → n < s.tessPerCd → n < 128 → bit (v % 2 ^ 32) 31 = true → s.mayWrite fn (tdBase d + 0x4000 + 0x40 * n) = true → ∃ t,
    exec (.registerWrite fn (tdBase d + 0x4000 + 0x40 * n) 4 v) s = .next t ∧ t = ({ s with halts := t.halts } : State).refresh ∧
    t.halt (128 * d + n) = { s.halt (128 * d + n) with valid := false, ovr := false } ∧
    ∀ k, k ≠ 128 * d + n → t.halt k = s.halt k) ∧
  (∀ off, barAccess off 4 = true → blockAt off = (.none, 0) → exec (.registerWrite fn off 4 v) s = .next s.refresh) ∧
  (∀ off, barAccess off 4 = true → s.mayWrite fn off = false → exec (.registerWrite fn off 4 v) s = .next s.refresh) ∧
  (∀ off, barAccess off 8 = true → isPair off = false → ∃ t, exec (.registerWrite fn off 8 v) s = .next t ∧
    t = ((s.write32 fn off (v % 2 ^ 32)).write32 fn (off + 4) (v / 2 ^ 32 % 2 ^ 32)).settle)

/-- Halves of a 64-bit register (R15): a read of the low half captures the high half for the function's next read of it; a write
of the low half is held until the function's write of the high half, which takes effect with it or, with none held, alone
(shown on a queue's SQ_BASE, R448). Captures and held halves of other functions and pairs stay.
A BAR0 access narrower than 32 bits or not aligned to its size is counted in the port's BADSIZE, which stops at its
greatest value; a read of that kind answers zero; nothing else changes (R16). -/
def Obligations.PairsAreCapturedAndBadSizesCounted : Prop := (∀ (s : State) (fn off v : Nat), s.Calm → s.barOpen fn = true →
  (isPair off = true →
    (s.sees fn off = true → ∃ t, exec (.pairLowRead fn off) s = .next t ∧
      t = ({ s with out := s.out ++ [.regRead fn off 4 (s.word off)], pairRead := t.pairRead } : State).refresh ∧
      t.captured fn off = some (s.word (off + 4)) ∧
      ∀ k, k ≠ pairKey fn off → Assoc.get none t.pairRead k = Assoc.get none s.pairRead k) ∧
    (s.sees fn off = false → exec (.pairLowRead fn off) s = .next (s.emit (.regRead fn off 4 0)).refresh) ∧
    (s.mayWrite fn off = true → ∃ t, exec (.pairLowWrite fn off v) s = .next t ∧
      t = ({ s with pairWrite := t.pairWrite } : State).refresh ∧ t.heldLow fn off = some (v % 2 ^ 32) ∧
      ∀ k, k ≠ pairKey fn off → Assoc.get none t.pairWrite k = Assoc.get none s.pairWrite k) ∧
    (s.mayWrite fn off = false → exec (.pairLowWrite fn off v) s = .next s.refresh)) ∧
  (isPair (off - 4) = true → off % 8 = 4 →
    (s.sees fn off = true → ∃ t, exec (.pairHighRead fn off) s = .next t ∧
      t = ({ s with out := s.out ++ [.regRead fn off 4 ((s.captured fn (off - 4)).getD (s.word off))],
                    pairRead := t.pairRead } : State).refresh ∧ t.captured fn (off - 4) = none ∧
      ∀ k, k ≠ pairKey fn (off - 4) → Assoc.get none t.pairRead k = Assoc.get none s.pairRead k) ∧
    (s.sees fn off = false → exec (.pairHighRead fn off) s = .next (s.emit (.regRead fn off 4 0)).refresh) ∧
    (s.mayWrite fn off = false → exec (.pairHighWrite fn off v) s = .next s.refresh)) ∧
  (∀ n, n < 4096 → s.mayWrite fn (hiBase + 0x8004 + 0x20 * n) = true → s.mayConfigure fn (n / 16) = true →
    (s.queue n).enable = false → (s.queue n).disabling = false → ∃ t,
    exec (.pairHighWrite fn (hiBase + 0x8004 + 0x20 * n) v) s = .next t ∧
    t = ({ s with pairWrite := t.pairWrite, queues := t.queues } : State).refresh ∧
    t.heldLow fn (hiBase + 0x8000 + 0x20 * n) = none ∧
    t.queue n = { s.queue n with
      sqBase := bits ((s.heldLow fn (hiBase + 0x8000 + 0x20 * n)).getD (s.word (hiBase + 0x8000 + 0x20 * n)) + 2 ^ 32 * (v % 2 ^ 32))
        63 12 * 2 ^ 12 } ∧ ∀ k, k ≠ n → t.queue k = s.queue k)) ∧
  (∀ (s : State) (fn off size : Nat) (w : Bool), s.Calm →
  s.barOpen fn = true → 0 < size → off + size ≤ 2 ^ 26 → (size < 4 ∨ off % size ≠ 0) →
  ∃ t, exec (.bar0BadsizeAccess fn off size w) s = .next t ∧
    t = ({ s with hports := t.hports, out := if w then s.out else s.out ++ [.regRead fn off size 0] } : State).refresh ∧
    t.hport (fn / 64) = { s.hport (fn / 64) with badsize := min 0xFFFFFFFF ((s.hport (fn / 64)).badsize + 1) } ∧
    ∀ k, k ≠ fn / 64 → t.hport k = s.hport k)
/-- A PF's write to HI_CTX_CFG sets PRIORITY; it sets SHARE and returns the context's share accounts to 0 unless the sum of SHARE
over all contexts would exceed 16, in which case SHARE and the accounts stay and SHARE_REFUSED is set; the sum never comes
to exceed 16. A VF's write changes nothing. -/
def Obligations.ShareWriteKeepsTheSumWithinSixteen : Prop := ∀ (s : State) (fn ctx v : Nat), s.Calm →
  s.regsOpen fn = true → ctx < 256 →
  (isPf fn = true → ∃ t, exec (.hiCtxCfgWrite fn ctx v) s = .next t ∧
    t = ({ s with ctxs := t.ctxs, accounts := t.accounts } : State).refresh ∧ (∀ k, k ≠ ctx → t.ctx k = s.ctx k) ∧
    (s.shareBut ctx + bits v 5 2 ≤ 16 →
      t.ctx ctx = { s.ctx ctx with prio := bits v 1 0, share := bits v 5 2 } ∧
      ∀ n, t.account n = if n % 256 = ctx then 0 else s.account n) ∧
    (16 < s.shareBut ctx + bits v 5 2 →
      t.ctx ctx = { s.ctx ctx with prio := bits v 1 0, shareRefused := true } ∧ t.accounts = s.accounts) ∧
    (s.shareBut 256 ≤ 16 → t.shareBut 256 ≤ 16)) ∧
  (isPf fn = false → exec (.hiCtxCfgWrite fn ctx v) s = .next s.refresh)

/-- The transitions of a context by HI_CTX_CMD (R70): OPEN in CLOSED, TEARDOWN in OPEN and RELEASE in TORN_DOWN, each with its
effect; an OP in any other state is ignored. A teardown gives every command of the context CONTEXT_TORN_DOWN with the cause as DETAIL,
but for those refused, ended by WAIT_TIMEOUT or failed with the cause (R71).
A draining context whose last record is written and which every engine has released becomes TORN_DOWN (R70), its halted
tesserae are released and clear themselves (R131) and no page of its cache is left (R326); after a Function Level Reset it is CLOSED
at once (R458). Other contexts keep their fields. The premise on the reset says that no stack's sum fails (R318). A context that
still owes something is left alone. -/
def Obligations.ContextsMoveAndDrain : Prop := (∀ (s : State) (fn ctx : Nat), s.Calm →
  s.mayCommand fn ctx = true →
  ((s.ctx ctx).st = .closed → ∃ t, exec (.ctxOpen fn ctx) s = .next t ∧
    t = ({ s with ctxs := t.ctxs, accounts := t.accounts } : State).refresh ∧
    t.ctx ctx = { s.ctx ctx with st := .opened, cause := .none } ∧ (∀ k, k ≠ ctx → t.ctx k = s.ctx k) ∧
    ∀ n, t.account n = if n % 256 = ctx then 0 else s.account n) ∧
  ((s.ctx ctx).st ≠ .closed → exec (.ctxOpen fn ctx) s = .next s.refresh) ∧
  ((s.ctx ctx).st = .opened → ∃ t, exec (.ctxTeardown fn ctx) s = .next t ∧ t = s.afterTear t ∧
    t.ctx ctx = { s.ctx ctx with st := .draining, cause := .hostRequest } ∧ (∀ k, k ≠ ctx → t.ctx k = s.ctx k) ∧
    (∀ id, id.ctx = ctx → (∀ b ∈ s.cmds, b.id = id → b.keepsStatus = true) → (t.cmd id).map (·.ending) = (s.cmd id).map (·.ending)) ∧
    (∀ b ∈ s.cmds, b.id.ctx = ctx → b.keepsStatus = false →
      (t.cmd b.id).map (·.ending) = some (some { status := .contextTornDown, detail := 3 })) ∧
    (∀ id, id.ctx ≠ ctx → (t.cmd id).map Cmd.core = (s.cmd id).map Cmd.core) ∧
    ∀ k, (∀ x ∈ s.tess, x.1 = k → ∀ i, x.2.item = some i → i.cmd.ctx ≠ ctx) → t.tessera k = s.tessera k) ∧
  ((s.ctx ctx).st ≠ .opened → exec (.ctxTeardown fn ctx) s = .next s.refresh) ∧
  ((s.ctx ctx).st = .tornDown → ∃ t, exec (.ctxRelease fn ctx) s = .next t ∧
    t = ({ s with ctxs := t.ctxs, descs := t.descs, allocs := t.allocs, sems := t.sems, handles := t.handles, ledger := t.ledger,
                  queues := t.queues, fresh := t.fresh } : State).refresh ∧
    (t.ctx ctx).st = .closed ∧ (t.ctx ctx).layout = none ∧ (∀ k, k ≠ ctx → t.ctx k = s.ctx k) ∧
    (∀ n, t.desc n = if n / 4096 = ctx then none else s.desc n) ∧ (∀ n, t.alloc n = if n / 1024 = ctx then none else s.alloc n) ∧
    (∀ n, t.sem n = if (s.ctx ctx).owns n then 0 else s.sem n) ∧
    (∀ q, q < 16 → (t.queue (16 * ctx + q)).enable = false ∧ (t.queue (16 * ctx + q)).sqHead = 0) ∧
    ∀ h, h < 64 → (t.handle (handleKey ctx h)).st = .free) ∧
  ((s.ctx ctx).st ≠ .tornDown → exec (.ctxRelease fn ctx) s = .next s.refresh)) ∧
  (∀ (s : State) (fn ctx : Nat), s.Calm → s.mayCommand fn ctx = false → exec (.ctxOpen fn ctx) s = .next s.refresh ∧
    exec (.ctxTeardown fn ctx) s = .next s.refresh ∧ exec (.ctxRelease fn ctx) s = .next s.refresh) ∧
  (∀ (s : State) (ctx : Nat),
  (s.drained ctx = true → s.Calm → (s.drainEnd ctx).resetWanted = none → ∃ t, exec (.drainComplete ctx) s = .next t ∧
    t = ({ s with ctxs := t.ctxs, pages := t.pages, stackTab := t.stackTab, tess := t.tess, descs := t.descs, allocs := t.allocs,
                  sems := t.sems, handles := t.handles, ledger := t.ledger, queues := t.queues, fresh := t.fresh } : State).refresh ∧
    (t.ctx ctx).st = (if (s.ctx ctx).flr then .closed else .tornDown) ∧ (∀ k, k ≠ ctx → t.ctx k = s.ctx k) ∧
    ((s.ctx ctx).flr = false → t.descs = s.descs ∧ t.allocs = s.allocs ∧ t.sems = s.sems ∧ t.queues = s.queues ∧ t.fresh = s.fresh) ∧
    (∀ p ∈ t.pages, p.ctx ≠ ctx) ∧ (∀ p ∈ s.pages, p.ctx ≠ ctx → p ∈ t.pages) ∧
    (∀ k, (t.tessera k).st = .halted → (t.tessera k).context ≠ ctx) ∧
    ∀ k, (∀ x ∈ s.tess, x.1 = k → x.2.st ≠ .halted ∨ x.2.context ≠ ctx) → t.tessera k = s.tessera k) ∧
  (s.drained ctx = false → exec (.drainComplete ctx) s = .next s))

/-- A write of ENABLE = 1 to HI_Q_CFG enables the queue pair with all four pointers at 0, or leaves ENABLE at 0 and counts QCFG
when DISABLING, the context's state or LOG2SIZE forbids it; ENABLE written over an enabled queue changes nothing. A write of
ENABLE = 0 stops the queue and sets DISABLING, which ends, all pointers reading 0, when no record is owed (R448, R449).
A doorbell (R450): the tail doorbell of queue q of a slot at offset 8 * q moves SQ TAIL and the head doorbell at 8 * q + 4 moves CQ
HEAD when they meet none of the rule's cases; else they are discarded and counted in DBDROP: a slot without a context or with one of
another port, a doorbell past those of the queues, reserved bits, and what the queue forbids; a narrow or misaligned write is one
discarded doorbell. A wide write is its doorbells in increasing address order. While an earlier posted write of the port is held, a
doorbell waits (R392). -/
def Obligations.QueuesAndTheirDoorbells : Prop := (∀ (s : State) (fn ctx q v : Nat), s.Calm →
  s.regsOpen fn = true → ctx < 256 → q < 16 →
  (s.mayConfigure fn ctx = true → bit v 31 = true →
    let x := s.queue (16 * ctx + q)
    (x.enable = true → exec (.qEnable fn ctx q v) s = .next s.refresh) ∧
    (x.enable = false → x.disabling = true → ∃ t, exec (.qEnable fn ctx q v) s = .next t ∧
      t = ({ s with hports := t.hports } : State).refresh ∧
      (t.hport (s.ctx ctx).port).qcfg = min 0xFFFFFFFF ((s.hport (s.ctx ctx).port).qcfg + 1) ∧
      ∀ k, k ≠ (s.ctx ctx).port → t.hport k = s.hport k) ∧
    (x.enable = false → x.disabling = false → ((s.ctx ctx).st = .closed ∨ (s.ctx ctx).st = .opened) → 4 ≤ v % 32 → v % 32 ≤ 16 →
      ∃ t, exec (.qEnable fn ctx q v) s = .next t ∧ t = ({ s with queues := t.queues } : State).refresh ∧
      t.queue (16 * ctx + q) = { x with
        enable := true, sqDev := bit v 30, cqDev := bit v 29, vector := bits v 26 16, log2 := v % 32, sqHead := 0, sqTail := 0,
        cqHead := 0, cqTail := 0, accepted := 0, written := 0, readFailed := false } ∧
      ∀ k, k ≠ 16 * ctx + q → t.queue k = s.queue k) ∧
    (x.enable = false → x.disabling = false →
      (((s.ctx ctx).st ≠ .closed ∧ (s.ctx ctx).st ≠ .opened) ∨ v % 32 < 4 ∨ 16 < v % 32) →
      ∃ t, exec (.qEnable fn ctx q v) s = .next t ∧ t = ({ s with queues := t.queues, hports := t.hports } : State).refresh ∧
      t.queue (16 * ctx + q) = { x with sqDev := bit v 30, cqDev := bit v 29, vector := bits v 26 16, log2 := v % 32 } ∧
      (∀ k, k ≠ 16 * ctx + q → t.queue k = s.queue k) ∧
      (t.hport (s.ctx ctx).port).qcfg = min 0xFFFFFFFF ((s.hport (s.ctx ctx).port).qcfg + 1) ∧
      ∀ k, k ≠ (s.ctx ctx).port → t.hport k = s.hport k)) ∧
  (s.mayConfigure fn ctx = true → bit v 31 = false → ∃ t, exec (.qDisable fn ctx q v) s = .next t ∧
    t = ({ s with queues := t.queues } : State).refresh ∧ (∀ k, k ≠ 16 * ctx + q → t.queue k = s.queue k) ∧
    t.queue (16 * ctx + q) = (let x := s.queue (16 * ctx + q)
      if x.enable then { x with enable := false, disabling := true } else if x.disabling then x
      else { x with sqDev := bit v 30, cqDev := bit v 29, vector := bits v 26 16, log2 := v % 32 })) ∧
  (s.mayConfigure fn ctx = false → (bit v 31 = true → exec (.qEnable fn ctx q v) s = .next s.refresh) ∧
    (bit v 31 = false → exec (.qDisable fn ctx q v) s = .next s.refresh))) ∧
  (∀ (s : State) (ctx q : Nat), s.Calm → (s.queue (16 * ctx + q)).disabling = true → s.owesNone ctx q = true →
    ∃ t, exec (.qDisableComplete ctx q) s = .next t ∧
    t = ({ s with queues := t.queues } : State).refresh ∧ (∀ k, k ≠ 16 * ctx + q → t.queue k = s.queue k) ∧
    t.queue (16 * ctx + q) = { s.queue (16 * ctx + q) with
      enable := false, disabling := false, sqHead := 0, sqTail := 0, cqHead := 0, cqTail := 0, accepted := 0, written := 0,
      readFailed := false }) ∧
  (∀ (s : State) (fn slot o v : Nat), s.Calm → s.regsOpen fn = true → s.postedLanded (fn / 64) = true → o < 0x10000 → o % 4 = 0 →
  v < 2 ^ 32 →
  let ring := if headFirst o then Instr.headDoorbell fn (0x10000 * slot + o) 4 v else Instr.tailDoorbell fn (0x10000 * slot + o) 4 v
  let drop := ∃ t, exec ring s = .next t ∧ t = ({ s with hports := t.hports } : State).refresh ∧
    t.hport (fn / 64) = { s.hport (fn / 64) with dbdrop := min 0xFFFFFFFF ((s.hport (fn / 64)).dbdrop + 1) } ∧
    ∀ k, k ≠ fn / 64 → t.hport k = s.hport k
  (s.slotCtx fn slot = none → drop) ∧
  ∀ c, s.slotCtx fn slot = some c →
    ((s.ctx c).port ≠ fn / 64 ∨ 0x80 ≤ o ∨ 0x10000 ≤ v ∨ s.bellOk c (o / 8) v (headFirst o) = false → drop) ∧
    ((s.ctx c).port = fn / 64 → o < 0x80 → v < 0x10000 → s.bellOk c (o / 8) v (headFirst o) = true →
      (s.fnEnabled (s.ctx c).fn = false → exec ring s = .next s.refresh) ∧
      (s.fnEnabled (s.ctx c).fn = true → ∃ t, exec ring s = .next t ∧ t = ({ s with queues := t.queues } : State).refresh ∧
        t.queue (16 * c + o / 8) = (if headFirst o then { s.queue (16 * c + o / 8) with cqHead := v }
          else { s.queue (16 * c + o / 8) with sqTail := v }) ∧
        ∀ k, k ≠ 16 * c + o / 8 → t.queue k = s.queue k))) ∧
  ∀ (s : State) (fn off size v : Nat), s.Calm → s.regsOpen fn = true →
  let ring := if headFirst off then Instr.headDoorbell fn off size v else Instr.tailDoorbell fn off size v
  (s.postedLanded (fn / 64) = true → (size < 4 ∨ off % 4 ≠ 0 ∨ size % 4 ≠ 0) → ∃ t, exec ring s = .next t ∧
    t = ({ s with hports := t.hports } : State).refresh ∧
    t.hport (fn / 64) = { s.hport (fn / 64) with dbdrop := min 0xFFFFFFFF ((s.hport (fn / 64)).dbdrop + 1) } ∧
    ∀ k, k ≠ fn / 64 → t.hport k = s.hport k) ∧
  (s.postedLanded (fn / 64) = true → off % 4 = 0 → size % 4 = 0 → 4 ≤ size → exec ring s = .next
    ((List.range (size / 4)).foldl (fun t i => t.bellWord fn (off + 4 * i) (v / 2 ^ (32 * i) % 2 ^ 32)) s).refresh) ∧
  (s.postedLanded (fn / 64) = false → exec ring s = .next ({ s with bells := [(fn, off, size, v)] } : State).refresh)

/-- An entry that was read from a submission queue is consumed (R77): SQ HEAD advances by one in its queue, and one command is added
behind all others. In a DRAINING context it ends with CONTEXT_TORN_DOWN and the cause (R71); where a submission check fails it
ends with the check's status; otherwise it waits for the engines of its class, a docent command with the places of its bank-pool
blocks (R268). In the last two cases its engine queues had room; a command whose engine queues have none is not accepted yet. Nothing
else changes but what address translation and memory reads record. An entry that cannot be read stops the queue and tears the context
down with QUEUE_ACCESS as the cause (R453); a queue that may not accept is left alone. -/
def Obligations.AcceptanceConsumesOneEntry : Prop := ∀ (s : State) (ctx q : Nat) (entry : HostReply) (env : Env),
  env.fatal = none → s.Calm → s.stalled = false →
  let u := s.environ env
  (u.mayAccept ctx q = false → exec (.commandAccept ctx q entry env) s = .next u.refresh) ∧
  ∀ r, u.mayAccept ctx q = true → r.stalled = false →
  (u.readEntry ctx q entry = (none, r) → ∃ t, exec (.commandAccept ctx q entry env) s = .next t ∧
    t = ({ u.afterTear t with queues := t.queues, hports := t.hports } : State) ∧
    t.queue (16 * ctx + q) = { u.queue (16 * ctx + q) with readFailed := true } ∧ (∀ k, k ≠ 16 * ctx + q → t.queue k = u.queue k) ∧
    t.ctx ctx = (if (u.ctx ctx).st = .opened then { u.ctx ctx with st := .draining, cause := .queueAccess } else u.ctx ctx) ∧
    ∀ k, k ≠ ctx → t.ctx k = u.ctx k) ∧
  ∀ raw, u.readEntry ctx q entry = (some raw, r) →
  let id : CmdId := ⟨ctx, q, (r.queue (16 * ctx + q)).accepted⟩
  ∃ t, exec (.commandAccept ctx q entry env) s = .next t ∧
    t = ({ u with cmds := t.cmds, queues := t.queues, ecc := t.ecc, evd := t.evd, tlb := t.tlb, dcache := t.dcache, stackTab := t.stackTab,
                  fresh := t.fresh } : State) ∧
    (((r.ctx ctx).st = .draining ∨ ∃ e, (r.check ctx raw).1 = .error e) →
      t.queue (16 * ctx + q) = { r.queue (16 * ctx + q) with
        sqHead := ((r.queue (16 * ctx + q)).sqHead + 1) % 2 ^ (r.queue (16 * ctx + q)).log2
        accepted := (r.queue (16 * ctx + q)).accepted + 1 } ∧
      t.cmds.map Cmd.core = s.cmds.map Cmd.core ++ [Cmd.core {
        id := id, raw := raw, descs := [], engines := [], stage := .finished
        ending := if (r.ctx ctx).st = .draining then some { status := .contextTornDown, detail := (r.ctx ctx).cause.code }
          else match (r.check ctx raw).1 with
            | .error e => some e
            | .ok _ => none }]) ∧
    (∀ ds, (r.ctx ctx).st ≠ .draining → (r.check ctx raw).1 = .ok ds →
      let y := (r.check ctx raw).2
      let x := if cls raw = 4 then y.placeGroups ctx (docentGroups raw ds) else (.ok [], y)
      let banks := match x.1 with
        | .ok l => l
        | .error _ => []
      let es := x.2.enginesOf ctx raw ds banks
      (x.2.roomFor es = true →
        (t.queue (16 * ctx + q)).sqHead = ((r.queue (16 * ctx + q)).sqHead + 1) % 2 ^ (r.queue (16 * ctx + q)).log2 ∧
        (t.queue (16 * ctx + q)).accepted = (r.queue (16 * ctx + q)).accepted + 1 ∧
        t.cmds.map Cmd.core = s.cmds.map Cmd.core ++ [Cmd.core {
          id := id, raw := raw, descs := ds, places := (x.2.placeBlocks ctx (docentBlocks raw ds)).1, engines := es
          spreadIgnored := spreadIgnored raw ds }]) ∧
      (x.2.roomFor es = false → t.queues = s.queues ∧ t.cmds.map Cmd.core = s.cmds.map Cmd.core))

/-- An engine that may choose starts the first startable command in its order (R364): the command has started on it, and the
context is noted as the one last served in its priority class. If none can start, it kills, for the first command that may
displace one, the command R365 names, and the context's KILLS count rises. A context's share account crossing 0 may kill in
the same way (R363, R365). Of the killed command only the stage, RERUN, its tasks and what its issued writes leave are changed; the
one it is killed for has had its kill on this engine. -/
def Obligations.EngineStartsOrKills : Prop := ∀ (s : State) (e : EngineId) (env : Env),
  env.fatal = none → s.Calm → s.stalled = false →
  let u := s.environ env
  let killed (v t : State) (c y : Cmd) : Prop :=
    t = ({ v.afterStop t with ctxs := t.ctxs } : State) ∧
    (∃ z : Cmd, (t.cmd y.id).map Cmd.core = some (Cmd.core { y with
      stage := .killing, rerun := true, writes := z.writes, unacked := z.unacked, work := z.work })) ∧
    (t.cmd c.id).map Cmd.core = (v.cmd c.id).map (fun z => Cmd.core { z with killedOn := z.killedOn ++ [e] }) ∧
    (∀ id, id ≠ y.id → id ≠ c.id → (t.cmd id).map Cmd.core = (v.cmd id).map Cmd.core) ∧
    (t.ctx y.id.ctx).kills = min 0xFFFFFFFF ((v.ctx y.id.ctx).kills + 1) ∧ ∀ k, k ≠ y.id.ctx → t.ctx k = v.ctx k
  (u.mayChoose e = true → ∀ c, leastBy (u.rank e) ((u.candidates e).filter (u.canStart e)) = some c → u.cmd c.id = some c →
    (u.startOn e c).stalled = false →
    ∃ t, exec (.engineChoose e env) s = .next t ∧ t.lastOf e (u.ctx c.id.ctx).prio = c.id.ctx ∧
      (t.cmd c.id).map (·.hasStarted) = some true ∧ (t.cmd c.id).map (·.startedOn) = some (c.startedOn ++ [e]) ∧
      (cls c.raw ≠ 5 → (t.cmd c.id).map (·.stage) = some .running) ∧
      t = ({ u.afterTear t with lastCtx := t.lastCtx, descs := t.descs } : State)) ∧
  (u.mayChoose e = true → ∀ c y, leastBy (u.rank e) ((u.candidates e).filter (u.canStart e)) = none →
    leastBy (u.rank e) ((u.candidates e).filter fun c => (u.victim e c).isSome) = some c → u.victim e c = some y →
    u.cmd y.id = some y → ∃ t, exec (.engineChoose e env) s = .next t ∧ killed u t c y) ∧
  (u.mayChoose e = false → exec (.engineChoose e env) s = .next u.refresh) ∧
  (∀ ctx c y, ctx < 256 → s.mayChoose e = true → (s.ctx ctx).share ≠ 0 →
    leastBy (s.rank e) ((s.candidates e).filter fun c => !s.canStart e c && (s.victim e c).isSome) = some c →
    s.victim e c = some y → s.cmd y.id = some y → (y.id.ctx = ctx ∨ c.id.ctx = ctx) →
    ∃ t, exec (.shareAccountCrossing e ctx) s = .next t ∧ killed s t c y)

/-- A completed kill leaves the command ready to run again from the start, or finished with the status a teardown gave it or a part
had reported (R368 to R370); writes that are held back stay issued. A wait limit that expires ends a command whose wait is unmet with
WAIT_TIMEOUT and the semaphore's value as RESULT, and stops its work (R89, R333). For any other command both events change
nothing. -/
def Obligations.KillsAndWaitsEnd : Prop := ∀ (s : State) (id : CmdId) (c : Cmd), s.Calm → s.cmd id = some c →
  let fate := c.ending.or c.partFailure
  (c.stage = .killing → ∃ t, exec (.killComplete id) s = .next t ∧ t = ({ s with cmds := t.cmds } : State) ∧
    (t.cmd id).map Cmd.core = some (Cmd.core { c with
      stage := if fate.isSome then .finished else .queued, ending := fate, startedOn := [], work := .none, effects := [], remote := []
      writes := if fate.isSome then [] else c.writes }) ∧
    ∀ k, k ≠ id → (t.cmd k).map Cmd.core = (s.cmd k).map Cmd.core) ∧
  (c.stage ≠ .killing → exec (.killComplete id) s = .next s.refresh) ∧
  (s.mayTimeOut c = true → ∃ t, exec (.waitTimeout id) s = .next t ∧ t = s.afterWork t ∧
    (t.cmd id).map (fun x => Cmd.core { x with work := .none }) = some (Cmd.core { c with
      work := .none, stage := .finished, writes := []
      ending := some { status := .waitTimeout, r0 := if present (u16 c.raw 0x14) then (s.sem (semNo (u16 c.raw 0x14))).toNat else 0 } }) ∧
    ∀ k, k ≠ id → (t.cmd k).map Cmd.core = (s.cmd k).map Cmd.core) ∧
  (s.mayTimeOut c = false → exec (.waitTimeout id) s = .next s.refresh)

/-- A command that may commit leaves the queue with one record written (R83, R85): with a completion queue in host memory its 32 bytes
go to CQ TAIL's place; in device memory they land there (R393); for a context that a Function Level Reset drains the record is
discarded and counted in FLRREC (R458). A good command without effects of its own leaves what it wrote for every reader and signals; one
that still has to merge into a poisoned granule fails instead (R491); a failing one writes no byte, and its destinations become
undefined (R86). -/
def Obligations.CommitAppliesAllAtOnce : Prop := ∀ (s : State) (ctx q : Nat) (env : Env) (c : Cmd) (e : Ending),
  env.fatal = none → s.Calm → s.stalled = false →
  let u := s.environ env
  u.oldest ctx q = some c → u.cmd c.id = some c → u.mayCommit c = true → c.ending = some e →
  let x := u.queue (16 * ctx + q)
  let lost : Mem := u.mem.unveil c.stamp true
  let failed (t : State) (z : Ending) : Prop :=
    (∀ y ∈ t.cmds, y.id ≠ c.id) ∧
    ((u.ctx ctx).flr = false → x.cqDev = false → u.recordOut c z ∈ t.out ∧
      (t.queue (16 * ctx + q)).written = x.written + 1 ∧ (t.queue (16 * ctx + q)).cqTail = (x.written + 1) % 2 ^ x.log2) ∧
    ((u.ctx ctx).flr = true → t.hport (u.ctx ctx).port =
      { u.hport (u.ctx ctx).port with flrrec := min 0xFFFFFFFF ((u.hport (u.ctx ctx).port).flrrec + 1) } ∧ t.out = u.out ∧
      (t.queue (16 * ctx + q)).written = x.written + 1)
  (e.good = true → u.poisonHit c.writes = none → c.effects = [] → c.isStep = false → (u.ctx ctx).flr = false → x.cqDev = false →
    ∃ t, exec (.commandCommit ctx q env) s = .next t ∧
      (∀ y ∈ t.cmds, y.id ≠ c.id) ∧ u.recordOut c e ∈ t.out ∧
      (t.queue (16 * ctx + q)).written = x.written + 1 ∧ (t.queue (16 * ctx + q)).cqTail = (x.written + 1) % 2 ^ x.log2 ∧
      (∀ a w, t.mem.read a w = ((u.mem.unveil c.stamp false).writeAll c.writes.reverse).read a w) ∧
      (∀ n, t.sem n = if present (u16 c.raw 0x16) ∧ n = semNo (u16 c.raw 0x16) then u.sem n + BitVec.ofNat 32 (u16 c.raw 0x1C) else u.sem n) ∧
      t = ({ u with cmds := t.cmds, out := t.out, mem := t.mem, dcache := t.dcache, ecc := t.ecc, sems := t.sems,
                    queues := t.queues, funcs := t.funcs, hports := t.hports, stackTab := t.stackTab } : State)) ∧
  (∀ g, e.good = true → u.poisonHit c.writes = some g → ∃ t, exec (.commandCommit ctx q env) s = .next t ∧
    ((u.ctx ctx).flr = false → x.cqDev = false → failed t (u.poisonEnding c g)) ∧ t.sems = u.sems) ∧
  (e.good = false →
    ∃ t, exec (.commandCommit ctx q env) s = .next t ∧ failed t e ∧ t.sems = u.sems ∧
      (¬ (cls c.raw = 5 ∧ opc c.raw = 1) → t.handles = u.handles ∧ t.ledger = u.ledger ∧ t.couriers = u.couriers) ∧
      ((u.ctx ctx).flr = true ∨ x.cqDev = false → t.mem = lost ∧
        t = ({ u with cmds := t.cmds, out := t.out, mem := t.mem, queues := t.queues, funcs := t.funcs, hports := t.hports,
                      handles := t.handles, ledger := t.ledger, couriers := t.couriers } : State)) ∧
      (∀ pa v, (u.ctx ctx).flr = false → x.cqDev = true → ¬ (cls c.raw = 5 ∧ opc c.raw = 1) →
        ({ u with mem := lost } : State).resolve ctx (u.recordVa c.id) true { bank := none, remote := false } = (.ok pa, v) →
        t.mem.now = (lost.writeAll (spread pa (recordBytes c e (2 ^ x.log2)))).now ∧ (t.queue (16 * ctx + q)).written = x.written + 1))

/-- The control commands of class 0x07 whose turn to commit has come, started on their engine, have their one effect and write their
record: SEM_WRITE sets its semaphore, ALLOC_SET its allocation record, DESC_CREATE installs a descriptor whose image passes the
checks and ends with DESCRIPTOR_INVALID where one fails, DESC_CLEAR makes a slot invalid, CACHE_INVALIDATE discards the die-cache lines
of its extent (R91, R204, R206, R207, R391). No other semaphore (but that of SIGNAL_ADD), record, slot or line changes.
A control command whose turn has not come waits finished, with its effect held back (R83, R85). REMOTE_SIGNAL sends one SIGNAL_REQ to
a reachable module once every earlier command of its queue has ended and waits for its acknowledgement, with which it commits
(R396, R397); it ends with REMOTE_UNREACHABLE for an unreachable one (R425). -/
def Obligations.ControlCommandsActInTheirTurn : Prop := (∀ (s : State) (id : CmdId) (c : Cmd), s.Calm → s.commitsNow c →
  (s.running id 7 2 = some c → ∃ t, exec (.semWrite id) s = .next t ∧ Committed s t c okEnd ∧
    (∀ n, t.sem n = (if n = semNo (u16 c.raw 0x20) then w32 c.raw 0x24 else s.sem n) + signalAdd c n) ∧
    t = s.afterCommit t) ∧
  (s.running id 7 3 = some c → ∃ t, exec (.allocSet id) s = .next t ∧ Committed s t c okEnd ∧
    (∀ n, t.alloc n = if n = 1024 * id.ctx + u16 c.raw 0x20 then allocOf c.raw else s.alloc n) ∧
    t = { s.afterCommit t with allocs := t.allocs } ∧ ∀ n, t.sem n = s.sem n + signalAdd c n) ∧
  (∀ env b u, env.fatal = none → env.sram = none → s.stalled = false → s.running id 7 1 = some c →
    (s.environ env).readBytes (c.eng none) (u64 c.raw 0x28) 64 { bank := none, remote := false } = (.ok b, u) → u.stalled = false →
    (u.imageFail id.ctx b.1 = none → ∃ t, exec (.descCreate id env) s = .next t ∧ Committed u t c (createEnding (imageDesc b.1)) ∧
      (∀ n, t.desc n = if n = 4096 * id.ctx + u16 c.raw 0x20 then some (imageDesc b.1) else s.desc n) ∧
      t = { u.afterCommit t with descs := t.descs } ∧ ∀ n, t.sem n = s.sem n + signalAdd c n) ∧
    ∀ reason off, u.imageFail id.ctx b.1 = some (reason, off) → ∃ t, exec (.descCreate id env) s = .next t ∧
      Recorded u t c { status := .descriptorInvalid, detail := off, r0 := reason } ∧ t.descs = s.descs ∧ t.sems = s.sems) ∧
  (s.running id 7 4 = some c → ∃ t, exec (.descClear id) s = .next t ∧ Committed s t c okEnd ∧
    (∀ n, t.desc n = if n = 4096 * id.ctx + u16 c.raw 0x20 then none else s.desc n) ∧
    t = { s.afterCommit t with descs := t.descs } ∧ ∀ n, t.sem n = s.sem n + signalAdd c n) ∧
  (s.running id 7 6 = some c → ∃ t, exec (.cacheInvalidate id) s = .next t ∧ Committed s t c okEnd ∧
    (∀ d l r, d ∈ invalidDies c.raw → l < 2 ^ 36 → r ∈ (s.extentRanges id.ctx (c.descD 0x0A)).1 → l * 128 < r.hi → r.lo < l * 128 + 128 →
      t.line (lineKey d l) = none) ∧
    (∀ d l, l < 2 ^ 36 → (d ∉ invalidDies c.raw ∨
      ∀ r ∈ (s.extentRanges id.ctx (c.descD 0x0A)).1, ¬ (l * 128 < r.hi ∧ r.lo < l * 128 + 128)) → t.line (lineKey d l) = s.line (lineKey d l)) ∧
    t = { s.afterCommit t with dcache := t.dcache, tlb := t.tlb, evd := t.evd } ∧ ∀ n, t.sem n = s.sem n + signalAdd c n) ∧
  (s.running id 7 7 = some c → c.acked = true → ∃ t, exec (.remoteSignal id) s = .next t ∧ Committed s t c okEnd ∧
    t = s.afterCommit t ∧ ∀ n, t.sem n = s.sem n + signalAdd c n)) ∧
  (∀ (s : State) (id : CmdId) (c : Cmd), s.Calm →
  (s.earlierDone id = false → s.running id 7 2 = some c → ∃ t, exec (.semWrite id) s = .next t ∧
    t = ({ s with cmds := t.cmds } : State) ∧
    (t.cmd id).map Cmd.core = some (Cmd.core { c with
      stage := .finished, ending := some okEnd, effects := [.semSet (semNo (u16 c.raw 0x20)) (w32 c.raw 0x24)] }) ∧
    ∀ k, k ≠ id → (t.cmd k).map Cmd.core = (s.cmd k).map Cmd.core) ∧
  (s.running id 7 7 = some c → c.acked = false → (s.earlierDone id = false ∨ c.unacked ≠ 0) →
    exec (.remoteSignal id) s = .next s.refresh) ∧
  (s.running id 7 7 = some c → c.acked = false → c.unacked = 0 → s.earlierDone id = true →
    let m := u8 c.raw 0x20
    ((s.peer m).reachable = true → ∃ t, exec (.remoteSignal id) s = .next t ∧
      t.reqs = s.reqs ++ [⟨8192 * s.routeDie m + s.nextTag % 8192, m, .signal, id, 0⟩] ∧
      t.nextTag = s.nextTag + 1 ∧ (t.cmd id).map Cmd.core = some (Cmd.core { c with unacked := 1 }) ∧
      (∀ k, k ≠ id → (t.cmd k).map Cmd.core = (s.cmd k).map Cmd.core) ∧
      t = ({ s with cmds := t.cmds, reqs := t.reqs, nextTag := t.nextTag, out := t.out, groups := t.groups, couriers := t.couriers } : State)) ∧
    ((s.peer m).reachable = false → ∃ t, exec (.remoteSignal id) s = .next t ∧
      (s.commitsNow c → Recorded s t c (Fail.unreach m).ending) ∧
      (s.recordReady id = false → (t.cmd id).map (·.ending) = some (some (Fail.unreach m).ending)) ∧ t.sems = s.sems ∧
      (∀ r ∈ s.reqs, r.cmd ≠ id → r ∈ t.reqs) ∧ ∀ r ∈ t.reqs, r ∈ s.reqs)))

/-- RUN_GRID places its items once its target engine runs it (R93, R227): all of the grid, or those whose bit of the block mask is 1,
in order of linear number; the others count in MITEMS and as masked. With no item left the command is done. -/
def Obligations.RunGridPlacesItsItems : Prop := ∀ (s : State) (id : CmdId) (env : Env) (c : Cmd) (g : Grid),
  env.fatal = none → env.sram = none → s.Calm → s.stalled = false → s.unplaced id = some (c, g) →
  let n := gridCount c.raw
  let places (u t : State) (items : List Nat) : Prop :=
    t = ({ u with cmds := t.cmds, dies := t.dies } : State) ∧
    (t.die (targetDie c.raw)) = { u.die (targetDie c.raw) with mitems := sat64 ((u.die (targetDie c.raw)).mitems + (n - items.length)) } ∧
    (∀ k, k ≠ targetDie c.raw → t.die k = u.die k) ∧ (∀ k, k ≠ id → (t.cmd k).map Cmd.core = (u.cmd k).map Cmd.core) ∧
    (t.cmd id).map (·.work) = some (.grid { g with placed := true, items := items, pool := items, masked := n - items.length }) ∧
    (t.cmd id).map (fun x => (x.stage, x.ending)) =
      some (if items = [] then (.finished, some { status := .ok, r3 := min (n - items.length) 0xFFFFFFFF }) else (.running, none))
  (bit (flags c.raw) 4 = false → ∃ t, exec (.runGrid id env) s = .next t ∧ places (s.environ env) t (List.range n)) ∧
  (∀ es v, bit (flags c.raw) 4 = true →
    (s.environ env).readElems (c.eng none) (c.descD 0x10) ((List.range (ceilDiv n 8)).map fun i => [i]) = (.ok (es, []), v) →
    v.stalled = false → ∃ t, exec (.runGrid id env) s = .next t ∧
      places v t ((List.range n).filter fun i => bit (es.getD (i / 8) 0) (i % 8)))

/-- An idle tessera takes an item by R95: the front of its own deque; else the first of up to 16 from the pool on the target die,
the rest into its deque; else, unpinned, the back of the longest deque of its die; else, spread, up to 16 from the pool of
another die, counted as remote. Where its last item had another context, or it has halted or been killed since, it clears itself
before it goes on (R129 step 1). It then runs with the item's coordinates in S and A registers, both streams at word 0; the program
is loaded unless it holds this start's, and one whose header breaks a rule of R134 halts it with reason 0x02. -/
def Obligations.TesseraClaimsAnItem : Prop :=
  (∀ (g : Grid) (die t n target : Nat) (pinned spread : Bool) (i : Nat) (r : List Nat), g.deque (tessKey die t) = i :: r →
    (g.obtain die t n target pinned spread).1 = some i ∧ (g.obtain die t n target pinned spread).2 = g.setDeque (tessKey die t) r) ∧
  (∀ (g : Grid) (die t n : Nat) (pinned spread : Bool) (i : Nat) (r : List Nat), g.deque (tessKey die t) = [] → g.pool = i :: r →
    (g.obtain die t n die pinned spread).1 = some i ∧ (g.obtain die t n die pinned spread).2.pool = r.drop 15 ∧
    (g.obtain die t n die pinned spread).2.deque (tessKey die t) = r.take 15 ∧ (g.obtain die t n die pinned spread).2.stolen = g.stolen) ∧
  (∀ (g : Grid) (die t n target v : Nat) (spread : Bool), g.deque (tessKey die t) = [] → (die = target → g.pool = []) →
    v < n → v ≠ t → n ≤ 128 → g.deque (tessKey die v) ≠ [] →
    (∀ u, u < n → u ≠ t → (g.deque (tessKey die u)).length ≤ (g.deque (tessKey die v)).length ∧
      (u < v → (g.deque (tessKey die u)).length < (g.deque (tessKey die v)).length)) →
    (g.obtain die t n target false spread).1 = (g.deque (tessKey die v)).getLast? ∧
    (g.obtain die t n target false spread).2.stolen = g.stolen + 1 ∧
    (g.obtain die t n target false spread).2.deque (tessKey die v) = (g.deque (tessKey die v)).dropLast) ∧
  (∀ (s : State) (die tess : Nat) (env : Env), env.fatal = none → s.Calm → s.stalled = false → die < 8 → tess < s.tessPerCd →
    let k := tessKey die tess
    let e := s.environ env
    let x := s.tessera k
    let claim := exec (.itemClaim die tess env) s
    -- From the state u, in which the tessera holds item i of a start of command c, it goes on to Load and Run.
    let begins (u : State) (c : Cmd) (start i : Nat) : Prop :=
      let y := u.tessera k
      let eng := (c.eng (some die)).by (tessSeer k)
      let runs (v : State) (xi ai : List (Nat × W128)) (qd : Nat) : Prop := ∃ t, claim = .next t ∧
        t = ({ v with tess := t.tess, cmds := t.cmds } : State) ∧ sameCmds u t ∧ (∀ j, j ≠ k → t.tessera j = s.tessera j) ∧
        (t.tessera k).st = .running ∧ (t.tessera k).item = y.item ∧ (t.tessera k).context = y.context ∧
        (t.tessera k).loadedFor = some (c.id, start) ∧ (t.tessera k).mustClear = false ∧
        (t.tessera k).xpc = 0 ∧ (t.tessera k).apc = 0 ∧ (t.tessera k).xEnded = false ∧ (t.tessera k).aEnded = false ∧
        (∀ j, j < 32 → (t.tessera k).sr j = BitVec.ofNat 32 ([(gridCoords c.raw i).1, (gridCoords c.raw i).2.1, (gridCoords c.raw i).2.2, i,
          u32 c.raw 0x30, u32 c.raw 0x34, u32 c.raw 0x38, u32 c.raw 0x3C, tess, die, s.tessPerCd].getD j 0)) ∧
        (t.tessera k).areg = (t.tessera k).sreg ∧ (t.tessera k).ximem = xi ∧ (t.tessera k).aimem = ai ∧ (t.tessera k).qdir = qd ∧
        (t.tessera k).spad = y.spad ∧ (t.tessera k).acc = y.acc ∧ (t.tessera k).v = [] ∧ (t.tessera k).queues = []
      (y.loadedFor = some (c.id, start) → runs u y.ximem y.aimem y.qdir) ∧
      ∀ h u1, y.loadedFor ≠ some (c.id, start) →
        u.readBytes eng (u64 c.raw 0x20) 256 { bank := none, remote := false } = (.ok (h, []), u1) →
        (∀ code u2, headerGood h = true →
          u1.readBytes eng (u64 c.raw 0x20 + 256) (u32 h 8 + u32 h 12) { bank := none, remote := false } = (.ok (code, []), u2) →
          u2.stalled = false → runs u2 (imem (codeOf (code.take (u32 h 8)))) (imem (codeOf (code.drop (u32 h 8)))) (u8 h 5)) ∧
        (headerGood h = false → u1.stalled = false → ∃ t, claim = .next t ∧ (t.tessera k).st = .halted ∧ (t.halt k).reason = 0x02 ∧
          (t.halt k).stream = true ∧ (t.halt k).pc = 0 ∧ (t.halt k).word = BitVec.ofNat 128 (ofLe (h.take 16)))
    (∀ (c : Cmd) (g g1 : Grid) (i : Nat), x.st = .idle → tessDomain die tess ∉ s.offDom →
      s.claimFor die tess = some (c, g) → s.cmd c.id = some c → c.work = .grid g →
      g.obtain die tess s.tessPerCd (targetDie c.raw) (pinned c.raw) (spreadEffective c.raw c.descs) = (some i, g1) →
      let g2 : Grid := { g1 with running := insertNat g1.running k, ran := insertNat g1.ran k }
      (x.mustClear = true ∨ x.lastCtx ≠ some c.id.ctx → ∃ t, claim = .next t ∧ t = ({ e with tess := t.tess, cmds := t.cmds } : State) ∧
        t.tessera k = { x with st := .clearing, context := c.id.ctx, item := some ⟨c.id, g1.start, i⟩ } ∧
        (∀ j, j ≠ k → t.tessera j = s.tessera j) ∧ (t.cmd c.id).map (·.work) = some (.grid g2)) ∧
      (x.mustClear = false → x.lastCtx = some c.id.ctx → ∃ u, u = ({ e with tess := u.tess, cmds := u.cmds } : State) ∧
        u.tessera k = { x with st := .running, context := c.id.ctx, item := some ⟨c.id, g1.start, i⟩ } ∧
        (∀ j, j ≠ k → u.tessera j = s.tessera j) ∧ (u.cmd c.id).map (·.work) = some (.grid g2) ∧ begins u c g1.start i)) ∧
    (∀ (c : Cmd) (g : Grid) (it : ItemRef), x.st = .clearing → x.item = some it → e.itemCmd die tess = some c → c.work = .grid g →
      ∃ u, u = ({ e with tess := u.tess } : State) ∧ (∀ j, j ≠ k → u.tessera j = s.tessera j) ∧
        u.tessera k = { x.cleared with item := some it, st := .running } ∧ begins u c g.start it.linear) ∧
    (x.st = .clearing → x.item = none → ∃ t, claim = .next t ∧ t = ({ e with tess := t.tess, cmds := t.cmds } : State) ∧ sameCmds s t ∧
      t.tessera k = { x.cleared with item := none, st := .idle } ∧ ∀ j, j ≠ k → t.tessera j = s.tessera j))

/-- An item whose streams have both ended, with its queues empty, its transfers done and its remote writes acknowledged, finishes
(R129, R94): its tessera is idle and owned by its context; the grid counts it. With the last item the command ends with the counts of
R93, unless the scale guard's limit was exceeded in the first run, which starts the second (R191) and discards the sources again
(R390); after that one, clipped elements fail it (R194). -/
def Obligations.ItemFinishesAndGridEnds : Prop := ∀ (s : State) (die tess : Nat) (c : Cmd) (m : Sim) (g : Grid), s.Calm →
  s.sim die tess = some (c, m) → s.cmd c.id = some c → c.work = .grid g → c.ending = none →
  m.t.xEnded = true → m.t.aEnded = true → m.t.queues = [] → m.unacked = false →
  let n := m.till Sim.quiet simFuel
  n.bad = none → n.t.xfers = [] →
  let k := tessKey die tess
  let g' : Grid := { g with guard := n.g, running := g.running.filter (· != k), itemsRun := g.itemsRun + 1 }
  ∃ t, exec (.itemFinish die tess) s = .next t ∧
    t = ({ s with tess := t.tess, dies := t.dies, cmds := t.cmds, dcache := t.dcache, tlb := t.tlb, ecc := t.ecc, evd := t.evd, fresh := t.fresh } : State) ∧
    (g.run = 1 ∨ g'.isOver = false → t.fresh = s.fresh) ∧
    t.tessera k = { n.t with st := .idle, item := none, lastCtx := some c.id.ctx } ∧ (∀ j, j ≠ k → t.tessera j = s.tessera j) ∧
    t.die die = n.d ∧ (∀ j, j ≠ die → t.die j = s.die j) ∧ (∀ j, j ≠ c.id → (t.cmd j).map Cmd.core = (s.cmd j).map Cmd.core) ∧
    (g'.isOver = false ∨ g.run ≠ 1 ∨ g'.guard.exceeds = false ∨ invalidates c.raw = false →
      t.dcache = s.dcache ∧ t.tlb = s.tlb ∧ t.ecc = s.ecc ∧ t.evd = s.evd) ∧
    (g'.isOver = false → (t.cmd c.id).map Cmd.core = some (Cmd.core { c with work := .grid g' })) ∧
    (g'.isOver = true → g.run = 1 → g'.guard.exceeds = false → (t.cmd c.id).map Cmd.core = some (Cmd.core { c with
      work := .grid g', stage := .finished
      ending := some { status := .ok, detail := g.ran.length, r0 := min (g.itemsRun + 1) 0xFFFFFFFF, r1 := min g.stolen 0xFFFFFFFF,
                       r2 := min g.remote 0xFFFFFFFF, r3 := min g.masked 0xFFFFFFFF } })) ∧
    (g'.isOver = true → g.run = 1 → g'.guard.exceeds = true → (t.cmd c.id).map Cmd.core = some (Cmd.core { c with
      work := .grid { g' with run := 2, factor := some n.g.newFactor, guard1 := n.g, guard := {}, pool := g.items, itemsRun := 0,
                              stolen := 0, remote := 0, ran := [] } })) ∧
    (g'.isOver = true → g.run ≠ 1 → 0 < n.g.c → (t.cmd c.id).map Cmd.core = some (Cmd.core { c with
      work := .grid g', stage := .finished, writes := []
      ending := some { status := .scaleGuardFailed, detail := min n.g.c 0xFFFFFFFF } })) ∧
    (g'.isOver = true → g.run ≠ 1 → n.g.c = 0 → let f := g.factor.getD Fp.zero
      ∃ r, (t.cmd c.id).map (·.ending) = some (some { status := .okScaleRerun, detail := (toF32 f).toNat, r0 := (q31Pair f).1, r1 := r,
                                                       r2 := min g.guard1.c 0xFFFFFFFF, r3 := min g.guard1.t 0xFFFFFFFF }) ∧
        (0 ≤ (q31Pair f).2 → (q31Pair f).2 ≤ 63 → r = (q31Pair f).2.toNat))

/-- The instructions NOP, END, BR, SALU, SMUL (X-stream) and AALU (A-stream), with NOP, END and BR of both (R141, R142): the result
register's new value, the cycle from which it may be read, and where the stream goes on. A taken BR's target may issue two cycles
later (in the A-stream, as AALU's latency, by log entry 96). Nothing else of the block changes. -/
def Obligations.ScalarInstructionsHaveTheirResult : Prop := ∀ (s : State) (die tess : Nat) (c : Cmd) (m : Sim), s.Calm →
  let t := m.t
  let xNext (y : Tess) : Tess := y.xRetired (t.xpc + 1) (t.cycle + 1)
  let aNext (y : Tess) : Tess := y.aRetired (t.apc + 1) (t.cycle + 1)
  let scalar (f : Nat) (a b : W32) : W32 :=
    if f = 0x0 then a + b else if f = 0x1 then a - b else if f = 0x2 then a &&& b else if f = 0x3 then a ||| b
    else if f = 0x4 then a ^^^ b else if f = 0x5 then a <<< (b.toNat % 32) else if f = 0x6 then a >>> (b.toNat % 32)
    else if f = 0x7 then BitVec.ofInt 32 (a.toInt / 2 ^ (b.toNat % 32)) else if f = 0x8 then b
    else if f = 0x9 then (if a.toInt < b.toInt then 1 else 0) else if f = 0xA then (if a.toNat < b.toNat then 1 else 0) else a * b
  let mul (f : Nat) (a b : W32) : W32 :=
    if f = 0 then a * b else if f = 1 then BitVec.ofInt 32 (a.toInt * b.toInt / 2 ^ 32) else BitVec.ofNat 32 (a.toNat * b.toNat / 2 ^ 32)
  let cond (f : Nat) (a b : W32) : Prop :=
    f = 0 ∨ (f = 1 ∧ a = b) ∨ (f = 2 ∧ a ≠ b) ∨ (f = 3 ∧ a.toInt < b.toInt) ∨ (f = 4 ∧ b.toInt ≤ a.toInt) ∨ (f = 5 ∧ a.toNat < b.toNat) ∨
    (f = 6 ∧ b.toNat ≤ a.toNat)
  let w := m.xWord
  let v := m.aWord
  let xb := if flagAt w 23 then BitVec.ofNat 32 (field w 95 64) else t.sr (field w 22 18)
  let ab := if flagAt v 23 then BitVec.ofNat 32 (field v 95 64) else t.ar (field v 22 18)
  (s.xIssues die tess 0x01 c m → ∃ r, exec (.nop die tess true) s = .next r ∧ ItemStep s r die tess c { m with t := xNext t }) ∧
  (s.aIssues die tess 0x01 c m → ∃ r, exec (.nop die tess false) s = .next r ∧ ItemStep s r die tess c { m with t := aNext t }) ∧
  (s.xIssues die tess 0x02 c m → ∃ r, exec (.endI die tess true) s = .next r ∧
    ItemStep s r die tess c { m with t := xNext { t with xEnded := true } }) ∧
  (s.aIssues die tess 0x02 c m → ∃ r, exec (.endI die tess false) s = .next r ∧
    ItemStep s r die tess c { m with t := aNext { t with aEnded := true } }) ∧
  (s.xIssues die tess 0x04 c m → ∃ r, exec (.br die tess true) s = .next r ∧
    let a := t.sr (field w 12 8)
    let b := if flagAt w 21 then BitVec.ofNat 32 (field w 95 64) else t.sr (field w 17 13)
    (cond (field w 20 18) a b → ItemStep s r die tess c { m with t := t.xRetired (field w 33 22) (t.cycle + 2) }) ∧
    (field w 20 18 ≤ 6 → ¬ cond (field w 20 18) a b → ItemStep s r die tess c { m with t := xNext t })) ∧
  (s.aIssues die tess 0x04 c m → ∃ r, exec (.br die tess false) s = .next r ∧
    let a := t.ar (field v 12 8)
    let b := if flagAt v 21 then BitVec.ofNat 32 (field v 95 64) else t.ar (field v 17 13)
    (cond (field v 20 18) a b → ItemStep s r die tess c { m with t := t.aRetired (field v 33 22) (t.cycle + 2) }) ∧
    (field v 20 18 ≤ 6 → ¬ cond (field v 20 18) a b → ItemStep s r die tess c { m with t := aNext t })) ∧
  (s.xIssues die tess 0x10 c m → ∃ r, exec (.salu die tess) s = .next r ∧ ItemStep s r die tess c { m with
    t := xNext ((t.setS (field w 12 8) (scalar (field w 27 24) (t.sr (field w 17 13)) xb)).readable (32 + field w 12 8) (t.cycle + 1)) }) ∧
  (s.xIssues die tess 0x11 c m → ∃ r, exec (.smul die tess) s = .next r ∧ ItemStep s r die tess c { m with
    t := xNext ((t.setS (field w 12 8) (mul (field w 27 24) (t.sr (field w 17 13)) xb)).readable (32 + field w 12 8) (t.cycle + 3)) }) ∧
  (s.aIssues die tess 0x10 c m → ∃ r, exec (.aalu die tess) s = .next r ∧ ItemStep s r die tess c { m with
    t := aNext { t.setA (field v 12 8) (scalar (field v 27 24) (t.ar (field v 17 13)) ab) with
      aReady := Assoc.set 0 t.aReady (field v 12 8) (t.cycle + 1) } })

/-- A stream halts its tessera: by TRAP (R141), by a queue wait of 2^20 cycles in which the queue could not be served (R128), and by
the budget of the die once it has retired as many instructions (R166, R167). The other stream waits no longer here and, for the
watchdog, issues nothing in the meantime. Where both streams meet a condition in one cycle, the X-stream's is recorded, with SECOND
(R163). -/
def Obligations.StreamsHaltByTrapWatchdogAndBudget : Prop := ∀ (s : State) (die tess : Nat) (c : Cmd) (m0 m : Sim) (pc : Nat),
  s.Calm → s.sim die tess = some (c, m0) →
  let second (r : State) := (r.halt (tessKey die tess)).second
  (s.hitOf die tess = none → m0.xTurn 0x03 = .halt 0x41 pc m → ∃ r, exec (.trap die tess true) s = .next r ∧
    Halts s r die tess c m true 0x41 pc ∧ second r = (m.aHaltNow c).isSome) ∧
  (s.hitOf die tess = none → m0.aTurn c 0x03 = .halt 0x41 m → m.xHaltNow = none →
    ∃ r, exec (.trap die tess false) s = .next r ∧ Halts s r die tess c m false 0x41 m.t.apc ∧ second r = false) ∧
  (∀ k, m0.xWaits.map (fun y => m0.t.xWait.getD y) = some k → (∀ o, m0.aWaits c = some o → k ≤ o) →
    m0.t.aEnded = false → m0.aStill c (k + 2 ^ 20) = true → m = m0.upTo simFuel (k + 2 ^ 20) → m.bad = none →
    m.t.queueServes m.xWord = none →
    ∃ r, exec (.queueWaitWatchdog die tess true) s = .next r ∧ Halts s r die tess c m true 0x20 m.t.xpc ∧
      second r = (m.aHaltNow c).isSome) ∧
  (∀ k, m0.aWaits c = some k → (∀ o, m0.xWaits.map (fun y => m0.t.xWait.getD y) = some o → k ≤ o) → m0.t.xEnded = false →
    m0.aMay (k + 2 ^ 20) = true → m = m0.upTo simFuel (k + 2 ^ 20) → m.bad = none → m.t.queueServes m.aWord = none →
    (m.xHaltNow = none → ∃ r, exec (.queueWaitWatchdog die tess false) s = .next r ∧ Halts s r die tess c m false 0x20 m.t.apc ∧
      second r = false) ∧
    ∀ h, m.xHaltNow = some h → h.2.2 = m.t.word true h.2.1 → ∃ r, exec (.queueWaitWatchdog die tess false) s = .next r ∧
      Halts s r die tess c m true h.1 h.2.1 ∧ second r = true) ∧
  (∀ b, m0.t.xEnded = false → m = m0.upTo simFuel (max m0.t.xNext m0.t.cycle) → m.bad = none → m.t.xBudget = some b → b ≤ m.t.xRet →
    ∃ r, exec (.instructionBudget die tess true) s = .next r ∧ Halts s r die tess c m true 0x40 m.t.xpc) ∧
  (∀ b, m0.t.aEnded = false → m0.aMay (max m0.t.aNext m0.t.cycle) = true → m = m0.upTo simFuel (max m0.t.aNext m0.t.cycle) →
    m.bad = none → m.xHaltNow = none → m.t.aBudget = some b → b ≤ m.t.aRet →
    ∃ r, exec (.instructionBudget die tess false) s = .next r ∧ Halts s r die tess c m false 0x40 m.t.apc)

/-- PUSH appends an entry to its queue and POP takes the oldest one (R125 to R127, R147): a token moves a register, readable two
cycles later; an entry moves four scratchpad segments, by a job of the load/store unit for the X-stream and by an access at the A port
for the A-stream. A pushed entry waits for the scratchpad writes of its stream that are not done. -/
def Obligations.QueueInstructionsMoveEntries : Prop := ∀ (s : State) (die tess : Nat) (c : Cmd) (m : Sim), s.Calm →
  let t := m.t
  let xNext (y : Tess) : Tess := y.xRetired (t.xpc + 1) (t.cycle + 1)
  let aNext (y : Tess) : Tess := y.aRetired (t.apc + 1) (t.cycle + 1)
  let w := m.xWord
  let v := m.aWord
  let q := field w 15 13
  let p := field v 15 13
  let segs (z : W128) : List Nat := (List.range 4).map fun (i : Nat) => ((((field z 47 28 : Nat) : Int) + i * sfield z 67 48) / 64).toNat
  let zeros : List Byte := List.replicate 252 0
  let work (k : JobKind) (id : Nat) (rd : List (Nat × Nat)) (wr : List (Nat × Nat × List Byte)) : Job :=
    { id := id, kind := k, start := t.cycle + 1, issue := t.cycle, reads := rd, writes := wr }
  let job (y : Tess) (k : JobKind) (rd : List (Nat × Nat)) (wr : List (Nat × Nat × List Byte)) : Tess :=
    { y with lsu := some (work k y.nextId rd wr), nextId := y.nextId + 1 }
  let access (y : Tess) (k : JobKind) (rd : List (Nat × Nat)) (wr : List (Nat × Nat × List Byte)) : Tess :=
    { y with aJobs := y.aJobs ++ [work k y.nextId rd wr], nextId := y.nextId + 1 }
  let reads (z : W128) : List (Nat × Nat) := (segs z).zipIdx.map fun x => (x.2, x.1)
  let writes (z : W128) (e : QEntry) : List (Nat × Nat × List Byte) := ((segs z).zip (chunks 64 e.bytes)).map fun x => (t.cycle + 1, x.1, x.2)
  (s.xIssues die tess 0x08 c m → ∃ r, exec (.push die tess true) s = .next r ∧
    (flagAt w 16 = true → ItemStep s r die tess c { m with
      t := xNext (t.setQueue q (t.queueOf q ++ [⟨leBytes (t.sr (field w 12 8)).toNat 4 ++ zeros, t.xWriters, t.cycle⟩])) }) ∧
    (flagAt w 16 = false → ItemStep s r die tess c { m with
      t := xNext (job (t.setQueue q (t.queueOf q ++ [⟨[], t.xWriters ++ [t.nextId], t.cycle⟩])) (.pushX q) (reads w) []) })) ∧
  (s.aIssues die tess 0x08 c m → ∃ r, exec (.push die tess false) s = .next r ∧
    (flagAt v 16 = true → ItemStep s r die tess c { m with
      t := aNext (t.setQueue p (t.queueOf p ++ [⟨leBytes (t.ar (field v 12 8)).toNat 4 ++ zeros, t.aWriters, t.cycle⟩])) }) ∧
    (flagAt v 16 = false → ItemStep s r die tess c { m with
      t := aNext (access (t.setQueue p (t.queueOf p ++ [⟨[], t.aWriters ++ [t.nextId], t.cycle⟩])) (.pushA p) (reads v) []) })) ∧
  (∀ e rest, s.xIssues die tess 0x09 c m → t.queueOf q = e :: rest → ∃ r, exec (.pop die tess true) s = .next r ∧
    (flagAt w 16 = true → ItemStep s r die tess c { m with
      t := xNext (((t.setQueue q rest).setS (field w 12 8) (BitVec.ofNat 32 (ofLe (e.bytes.take 4)))).readable (32 + field w 12 8) (t.cycle + 2)) }) ∧
    (flagAt w 16 = false → ItemStep s r die tess c { m with t := xNext (job (t.setQueue q rest) .popX [] (writes w e)) })) ∧
  (∀ e rest, s.aIssues die tess 0x09 c m → t.queueOf p = e :: rest → ∃ r, exec (.pop die tess false) s = .next r ∧
    (flagAt v 16 = true → ItemStep s r die tess c { m with
      t := aNext { (t.setQueue p rest).setA (field v 12 8) (BitVec.ofNat 32 (ofLe (e.bytes.take 4))) with
        aReady := Assoc.set 0 t.aReady (field v 12 8) (t.cycle + 2) } }) ∧
    (flagAt v 16 = false → ItemStep s r die tess c { m with t := aNext (access (t.setQueue p rest) .popA [] (writes v e)) }))

/-- The integer instructions of the vector unit, lane by lane over 256 lanes (R143, R146): VINT by FUNC, VCMP's integer compares as
masks, VSEL bit by bit, VSPLAT of an S register, VEXT of one lane. The result may be read two cycles later. -/
def Obligations.VectorIntegerLanes : Prop := ∀ (s : State) (die tess : Nat) (c : Cmd) (m : Sim), s.Calm →
  let t := m.t
  let w := m.xWord
  let d := field w 12 8
  let f := field w 31 28
  let va := t.vr (field w 17 13)
  let vb := t.vr (field w 22 18)
  let ve := t.vr (field w 27 23)
  let gives (r : State) (x : List W32) : Prop := ItemStep s r die tess c { m with
    t := ((t.setV d x).readable d (t.cycle + 2)).xRetired (t.xpc + 1) (t.cycle + 1) }
  let mask (p : Bool) : W32 := if p then 0xFFFFFFFF else 0
  (s.xIssues die tess 0x20 c m → ∃ r, exec (.vint die tess) s = .next r ∧ gives r (List.zipWith (fun a b =>
    if f = 0 then a + b else if f = 1 then a - b else if f = 2 then a &&& b else if f = 3 then a ||| b else if f = 4 then a ^^^ b
    else if f = 5 then a <<< (b.toNat % 32) else if f = 6 then a >>> (b.toNat % 32) else if f = 7 then a.sshiftRight (b.toNat % 32)
    else if f = 8 then (if b.toInt < a.toInt then b else a) else if f = 9 then (if a.toInt < b.toInt then b else a)
    else if f = 0xA then (if b.toNat < a.toNat then b else a) else (if a.toNat < b.toNat then b else a)) va vb)) ∧
  (s.xIssues die tess 0x21 c m → 4 ≤ f → flagAt w 32 = false → ∃ r, exec (.vcmp die tess) s = .next r ∧
    gives r (List.zipWith (fun a b => mask (if f = 4 then a == b else if f = 5 then decide (a.toInt < b.toInt)
      else if f = 6 then decide (a.toInt ≤ b.toInt) else if f = 7 then decide (a.toNat < b.toNat) else decide (a.toNat ≤ b.toNat))) va vb)) ∧
  (s.xIssues die tess 0x21 c m → f < 4 → ∃ r, exec (.vcmp die tess) s = .next r ∧
    let holds (x y : Fp) : Bool := if f = 0 then x.eqv y else if f = 1 then x.lt y else if f = 2 then x.le y else x.isNan || y.isNan
    let half (x y : Nat) : Nat := if holds (Fmt.bf16.decode x) (Fmt.bf16.decode y) then 0xFFFF else 0
    (flagAt w 32 = false → gives r (List.zipWith (fun a b => mask (holds (ofF32 a) (ofF32 b))) va vb)) ∧
    (flagAt w 32 = true → gives r (List.zipWith (fun a b => BitVec.ofNat 32
      (half (a.toNat % 65536) (b.toNat % 65536) + 65536 * half (a.toNat / 65536) (b.toNat / 65536))) va vb))) ∧
  (s.xIssues die tess 0x22 c m → ∃ r, exec (.vsel die tess) s = .next r ∧
    gives r (List.zipWith (fun x e => (e &&& x.1) ||| (~~~e &&& x.2)) (va.zip vb) ve)) ∧
  (s.xIssues die tess 0x29 c m → ∃ r, exec (.vsplat die tess) s = .next r ∧ gives r (List.replicate 256 (t.sr (field w 56 52)))) ∧
  (s.xIssues die tess 0x2A c m → ∃ r, exec (.vext die tess) s = .next r ∧ ItemStep s r die tess c { m with
    t := ((t.setS (field w 56 52) (va.getD (field w 64 57) 0)).readable (32 + field w 56 52) (t.cycle + 2)).xRetired
      (t.xpc + 1) (t.cycle + 1) })

/-- The floating instructions of the vector unit: VFP rounds once from the exact result of each FP32 lane, or of both BF16 halves of
a lane (R143); VCVT replaces one part of each lane (R145); VRED leaves the tree's value in lane 0 and zeros elsewhere (R144);
VSFU applies its function to each lane (R111); TOPK leaves the k largest and their indices in two registers (R112, R146). Each
result may be read after the unit's latency (R110). -/
def Obligations.VectorFloatLanes : Prop := ∀ (s : State) (die tess : Nat) (c : Cmd) (m : Sim), s.Calm →
  let t := m.t
  let w := m.xWord
  let d := field w 12 8
  let f := field w 31 28
  let va := t.vr (field w 17 13)
  let vb := t.vr (field w 22 18)
  let ve := t.vr (field w 27 23)
  let next (y : Tess) : Tess := y.xRetired (t.xpc + 1) (t.cycle + 1)
  let gives (r : State) (x : List W32) (lat : Nat) : Prop :=
    ItemStep s r die tess c { m with t := next ((t.setV d x).readable d (t.cycle + lat)) }
  let exact (x y z : Fp) : Fp := if f = 0 then x.add y else if f = 1 then x.sub y else if f = 2 then x.mul y else if f = 3 then (x.mul y).add z
    else if f = 4 then laneMin x y else if f = 5 then laneMax x y else if f = 6 then x.abs else x.neg
  let half (x y z : Nat) : Nat := (convert .bf16 false (exact (Fmt.bf16.decode x) (Fmt.bf16.decode y) (Fmt.bf16.decode z))).enc
  (s.xIssues die tess 0x23 c m → ∃ r, exec (.vfp die tess) s = .next r ∧
    (flagAt w 32 = false → gives r (List.zipWith (fun x e => toF32 (exact (ofF32 x.1) (ofF32 x.2) (ofF32 e))) (va.zip vb) ve) 4) ∧
    (flagAt w 32 = true → gives r (List.zipWith (fun x e => BitVec.ofNat 32 (half (x.1.toNat % 65536) (x.2.toNat % 65536) (e.toNat % 65536) +
      65536 * half (x.1.toNat / 65536) (x.2.toNat / 65536) (e.toNat / 65536))) (va.zip vb) ve) 4)) ∧
  (s.xIssues die tess 0x24 c m → ∃ r, exec (.vcvt die tess) s = .next r ∧
    gives r (List.zipWith (vcvtLane (fmtA w) (fmtD w) (field w 43 41) (field w 46 44)) va (t.vr d)) 4) ∧
  (s.xIssues die tess 0x25 c m → ∃ r, exec (.vred die tess) s = .next r ∧ gives r (vredTree f 8 va :: List.replicate 255 0) 10) ∧
  (s.xIssues die tess 0x26 c m → ∃ r, exec (.vsfu die tess) s = .next r ∧ ItemStep s r die tess c { m with
    t := next { (t.setV d (va.map (vsfuLane f))).readable d (t.cycle + (if f = 4 then 18 else 14)) with
      sfuFree := t.cycle + (if f = 4 then 8 else 4) } }) ∧
  (s.xIssues die tess 0x28 c m → ∃ r, exec (.topk die tess) s = .next r ∧
    let k := field w 50 47 + 1
    let prev : List (W32 × W32) := if flagAt w 51 then (vb.zip (t.vr (field w 22 18 + 1))).take k else []
    let res := topkOf k (va.zipIdx.map (fun x => (x.1, BitVec.ofNat 32 x.2 + t.sr (field w 56 52))) ++ prev)
    ItemStep s r die tess c { m with
      t := next { (((t.setV d res.1).readable d (t.cycle + 24)).setV (d + 1) res.2).readable (d + 1) (t.cycle + 24) with
        topkFree := t.cycle + 8 } })

/-- The instructions that move scratchpad data start a job of their unit (R117, R147 to R149): VLD and VST of 16 segments and a V
register, XPOSE of 64 rows, LDTILE of a tile with metadata and scales. The unit serves the segments from the next cycle; a loaded
register and a tile buffer are pending until it is done. -/
def Obligations.ScratchpadMovesStartAJob : Prop := ∀ (s : State) (die tess : Nat) (c : Cmd) (m : Sim), s.Calm →
  let t := m.t
  let w := m.xWord
  let d := field w 12 8
  let next (y : Tess) : Tess := { y with nextId := t.nextId + 1 }.xRetired (t.xpc + 1) (t.cycle + 1)
  let job (k : JobKind) : Job := { id := t.nextId, kind := k, start := t.cycle + 1, issue := t.cycle }
  let segs : List Nat := (List.range 16).map fun (i : Nat) => ((((field w 47 28 : Nat) : Int) + i * sfield w 67 48) / 64).toNat
  (s.xIssues die tess 0x30 c m → ∃ r, exec (.vld die tess) s = .next r ∧ ItemStep s r die tess c { m with
    t := next { t with vPend := d :: t.vPend, lsu := some { job (.vld d) with reads := segs.zipIdx.map fun x => (x.2, x.1) } } }) ∧
  (s.xIssues die tess 0x31 c m → ∃ r, exec (.vst die tess) s = .next r ∧ ItemStep s r die tess c { m with
    t := next { t with lsu := some { job .vst with
      writes := (segs.zip (chunks 64 (wordBytes (t.vr d)))).map fun x => (t.cycle + 1, x.1, x.2) } } }) ∧
  (s.xIssues die tess 0x32 c m → ∃ r, exec (.xpose die tess) s = .next r ∧ ItemStep s r die tess c { m with
    t := next { t with lsu := some { job (.xpose (2 ^ field w 18 17) (field w 87 68) (sfield w 107 88)) with
      reads := ((xposeFrom w).map fun a => (a / 64).toNat).zipIdx.map fun x => (x.2, x.1) } } }) ∧
  (s.xIssues die tess 0x40 c m → ∃ r, exec (.ldtile die tess) s = .next r ∧
    let n := field w 76 76
    let y := t.setTile n { t.tile n with
      holds := true, fmt := Fmt.ofCode (field w 71 68), sparse := field w 73 72, tg := field w 75 74, loading := true }
    ItemStep s r die tess c { m with
      t := next { y with loader := some { job (.ldtile n t.xpc) with
        reads := ((tileSegs w).map fun a => (a / 64).toNat).zipIdx.map fun x => (x.2, x.1) } } })

/-- MATMUL starts a pass over its tile buffer and counts it (R105, R151, R231): the array is busy for its rows, the bank accumulates
in INT32 or FP32. DRAIN reads its accumulator rows: to V registers, four rows each (R109), or by a job of the drain that converts
them for the scratchpad, reading its parameter block first where it has one (R153, R186). -/
def Obligations.MatrixInstructionsStartAPass : Prop := ∀ (s : State) (die tess : Nat) (c : Cmd) (m : Sim), s.Calm →
  let t := m.t
  let w := m.xWord
  let n := field w 53 48 + 1
  let b := field w 60 60
  let next (y : Tess) : Tess := y.xRetired (t.xpc + 1) (t.cycle + 1)
  (∀ k per g, s.xIssues die tess 0x41 c m → t.passFor w = some (k, per, g) → ∃ r, exec (.matmul die tess) s = .next r ∧
    let i := field w 61 61
    let last := if per = 1 then t.cycle + n + 9 else t.cycle + 4 * n + 10
    ItemStep s r die tess c { m with
      d := { m.d with npasses := min (m.d.npasses + 1) (2 ^ 64 - 1)
                      spasses := min (m.d.spasses + if (t.tile i).sparse = 0 then 0 else 1) (2 ^ 64 - 1) }
      t := next { t.setTile i { t.tile i with useThrough := if per = 1 then t.cycle + n + 2 else t.cycle + 4 * n - 1 } with
        passes := t.passes ++ [{
          issue := t.cycle, pc := t.xpc, per := per, m := n, saddr := field w 27 8, sstride := sfield w 47 28, row := field w 59 54, bank := b
          tile := i, clear := flagAt w 62, sfmt := Fmt.ofCode (field w 66 63), k := k, g := g
          sscale := if field w 88 87 = 0 then none else some (field w 86 67) }]
        arrayFree := t.cycle + n * per, bankBusy := Assoc.put (Assoc.erase t.bankBusy b) b last
        accInt := Assoc.put (Assoc.erase t.accInt b) b (Fmt.ofCode (field w 66 63)).isInt } }) ∧
  (s.xIssues die tess 0x42 c m → ∃ r, exec (.drain die tess) s = .next r ∧
    let rows := (List.range n).map fun j => t.accRow b (field w 59 54 + j)
    let held (y : Tess) : Tess := { y with bankDrain := Assoc.set 0 t.bankDrain b (t.cycle + n + 1) }
    (flagAt w 61 = true → ∃ y : Tess, ItemStep s r die tess c { m with t := next (held { y with drainFree := t.cycle + n + 1 }) } ∧
      y = { t with v := y.v, ready := y.ready } ∧
      (∀ j, j < n / 4 → y.vr (field w 66 62 + j) = ((rows.drop (4 * j)).take 4).flatten ∧
        Assoc.get 0 y.ready (field w 66 62 + j) = t.cycle + 8 + 4 * j) ∧
      ∀ j, (j < field w 66 62 ∨ field w 66 62 + n / 4 ≤ j) → y.vr j = t.vr j ∧ Assoc.get 0 y.ready j = Assoc.get 0 t.ready j) ∧
    (flagAt w 61 = false → drainMode w = 0 → ItemStep s r die tess c { m with
      t := next (held { t with nextId := t.nextId + 1, drainJ := some {
        id := t.nextId, start := t.cycle + 1, issue := t.cycle, pc := t.xpc
        kind := .drain rows (t.bankInt b) 0 .fp32 (field w 92 73) (field w 27 8) (sfield w 47 28) (flagAt w 93) 2
        writes := outWrites .fp32 t.cycle 0 (field w 27 8) (sfield w 47 28) (drainOut (fun _ => 0) rows false 0 .fp32 none) } }) }) ∧
    (flagAt w 61 = false → drainMode w ≠ 0 → ItemStep s r die tess c { m with
      t := next (held { t with nextId := t.nextId + 1, drainJ := some {
        id := t.nextId, start := t.cycle + 1, issue := t.cycle, pc := t.xpc
        kind := .drain rows (t.bankInt b) (drainMode w) (Fmt.ofCode (field w 72 69)) (field w 92 73) (field w 27 8) (sfield w 47 28)
          (flagAt w 93) 0
        reads := [(0, field w 92 73 / 64)] } }) }))

/-- LOAD and STORE start a transfer of a box named by A registers and the word (R155, R156); STORE's box is read at the A port from the
next cycle on (R115); FENCE issues once no transfer is outstanding (R157). TRANSFER_COMPLETE (R123, R124) ends one: a LOAD's rows,
zero outside the tensor and in masked rows, are presented to the A port, which writes each segment in a cycle; a STORE whose box is
read puts its bytes inside the tensor into memory; a LOAD of a halted tessera lands whole (R164). Nothing else of the item
changes. -/
def Obligations.TransfersMoveBoxes : Prop := (∀ (s : State) (die tess : Nat) (c : Cmd), s.Calm →
  (∀ m : Sim,
    let t := m.t
    let v := m.aWord
    let x (load : Bool) : Xfer := {
      id := t.nextId, load := load, dsel := field v 10 8
      coord := (List.range (dimsOf c v)).map fun k => (t.ar (field v 15 11 + k)).toNat
      rows := field v 67 62 + 1, cols := field v 78 68 + 1
      bytes := ceilDiv ((field v 78 68 + 1) * ((c.selected v).getD Desc.none).fmt.nibbles) 2
      sp := (if flagAt v 21 then (t.ar (field v 20 16)).toNat else 0) + field v 41 22, spstride := sfield v 61 42 }
    let with_ (y : Xfer) (js : List Job) : Tess :=
      { t with xfers := t.xfers ++ [y], aJobs := t.aJobs ++ js, nextId := t.nextId + 1 }.aRetired (t.apc + 1) (t.cycle + 1)
    (s.aIssues die tess 0x50 c m → ∃ r, exec (.load die tess) s = .next r ∧ ItemStep s r die tess c { m with t := with_ (x true) [] }) ∧
    (s.aIssues die tess 0x51 c m → ∃ r, exec (.store die tess) s = .next r ∧ ItemStep s r die tess c { m with
      t := with_ (x false) [{ id := t.nextId, kind := .store, start := t.cycle + 1, issue := t.cycle
                              reads := (x false).boxSegs.zipIdx.map fun y => (y.2, y.1) }] }) ∧
    (s.aIssues die tess 0x52 c m → ∃ r, exec (.fence die tess) s = .next r ∧
      ItemStep s r die tess c { m with t := t.aRetired (t.apc + 1) (t.cycle + 1) })) ∧
  (∀ (k : Nat) (env : Env) (x : Xfer), env.fatal = none → env.sram = none → s.stalled = false → s.xferAt die tess k ≠ none →
    (s.environ env).xferAt die tess k = some (c, x) →
    let key := tessKey die tess
    let y := s.tessera key
    let e := (c.eng (some die)).by (tessSeer key)
    let d := c.xferDesc x
    let others (u r : State) : Prop :=
      (∀ j, j ≠ key → r.tessera j = s.tessera j) ∧ ∀ j, j ≠ c.id → (r.cmd j).map Cmd.core = (u.cmd j).map Cmd.core
    (∀ masked u1 es u2, x.load = true → (s.environ env).maskedRows c e x = (.ok (masked, []), u1) →
      let want (r : Nat) : List Nat := if masked.contains r then [] else (List.range x.cols).filter fun j => d.inside (x.index r j)
      let cells := (List.range x.rows).flatMap fun r => (want r).map fun j => (r, j)
      u1.readElems e d (cells.map fun q => d.own (x.index q.1 q.2)) = (.ok (es, []), u2) → u2.stalled = false →
      let row (i : Nat) : List Byte := padTo (64 * ceilDiv x.bytes 64) (packElems d.fmt ((List.range x.cols).map fun j =>
        match (cells.zip es).find? fun q => q.1 == (i, j) with
        | some q => q.2
        | none => 0))
      let landing : Tess := { y with aJobs := y.aJobs ++ [{
        id := x.id, kind := .load, start := y.cycle + 1, issue := y.cycle
        writes := (x.boxSegs.zip (((List.range x.rows).map row).flatMap (chunks 64))).map fun z => (y.cycle + 1, z.1, z.2) }] }
      let z := (({ t := landing, d := {}, g := {}, factor := none } : Sim).complete simFuel).t
      ∃ r, exec (.transferComplete die tess k env) s = .next r ∧ others u2 r ∧
        r.die die = { u2.die die with mrows := min ((u2.die die).mrows + masked.length) (2 ^ 64 - 1) } ∧
        (y.st ≠ .halted → r = ({ u2 with tess := r.tess, cmds := r.cmds, dies := r.dies } : State) ∧ r.tessera key = landing) ∧
        (y.st = .halted → y.snapWait = none → r = ({ u2 with tess := r.tess, cmds := r.cmds, dies := r.dies } : State) ∧
          r.tessera key = if z.xfers.isEmpty then { z with failed := none } else z)) ∧
    (∀ m0, y.st ≠ .halted → x.load = false → (s.environ env).sim die tess = some (c, m0) →
      let m := m0.reads c x.id
      let v := (s.environ env).putSim die tess c m
      m.bad = none →
      (m.t.aJobs.any (fun j => j.id == x.id) = true → ∃ r, exec (.transferComplete die tess k env) s = .next r ∧ r = v.refresh) ∧
      (∀ f ws u1, m.t.aJobs.any (fun j => j.id == x.id) = false → m.t.xfers.find? (fun f => f.id == x.id) = some f →
        let d0 := c.descD 0x08
        let items := (f.data.zipIdx.flatMap fun r => (unpackElems d0.fmt r.1 f.cols).zipIdx.map fun q => (f.index r.2 q.2, q.1)).filter
          fun q => d0.inside q.1
        v.planElems e d0 (items.map fun q => (d0.own q.1, q.2)) [] = (.ok ws, u1) → u1.stalled = false → u1.landsAll ws →
        ∃ r, exec (.transferComplete die tess k env) s = .next r ∧ others u1 r ∧
          r = ({ u1 with tess := r.tess, cmds := r.cmds, mem := r.mem, dcache := r.dcache, ecc := r.ecc, stackTab := r.stackTab } : State) ∧
          r.tessera key = { m.t with xfers := m.t.xfers.filter (·.id != f.id) } ∧ Lands u1 r ⟨c.stamp, tessSeer key⟩ ws)))) ∧
  (∀ (m : Sim) (j : Job) (n k : Nat) (b : List Byte), m.t.passes = [] → m.t.loader = none → m.t.drainJ = none → m.t.lsu = none →
    m.t.aJobs = [j] → j.kind = .load → j.reads = [] → j.start ≤ m.t.cycle + 1 → j.writes = [(k, n, b)] → k ≤ m.t.cycle + 1 →
    m.tick.t.seg n = b ∧ (∀ i, i ≠ n → m.tick.t.seg i = m.t.seg i) ∧ m.tick.t.aJobs = [] ∧
    m.tick.t.xfers = m.t.xfers.filter (·.id != j.id) ∧ m.tick.t.cycle = m.t.cycle + 1)

/-- A free attention pipeline takes the next unit of the earliest-started command of its die that has one left (R241). The unit's row of
ATTN_FWD, ATTN_MERGE, ATTN_BWD_Q or ATTN_BWD_KV, read without a failure, writes its outputs (R242 to R258), counts blocks run, blocks
skipped and NaN rows in the die's registers (R259) and in the command (R251), and frees the pipeline; the last unit finishes the
command with the sums. Where an output would merge with an uncorrectable granule, the command ends with ECC_UNCORRECTABLE (R491). -/
def Obligations.AttentionUnitsRunOnPipelines : Prop := ∀ (s : State) (die p : Nat) (env : Env), s.Calm →
  let key := pipeKey die p
  (∀ c r a, die < 8 → p < 16 → (s.pipe key).running = false →
    (s.cmds.filter fun c => cls c.raw == 2 && c.allStarted && c.ending.isNone && c.attnLeft && targetDie c.raw == die &&
      (!pinned c.raw || targetTess c.raw == p)) = c :: r →
    let x := r.foldl earlier c
    x.work = .attn a → s.cmd x.id = some x → ∃ t, exec (.attnUnitTake die p) s = .next t ∧ t = ({ s with cmds := t.cmds, pipes := t.pipes } : State) ∧
      (∀ y ∈ c :: r, x.startAt ≤ y.startAt) ∧
      t.pipe key = { running := true, context := x.id.ctx, opcode := opc x.raw, cmd := some x.id, unit := a.next } ∧
      (∀ k, k ≠ key → t.pipe k = s.pipe k) ∧ (t.cmd x.id).map Cmd.core = some (Cmd.core { x with work := .attn { a with next := a.next + 1 } }) ∧
      ∀ id, id ≠ x.id → (t.cmd id).map Cmd.core = (s.cmd id).map Cmd.core) ∧
  ((s.pipe key).running = true → exec (.attnUnitTake die p) s = .next s) ∧
  (let runs (i : Instr) (op : Nat) (f : Eng → Cmd → Nat → Reader UnitOut) : Prop :=
    ∀ c a o v ws w, env.fatal = none → env.sram = none → s.stalled = false → s.pipeCmd die p op = some c → c.work = .attn a →
      let e := (c.eng (some die)).by (pipeSeer key)
      f e c (s.pipe key).unit (s.environ env) = (.ok (o, []), v) → v.planUnit e c o.writes [] = (.ok ws, w) → w.stalled = false →
      (∀ x ∈ ws, isRemote x.1 = false ∧ w.holdsAt x.1 = false) →
      let n : DocCounts := { c0 := a.counts.c0 + o.nan, c1 := a.counts.c1 + o.done_, c2 := a.counts.c2 + o.skipped,
                             c3 := a.counts.c3 + o.zero, c4 := a.counts.c4 + o.clipped }
      let c1 : Cmd := { c with work := .attn { a with fin := a.fin + 1, counts := n } }
      (w.poisonHit ws = none → ∃ t, exec i s = .next t ∧
        t = ({ w with cmds := t.cmds, pipes := t.pipes, dies := t.dies, mem := t.mem, ecc := t.ecc, dcache := t.dcache, stackTab := t.stackTab } : State) ∧
        Lands w t ⟨c.stamp, pipeSeer key⟩ ws ∧
        (t.pipe key).running = false ∧ (t.pipe key).cmd = none ∧ (∀ k, k ≠ key → t.pipe k = s.pipe k) ∧
        t.die die = { s.die die with
          apBlocks := if op = 2 then (s.die die).apBlocks else min ((s.die die).apBlocks + o.done_) (2 ^ 64 - 1)
          apSkipped := min ((s.die die).apSkipped + o.skipped) (2 ^ 64 - 1)
          apNan := if op ≤ 2 then min ((s.die die).apNan + o.nan) (2 ^ 64 - 1) else (s.die die).apNan } ∧
        (∀ k, k ≠ die → t.die k = s.die k) ∧
        (t.cmd c.id).map Cmd.core = some (Cmd.core (if a.fin + 1 = attnUnits c.raw c.descs then
          { c1 with stage := .finished, ending := some { status := .ok, detail := sat32 n.c0, r0 := sat32 n.c1, r1 := sat32 n.c2,
                                                          r2 := sat32 n.c3, r3 := sat32 n.c4 } } else c1)) ∧
        ∀ id, id ≠ c.id → (t.cmd id).map Cmd.core = (s.cmd id).map Cmd.core) ∧
      ∀ g, w.poisonHit ws = some g → ∃ t, exec i s = .next t ∧
        (t.cmd c.id).map (·.ending) = some (some { status := .eccUncorrectable, r0 := w.reportAddr (g * 32) % 2 ^ 32, r1 := w.reportAddr (g * 32) / 2 ^ 32 })
   runs (.attnFwd die p env) 1 fwdUnit ∧ runs (.attnMerge die p env) 2 mergeUnit ∧ runs (.attnBwdQ die p env) 3 bwdQUnit ∧
   runs (.attnBwdKv die p env) 4 bwdKvUnit)

/-- COPY, QUANTIZE and DEQUANTIZE (R210 to R213, R195, R196): where every source element can be read and every destination element
written, the command finishes with the destination's elements: equal encodings where the formats are equal, else each value
rounded once; for QUANTIZE the derived scale of each group and the elements scaled by it; for DEQUANTIZE each exact product
with its group's scale. Padding lanes become zero. DETAIL counts the elements, RESULT those clipped, flushed and degenerate. -/
def Obligations.DmaCommandsConvertTheirTensors : Prop := ∀ (s : State) (id : CmdId) (env : Env) (c : Cmd), env.fatal = none → env.sram = none →
  s.Calm → s.stalled = false →
  let u := s.environ env
  let e := c.eng (some (targetDie c.raw))
  let d := c.descD 0x08
  let src := c.descD 0x0A
  let sc := c.descD 0x0C
  let idx := tuples d.size
  let g := groupOf (u8 c.raw 0x20)
  let n (cs : List Conv) (k deg : Nat) : Ending := { status := .ok, detail := min k 0xFFFFFFFF, r0 := min (cs.countP (·.clipped)) 0xFFFFFFFF,
                                                     r1 := min (cs.countP (·.flushed)) 0xFFFFFFFF, r2 := min deg 0xFFFFFFFF }
  (∀ es v ws w, s.running id 3 1 = some c → u.readElems e src idx = (.ok (es, []), v) →
    let cs := es.map fun x => if src.fmt = d.fmt then ⟨x, false, false⟩ else convert d.fmt (e5inf c.raw) (src.fmt.decode x)
    v.planElems e d (idx.zip (cs.map (·.enc)) ++ d.padZeros) [] = (.ok ws, w) → w.stalled = false →
    ∃ t, exec (.copy id env) s = .next t ∧ Finishes w t id (n cs es.length 0) ws) ∧
  (∀ es v ws w ws2 w2, s.running id 3 2 = some c → u.readElems e src idx = (.ok (es, []), v) →
    let q := (d.rows.zip (chunks (d.dim 0) (es.map src.fmt.decode))).map fun r =>
      (r.1, (chunks g r.2).map fun b => (deriveSym d.fmt sc.fmt b, b.map (scaleElem d.fmt (e5inf c.raw) (deriveSym d.fmt sc.fmt b))))
    let cs := q.flatMap fun r => r.2.flatMap (·.2)
    v.planElems e d (q.flatMap (fun r => (r.2.flatMap (·.2)).zipIdx.map fun x => (x.2 :: r.1, x.1.enc)) ++ d.padZeros) [] = (.ok ws, w) →
    w.planElems e sc (q.flatMap (fun r => r.2.zipIdx.map fun x => (x.2 :: r.1, x.1.1.enc)) ++ sc.padZeros) ws = (.ok ws2, w2) →
    w2.stalled = false → ∃ t, exec (.quantize id env) s = .next t ∧
      Finishes w2 t id (n cs es.length ((q.map fun r => r.2.countP fun b => b.1.degenerate).foldl (· + ·) 0)) ws2) ∧
  (∀ es v ss w ws w2, s.running id 3 3 = some c → u.readElems e src idx = (.ok (es, []), v) →
    v.readElems e sc (idx.map fun i => (if g = 0 then 0 else i.headD 0 / g) :: i.drop 1) = (.ok (ss, []), w) →
    let cs := (es.zip ss).map fun x => convert d.fmt false ((src.fmt.decode x.1).mul (sc.fmt.decode x.2))
    w.planElems e d (idx.zip (cs.map (·.enc)) ++ d.padZeros) [] = (.ok ws, w2) → w2.stalled = false →
    ∃ t, exec (.dequantize id env) s = .next t ∧ Finishes w2 t id (n cs es.length 0) ws)

/-- SCRUB checks the rows it covers (R494 to R498): a granule with an uncorrectable word is counted in UNCORR and reported, one with a
correctable error is counted in CORR and rewritten unless the array die holds its writes. It finishes with its summary; DETAIL
counts uncorrectable granules, RESULT those corrected, rows recommended for a remap, granules checked (64 a row), and flags. -/
def Obligations.ScrubChecksItsRows : Prop :=
  (∀ (x : Scrub) (s : State) (r : DramRow), s.mem.bad = [] → s.mem.weak = [] →
    State.scrubRow (x, s) r = ({ x with checked := x.checked + 64, skipped := x.skipped || s.holdsWrites r.1 (r.2.1 / 64) }, s)) ∧
  (∀ (s : State) (r : DramRow) (g : Nat), g ∈ s.rowGranules r.1 r.2.1 r.2.2 → (s.rowGranules r.1 r.2.1 r.2.2).Nodup → s.mem.bad = [] →
    s.mem.weak = [g] → s.holdsWrites r.1 (r.2.1 / 64) = false → (State.scrubRow ({}, s) r).1.corrected = 1 ∧
    (State.scrubRow ({}, s) r).2.mem.weak = [] ∧ (State.scrubRow ({}, s) r).1.rows = []) ∧
  (∀ (s : State) (r : DramRow) (g : Nat), g ∈ s.rowGranules r.1 r.2.1 r.2.2 → (s.rowGranules r.1 r.2.1 r.2.2).Nodup → s.mem.bad = [g] →
    s.mem.weak = [] → (State.scrubRow ({}, s) r).1.bad = [s.reportAddr (g * 32)] ∧
    ((State.scrubRow ({}, s) r).2.eccBlock (s.eccOf (g * 32))).uncorr = min ((s.eccBlock (s.eccOf (g * 32))).uncorr + 1) (2 ^ 64 - 1) ∧
    (State.scrubRow ({}, s) r).1.rows =
      [r.1 * 2 ^ 60 + r.2.1 * 2 ^ 48 + r.2.2 * 2 ^ 32 + (if ((s.stack r.1).entryOf r.2.1 r.2.2).isSome then 4 else 1) * 2 ^ 24]) ∧
  ∀ (s : State) (id : CmdId) (env : Env) (c : Cmd) (rows : List DramRow) (v : State) (ws : List (Nat × Byte)) (w : State),
    env.fatal = none → env.sram = none → s.Calm → s.stalled = false → s.running id 7 5 = some c →
    (s.environ env).scrubRowsOf c = (.ok rows, v) →
    let x := rows.foldl State.scrubRow ({}, v)
    (x.2.noteFindings rows x.1).planElems (c.eng none) (c.descD 0x08) (x.1.bytes.zipIdx.map fun b => ([b.2], b.1.toNat)) [] = (.ok ws, w) →
    w.stalled = false → ∃ t, exec (.scrub id env) s = .next t ∧ x.1.checked = 64 * rows.length ∧
      Finishes w t id { status := .ok, detail := min x.1.bad.length 0xFFFFFFFF, r0 := min x.1.corrected 0xFFFFFFFF,
                        r1 := min x.1.rows.length 0xFFFFFFFF, r2 := min (64 * rows.length) 0xFFFFFFFF, r3 := x.1.flags } ws

/-- HCOPY (R455, R456): from host memory, its reads go out as non-posted requests, none longer than Max Read Request Size or over a 4 KiB
boundary, and the bytes they brought become the destination's elements; to host memory, the elements' bytes leave as posted writes to the
host addresses of their places, cut by Max Payload Size and the 4 KiB boundary (R437, R447). Both finish with the bytes moved as DETAIL.
A read that fails, and one that gets no completion, end the command with ECC_UNCORRECTABLE and the host-window address of that read, and
count a host error. -/
def Obligations.HostCopiesMoveBytes : Prop := (∀ (s : State) (ctx : Nat) (hpa : List Nat), ∀ r ∈ s.hostReads ctx hpa,
    let lim := 2 ^ min 12 (s.func (s.ctx ctx).fn).cfg.mrrs
    0 < r.2.2 ∧ r.1 / lim = (r.1 + r.2.2 - 1) / lim) ∧
  ∀ (s : State) (id : CmdId) (host : HostReply) (env : Env) (c : Cmd), env.fatal = none → env.sram = none →
  s.Calm → s.stalled = false → s.running id 6 1 = some c →
  let u := s.environ env
  let d := c.descD 0x08
  let src := c.descD 0x0A
  let fn := (s.ctx c.id.ctx).fn
  let ok : Ending := { status := .ok, detail := min d.bytesAll 0xFFFFFFFF }
  let readsOf (v : State) (hpa : List Nat) := (v.keepPages c.id.ctx hpa).hostReads c.id.ctx hpa
  let readsSent (v : State) (hpa : List Nat) : State :=
    { v.keepPages c.id.ctx hpa with out := v.out ++ (readsOf v hpa).map fun r => .hostRead fn r.1 r.2.2 }
  (∀ hpa v bs ws w, u.hostIsDst c = false → host = .ok bs → u.resolveHost c.id.ctx false src.allBytes = (.ok hpa, v) →
    hpa.length ≤ bs.length →
    (readsSent v hpa).planAt (c.eng none) d { bank := some d.bank, remote := false } ((tuples d.size).zip ((tuples d.size).map fun i =>
      elemFrom src.fmt (fun va => Assoc.get 0 (src.allBytes.zip bs) va) (src.elem i).1 (src.elem i).2)) [] = (.ok ws, w) →
    ∃ t, exec (.hcopy id host env) s = .next t ∧ Finishes w t id ok ws) ∧
  (∀ hpa v pas w x, u.hostIsDst c = true → u.resolveHost c.id.ctx true d.allBytes = (.ok hpa, v) →
    (v.keepPages c.id.ctx hpa).resolveAll c.id.ctx false { bank := some src.bank, remote := false }
      ((tuples d.size).map fun i => (src.elem i).1) = (.ok pas, w) →
    w.touch c.id.ctx none (granules pas) c.seer = (none, x) → x.stalled = false →
    ∃ y t, exec (.hcopy id host env) s = .next t ∧ Finishes y t id ok [] ∧ y = ({ x with out := y.out, fresh := x.fresh + 1 } : State) ∧
      (let es := (pas.zip (tuples d.size)).map fun p => elemFrom src.fmt (x.see (c.eng none)) p.1 (src.elem p.2).2
       let bytes := ((tuples d.size).zip es).foldl
         (fun a p => elemWrite d.fmt (Config.freeByte x.fresh) a (d.elem p.1).1 (d.elem p.1).2 p.2) []
       let lim := 2 ^ min 9 (s.func fn).cfg.mps
       let runs := byteRuns lim ((d.allBytes.zip hpa).map fun z => (((s.ctx c.id.ctx).hwin + bits z.2 39 0) % 2 ^ 64, Assoc.get 0 bytes z.1))
       y.out = x.out ++ (runs.map fun r => .hostWrite fn r.1 r.2) ∧ ∀ r ∈ runs, r.1 / lim = (r.1 + r.2.length - 1) / lim)) ∧
  (let fails (v t : State) (hpa : List Nat) (k : Nat) : Prop :=
      let p := (s.ctx c.id.ctx).port
      let reads := readsOf v hpa
      let a := (reads.getD (min k (reads.length - 1)) (0, 0, 0)).2.1
      (t.cmd id).map (·.ending) = some (some { status := .eccUncorrectable, r0 := a % 2 ^ 32, r1 := a / 2 ^ 32 }) ∧
      (t.hport p).hosterr = min 0xFFFFFFFF ((s.hport p).hosterr + 1) ∧ (∀ k, k ≠ p → t.hport k = s.hport k)
   (∀ hpa v k, u.hostIsDst c = false → u.resolveHost c.id.ctx false src.allBytes = (.ok hpa, v) → host = .failed k →
      ∃ t, exec (.hcopy id host env) s = .next t ∧ fails v t hpa k ∧ t.out = v.out ++ ((readsOf v hpa).map fun r => .hostRead fn r.1 r.2.2) ∧
        t = ({ v.afterWork t with hports := t.hports, out := t.out, funcs := (v.keepPages c.id.ctx hpa).funcs } : State)) ∧
   ∀ hpa v ctx q k, s.hostIsDst c = false → s.resolveHost c.id.ctx false src.allBytes = (.ok hpa, v) →
      ∃ t, exec (.completionTimeout ctx q (some (id, k))) s = .next t ∧ fails v t hpa k ∧ t = ({ v.afterWork t with hports := t.hports } : State)) ∧
  ∀ ctx q, s.mayAccept ctx q = true → (s.queue (16 * ctx + q)).sqDev = false → ∃ t, exec (.completionTimeout ctx q none) s = .next t ∧
    t = ({ s.afterTear t with queues := t.queues, hports := t.hports } : State) ∧
    (t.hport (s.ctx ctx).port).hosterr = min 0xFFFFFFFF ((s.hport (s.ctx ctx).port).hosterr + 1) ∧
    t.queue (16 * ctx + q) = { s.queue (16 * ctx + q) with readFailed := true } ∧ (∀ k, k ≠ 16 * ctx + q → t.queue k = s.queue k) ∧
    t.ctx ctx = (if (s.ctx ctx).st = .opened then { s.ctx ctx with st := .draining, cause := .queueAccess } else s.ctx ctx) ∧
    ∀ k, k ≠ ctx → t.ctx k = s.ctx k

/-- A docent works on the next item of its active, unpaused task (R276 to R285, R287, R323). GEMV takes the next slice of its vectors
for the rows in its accumulators: each adds its group sums, scaled, in FP32, and the last slice completes the rows. A GATHER_REDUCE
index joins its row into its bag; an ATTN_PARTIAL page with its slice of queries gives one partial state per head or is skipped, and a
FRESH page never is; an OPT_STEP element becomes its AdamW successor; a CONVERT row is converted or quantized, a FILL row gets the
encoding. -/
def Obligations.DocentsWorkItemByItem : Prop := (∀ (g : Nat) (wx : List (Fp × Fp)) (sc : Nat → Fp), 0 < g → wx.length % g = 0 →
    (wx.zipIdx.foldl (fun a p => gemvStep g p.2 p.1.1 p.1.2 (sc (p.2 / g)) a) ((0 : W32), Fp.zero)).1 =
      (chunks g wx).zipIdx.foldl (fun a p => f32add a (toF32 ((sumFp (p.1.map fun q => q.1.mul q.2)).mul (sc p.2)))) 0) ∧
  ∀ (s : State) (k bank : Nat) (env : Env) (c : Cmd) (t : DocTask),
  env.fatal = none → env.sram = none → s.Calm → s.stalled = false →
  s.docTask k bank .active = some (c, t) → t.paused = false → s.cmd c.id = some c →
  let u := s.environ env
  let d := c.descD 0x08
  let n := c.doc.counts
  (∀ row we s1 se s2, opc c.raw = 1 → t.items[t.taken]? = some (.row row) → t.buf ≠ [] →
    let w := c.descD 0x0A
    let x := c.descD 0x0C
    let g := if groupOf (u8 c.raw 0x24) = 0 then 32 else groupOf (u8 c.raw 0x24)
    let j := t.used % sliceCount x
    let ks := sliceRange x j
    let rows := ((t.items.drop t.taken).take (rowsAtOnce x)).filterMap fun i => match i with
      | .row n => some n
      | _ => none
    let groups := (ks.filter fun k => (k + 1) % g == 0).map (· / g)
    u.bankRead c t w (rows.flatMap fun n => ks.map fun k => [k, n]) = (.ok we, s1) →
    (match c.desc 0x0E with
      | some sc => s1.bankRead c t sc (rows.flatMap fun n => groups.map fun i => [i, n])
      | none => (.ok [], s1)) = (.ok se, s2) → s2.stalled = false →
    let scale (i h : Nat) : Fp := match c.desc 0x0E with
      | some sc => sc.fmt.decode (se.getD (i * groups.length + (h - groups.headD 0)) 0)
      | none => Fp.one
    let acc (i v : Nat) : W32 × Fp := ks.zipIdx.foldl (fun a k => gemvStep g k.1 (w.fmt.decode (we.getD (i * ks.length + k.2) 0))
      (x.fmt.decode (((t.buf.headD []).getD v []).getD k.2 0)) (scale i (k.1 / g)) a) ((t.accs.getD i []).getD v (0, Fp.zero))
    let accs := rows.zipIdx.map fun n => (List.range (x.dim 1)).map fun v => acc n.2 v
    ∃ r, exec (.gemv k bank env) s = .next r ∧ r = ({ s2 with cmds := r.cmds } : State) ∧
      (j + 1 ≠ sliceCount x → ItemsDone s2 r c t 0 [] n fun y => { y with accs := accs, buf := t.buf.drop 1, used := t.used + 1 }) ∧
      (j + 1 = sliceCount x → ItemsDone s2 r c t rows.length [] n fun y => { y with
        parts := ((rows.zip accs).map fun r => ({ key := r.1, m := 0, l := 0, o := r.2.map (·.1) } : Part)).reverse ++ t.parts
        accs := [], buf := t.buf.drop 1, used := t.used + 1 })) ∧
  (∀ l bag row te s1 se s2, opc c.raw = 2 → t.items[t.taken]? = some (.pick l bag row) →
    u.bankRead c t (c.descD 0x0A) ((c.descD 0x0A).rowIdx [row]) = (.ok te, s1) →
    (match c.desc 0x0E with
      | some sc => s1.bankRead c t sc (sc.rowIdx [row])
      | none => (.ok [], s1)) = (.ok se, s2) → s2.stalled = false →
    ∃ r, exec (.gatherReduce k bank env) s = .next r ∧ r = ({ s2 with cmds := r.cmds } : State) ∧
      let mode := u8 c.raw 0x20
      let vals := te.zipIdx.map fun e => match c.desc 0x0E with
        | some sc => toF32 (((c.descD 0x0A).fmt.decode e.1).mul (sc.fmt.decode (se.getD (e.2 / max 1 (groupOf (u8 c.raw 0x21))) 0)))
        | none => toF32 ((c.descD 0x0A).fmt.decode e.1)
      let old := (t.parts.find? fun p => p.key == bag).getD { key := bag, m := 0, l := 0, o := vals.map fun _ => if mode = 2 then f32negInf else 0 }
      ItemDone s2 r c t ({ old with o := (old.o.zip vals).map (fun x => if mode = 2 then gatherMax x.1 x.2 else f32add x.1 x.2), n := old.n + 1 } ::
        t.parts.filter fun p => p.key != bag) [] n) ∧
  (∀ pd l qpe s1 be s2 skip s3, opc c.raw = 3 → t.items[t.taken]? = some (.page pd) → t.buf ≠ [] → (s.ctx c.id.ctx).layout = some l →
    let q := c.descD 0x0A
    let hs := c.headsOf l pd.kvhead
    let biased := bits (u16 c.raw 0x2C) 2 1 == 1
    let eng := c.docEng t
    let base := s.frameAddr ⟨t.stack, t.bank, pd.frame⟩
    let sc := l.n * l.groups * l.sb
    let side := base + 0x4000 + l.pb
    let qrow (i : Nat) : List Fp := ((t.buf.headD []).getD i []).map q.fmt.decode
    let tab (i : Nat) : List Nat := (be.drop (i * 108)).take 108
    u.readElems eng (c.descD 0x0E) [[pd.batch]] = (.ok (qpe, []), s1) →
    (if biased then s1.readElems eng (c.descD 0x10) (hs.flatMap fun h => (List.range 108).map fun i => [i, h])
      else (.ok ([], []), s1)) = (.ok (be, []), s2) →
    s2.skipPage c t pd l qrow tab (qpe.headD 0) = (.ok skip, s3) → s3.stalled = false →
    (pd.fresh = true → skip = false ∧ s3 = s2) ∧
    (skip = true → ∃ r, exec (.attnPartial k bank env) s = .next r ∧ r = ({ s3 with cmds := r.cmds, stackTab := r.stackTab } : State) ∧
      r.stack t.stack = { s3.stack t.stack with skipped := min ((s3.stack t.stack).skipped + 1) (2 ^ 64 - 1) } ∧
      (∀ j, j ≠ t.stack → r.stack j = s3.stack j) ∧ ItemDone s3 r c t t.parts [] { n with c2 := n.c2 + 1 }) ∧
    ∀ s4, skip = false → s3.touch c.id.ctx none (granulesOf base (pd.count * l.row) ++ granulesOf (base + l.n * l.row) (pd.count * l.row) ++
      granulesOf side (pd.count * l.groups * l.sb) ++ granulesOf (side + sc) (pd.count * l.groups * l.sb)) eng.who = (none, s4) → s4.stalled = false →
      let kd := s4.peeks none base (pd.count * l.row) eng.who
      let vd := s4.peeks none (base + l.n * l.row) (pd.count * l.row) eng.who
      let state (i h : Nat) : Part :=
        let ss := (List.range pd.count).map fun j =>
          score (dotFp (qrow i) ((List.range l.d).map fun x => widen l kd (s4.peeks none side sc eng.who) j x)) (w32 c.raw 0x24)
            (if biased then biasAt (tab i) (qpe.headD 0 - (pd.kpos0 + j)) s4.fresh else Fp.zero)
        let r := (Row.mk f32negInf 0 (List.replicate l.d 0)).update ss
          ((List.range pd.count).map fun j => (List.range l.d).map fun x => widenV l vd (s4.peeks none (side + sc) sc eng.who) j x) id Fp.one
        { key := h + q.dim 1 * pd.batch, m := r.m, l := r.l, o := r.o }
      let ps := hs.zipIdx.map fun h => state h.2 h.1
      ∃ r, exec (.attnPartial k bank env) s = .next r ∧ r = ({ s4 with cmds := r.cmds, fresh := s4.fresh + 1 } : State) ∧
        ItemDone s4 r c t (t.parts ++ ps.map fun p => { p with o := [] }) ps { n with c1 := n.c1 + 1 }) ∧
  (∀ i pb s1 pe s2 ae s3 be s4, opc c.raw = 4 → t.items[t.taken]? = some (.elems i) → t.buf ≠ [] →
    u.readBytes (c.docEng t) (u64 c.raw 0x28) 32 { bank := none } = (.ok (pb, []), s1) → s1.bankRead c t (c.descD 0x0C) [i] = (.ok pe, s2) →
    s2.bankRead c t (c.descD 0x0E) [i] = (.ok ae, s3) → s3.bankRead c t (c.descD 0x10) [i] = (.ok be, s4) → s4.stalled = false →
    ∃ r, exec (.optStep k bank env) s = .next r ∧
      let wide (o : Nat) (e : List Nat) : W32 := toF32 ((c.descD o).fmt.decode (e.headD 0))
      let new := adamw ((List.range 8).map fun j => w32 pb (4 * j)) (wide 0x0A ((t.buf.headD []).headD [])) (wide 0x0C pe) (wide 0x0E ae) (wide 0x10 be)
      let v := new.getD (wide 0x0C pe, wide 0x0E ae, wide 0x10 be)
      let cs := [convert d.fmt false (ofF32 v.1), convert (c.descD 0x20).fmt false (ofF32 v.2.1), convert (c.descD 0x22).fmt false (ofF32 v.2.2)]
      ItemWritten s4 r c t { n with c0 := n.c0 + b2n new.isSome, c1 := n.c1 + b2n new.isNone, c2 := n.c2 + cs.countP (·.clipped) }
        (([0x08, 0x20, 0x22].zip cs).foldl (fun a x => s4.bankWrite c t (c.descD x.1) [(i, x.2.enc)] a) [])) ∧
  (∀ i es s1, opc c.raw = 5 → t.items[t.taken]? = some (.elems i) →
    u.bankRead c t (c.descD 0x0A) ((c.descD 0x0A).rowIdx i) = (.ok es, s1) → s1.stalled = false →
    ∃ r, exec (.convert k bank env) s = .next r ∧
      let src := c.descD 0x0A
      let pad := (d.padding i).map fun j => (j, 0)
      (c.desc 0x22 = none →
        let cs := es.map fun e => convert d.fmt (e5inf c.raw) (src.fmt.decode e)
        ItemWritten s1 r c t { n with c0 := n.c0 + es.length, c1 := n.c1 + cs.countP (·.clipped), c2 := n.c2 + cs.countP (·.flushed) }
          (s1.bankWrite c t d ((cs.map (·.enc)).zipIdx.map (fun x => (x.2 :: i, x.1)) ++ pad) [])) ∧
      ∀ sc, c.desc 0x22 = some sc →
        let q := quantRow d.fmt sc.fmt (e5inf c.raw) (groupOf (u8 c.raw 0x20)) (es.map src.fmt.decode)
        ItemWritten s1 r c t { n with c0 := n.c0 + es.length, c1 := n.c1 + q.2.countP (·.clipped), c2 := n.c2 + q.2.countP (·.flushed),
                                      c3 := n.c3 + q.1.countP (·.degenerate) }
          (s1.bankWrite c t sc ((q.1.map (·.enc)).zipIdx.map (fun x => (x.2 :: i, x.1)) ++ (sc.padding i).map fun j => (j, 0))
            (s1.bankWrite c t d ((q.2.map (·.enc)).zipIdx.map (fun x => (x.2 :: i, x.1)) ++ pad) []))) ∧
  (∀ i, opc c.raw = 6 → t.items[t.taken]? = some (.elems i) → ∃ r, exec (.fill k bank env) s = .next r ∧
    ItemWritten u r c t { n with c0 := n.c0 + d.dim 0 }
      (u.bankWrite c t d ((List.range (d.dim 0)).map (fun j => (j :: i, u32 c.raw 0x20)) ++ (d.padding i).map fun j => (j, 0)) []))

/-- A stack's registrar plans its part, reading the index list or walking the lengths where the operation has them, and starts the first
waiting task of an array die within the activity budget, unless temperature stops its docents (R278, R293, R321, R522); a computed task
counts its clocks (a free value), gives its partials to the merge unit and frees its bank; a broadcast unit sends a slice into the free
halves of the docents that need it (R287); a merge unit joins the oldest partial into its row or bag's running state (R288), or starts it.
With the last of these the command finishes: with the ending of its failed parts (R273), or with its counts, and the home stack's merge
unit writes a GEMV's, GATHER_REDUCE's or ATTN_PARTIAL's rows (R276, R279, R282). -/
def Obligations.DocentTasksStartCompleteAndMerge : Prop := ∀ (s : State) (k : Nat) (env : Env) (c : Cmd), s.Calm → s.stalled = false →
  env.fatal = none → env.sram = none → c.stage = .running → c.ending = none → s.cmd c.id = some c → c.work = .doc c.doc →
  let others (u r : State) : Prop := ∀ id, id ≠ c.id → (r.cmd id).map Cmd.core = (u.cmd id).map Cmd.core
  let work (r : State) (d : DocWork) : Prop := (r.cmd c.id).map Cmd.core = some (Cmd.core { c with work := .doc d })
  let ended (v r : State) (d : DocWork) (e : Ending) : Prop := others v r ∧ (r.cmd c.id).map Cmd.core =
    some (Cmd.core { c with work := .doc d, stage := .finished, ending := some e, writes := if e.good then c.writes else [] })
  let closes (v r : State) (d : DocWork) : Prop :=
    ((c.allStarted = false ∨ (∃ j ∈ c.parts, j ∉ d.planned) ∨ d.tasks ≠ [] ∨ d.arrived ≠ []) → r = v.refresh) ∧
    (c.allStarted = true → (∀ j ∈ c.parts, j ∈ d.planned) → d.tasks = [] → d.arrived = [] →
      let c1 : Cmd := { c with work := .doc d }
      let eng := (c.eng none).by (mergeSeer c.home)
      let y := c.descD 0x08
      let sums : Ending := { status := .ok, detail := sat32 d.counts.c0, r0 := sat32 d.counts.c1, r1 := sat32 d.counts.c2, r2 := sat32 d.counts.c3 }
      let landed (w : State) (ws : List (Nat × Byte)) (e : Ending) : Prop := w.landsAll ws →
        r = ({ w with cmds := r.cmds, mem := r.mem, ecc := r.ecc } : State) ∧ Lands w r ⟨c.stamp, mergeSeer c.home⟩ ws ∧ ended v r d e
      (∀ e, partsEnding c.parts.length d.failed = some e → r = ({ v with cmds := r.cmds } : State) ∧ ended v r d e) ∧
      (partsEnding c.parts.length d.failed = none →
        (4 ≤ opc c.raw → r = ({ v with cmds := r.cmds } : State) ∧ ended v r d sums) ∧
        (∀ ws w, opc c.raw = 1 → v.planElems eng y ((gemvResult c1).map fun x => (x.1, x.2.enc)) [] = (.ok ws, w) →
          landed w ws { status := .ok, detail := sat32 d.merged.length, r0 := sat32 d.counts.c1, r1 := sat32 (clippedOf ((gemvResult c1).map (·.2))) }) ∧
        (∀ ws w, opc c.raw = 2 → v.planElems eng y ((gatherResult c1).1.map fun x => (x.1, x.2.enc)) [] = (.ok ws, w) →
          landed w ws { status := .ok, detail := sat32 d.counts.c0, r0 := sat32 d.counts.c1, r1 := sat32 (gatherResult c1).2
                        r2 := sat32 (clippedOf ((gatherResult c1).1.map (·.2))) }) ∧
        ∀ ws w ws2 w2, opc c.raw = 3 →
          let hq := y.dim 1
          let rows := (List.range (hq * y.dim 2)).map fun key => (key, attnRow c1 key)
          let out := rows.map fun r => (r.1, r.2.out y.fmt (bit (u16 c.raw 0x2C) 0) f32one)
          v.planElems eng y (out.flatMap fun r => r.2.1.zipIdx.map fun x => (x.2 :: [r.1 % hq, r.1 / hq], x.1)) [] = (.ok ws, w) →
          (match c.desc 0x20 with
            | none => (.ok ws, w)
            | some st => w.planElems eng st
                (rows.flatMap fun r => [([0, r.1 % hq, r.1 / hq], r.2.m.toNat), ([1, r.1 % hq, r.1 / hq], r.2.l.toNat)]) ws) = (.ok ws2, w2) →
          landed w2 ws2 { status := .ok, detail := sat32 (rows.countP fun r => isNan32 r.2.m), r0 := sat32 d.counts.c1, r1 := sat32 d.counts.c2
                          r2 := sat32 (rows.countP fun r => (ofF32 r.2.l).isZero), r3 := sat32 ((out.map fun r => r.2.2).foldl (· + ·) 0) }))
  let bump (d : DocWork) : DocCounts := if opc c.raw = 1 then { d.counts with c1 := d.counts.c1 + 1 } else d.counts
  let started (u r : State) (t : DocTask) (d : DocWork) : Prop := r = ({ u with cmds := r.cmds, stackTab := r.stackTab } : State) ∧ others s r ∧
    work r { d with counts := bump d, tasks := d.tasks.map fun x => if x.stack = k ∧ x.bank = t.bank then { x with st := .active } else x } ∧
    r.stack k = { u.stack k with tasks := min ((u.stack k).tasks + 1) (2 ^ 64 - 1), program := Assoc.set 0 (u.stack k).program t.bank (opc c.raw) } ∧
    ∀ j, j ≠ k → r.stack j = u.stack j
  (∀ a t, s.docOn k = some c → k ∈ c.doc.planned → (c.doc.tasks.find? fun t => t.stack == k && t.bank / 64 == a && t.st == .waiting) = some t →
    (s.activeOn k a < planBudget s.planEff → s.docentsStopped k a = false →
      ∃ r, exec (.docentTaskStart k a env) s = .next r ∧ started (s.environ env) r t c.doc) ∧
    ((planBudget s.planEff ≤ s.activeOn k a ∨ s.docentsStopped k a = true) → exec (.docentTaskStart k a env) s = .next (s.environ env).refresh)) ∧
  (∀ a t, s.docOn k = some c → k ∉ c.doc.planned → opc c.raw ≠ 2 → opc c.raw ≠ 3 → c.doc.tasks = [] →
    ((mkTasks k c.placedItems).find? fun t => t.bank / 64 == a) = some t → s.activeOn k a < planBudget s.planEff → s.docentsStopped k a = false →
    ∃ r, exec (.docentTaskStart k a env) s = .next r ∧
      started (s.environ env) r t { c.doc with planned := insertNat c.doc.planned k, tasks := mkTasks k c.placedItems }) ∧
  (∀ a ns v p, s.docOn k = some c → k ∉ c.doc.planned → opc c.raw = 2 → k = c.home →
    (s.environ env).readElems ((c.eng none).by (registrarSeer k)) (c.descD 0x0C) (tuples (c.descD 0x0C).size) = (.ok (ns, []), v) → v.stalled = false →
    c.picks ns = .error p → ∃ r, exec (.docentTaskStart k a env) s = .next r ∧
      (r.cmd c.id).map (·.ending) = some (some { status := .indexOutOfRange, detail := p })) ∧
  (∀ a l seqs v qs w p, s.docOn k = some c → k ∉ c.doc.planned → opc c.raw = 3 → (s.ctx c.id.ctx).layout = some l →
    (s.environ env).readElems ((c.eng none).by (registrarSeer k)) (c.descD 0x0C) (tuples (c.descD 0x0C).size) = (.ok (seqs, []), v) →
    v.readElems ((c.eng none).by (registrarSeer k)) (c.descD 0x0E) (tuples (c.descD 0x0E).size) = (.ok (qs, []), w) → w.stalled = false →
    (seqs.zipIdx.find? fun x => decide (l.seqMax ≤ x.1)) = some p → ∃ r, exec (.docentTaskStart k a env) s = .next r ∧
      (r.cmd c.id).map (·.ending) = some (some { status := .indexOutOfRange, detail := p.2 })) ∧
  (∀ b t, s.docTask k b .computed = some (c, t) → ∃ r v, exec (.docentTaskComplete k b) s = .next r ∧
    let d : DocWork := { c.doc with
      tasks := c.doc.tasks.filter (fun x => !(x.stack == k && x.bank == b))
      arrived := c.doc.arrived ++ (if opc c.raw = 3 then [] else t.parts.reverse.map fun p => (k, p)) }
    v = ({ s with cmds := v.cmds, stackTab := v.stackTab, fresh := s.fresh + 1 } : State) ∧ others s v ∧ work v d ∧
    v.stack k = { s.stack k with busy := min ((s.stack k).busy + Config.freeNat s.fresh) (2 ^ 64 - 1) } ∧ (∀ j, j ≠ k → v.stack j = s.stack j) ∧
    closes v r d) ∧
  (∀ t es v, s.docOn k = some c → (c.doc.tasks.find? fun t => t.stack == k && c.takesSlice t) = some t →
    s.readElems ((c.eng none).by (mergeSeer k)) (s.sliceOf c t).1 (s.sliceOf c t).2.flatten = (.ok (es, []), v) → v.stalled = false →
    ∃ r, exec (.broadcastSlice k) s = .next r ∧ r = ({ v with cmds := r.cmds } : State) ∧ others s r ∧
      work r { c.doc with
        slice := Assoc.set 0 c.doc.slice k (Assoc.get 0 c.doc.slice k + 1)
        tasks := c.doc.tasks.map fun y => if c.takers t y then { y with buf := y.buf ++ [regroup (s.sliceOf c t).2 es], sent := y.sent + 1 } else y }) ∧
  (∀ p rest, (s.cmds.findSome? fun c => if c.stage == .running && c.ending.isNone then
      (c.doc.arrived.find? fun a => a.1 == k).map fun a => (c, a.2) else none) = some (c, p) → c.doc.arrived = (k, p) :: rest →
    ∃ r v m rv, exec (.mergePartial k env) s = .next r ∧
      v = ({ s.environ env with cmds := v.cmds, fresh := s.fresh + 1 } : State) ∧ others s v ∧
      work v { c.doc with arrived := rest, merged := m, recv := rv } ∧ closes v r { c.doc with arrived := rest, merged := m, recv := rv } ∧
      (opc c.raw ≠ 3 → rv = c.doc.recv ∧ (findPart c.doc.merged k p.key = none → m = c.doc.merged ++ [(k, p)])) ∧
      (opc c.raw = 3 → rv = c.doc.recv ∨ ∃ y, findPart m k p.key = some y ∧
        rv = (k, p.key, y.m) :: c.doc.recv.filter fun r => !(r.1 == k && r.2.1 == p.key)) ∧
      (∀ q, opc c.raw ≠ 3 → findPart c.doc.merged k p.key = some q → findPart m k p.key = some { q with
        o := (q.o.zip p.o).map fun x => if u8 c.raw 0x20 = 2 then gatherMax x.1 x.2 else f32add x.1 x.2, n := q.n + p.n }) ∧
      (∀ q, opc c.raw = 3 → findPart c.doc.merged k p.key = some q → ∃ y, findPart m k p.key = some y ∧
        (⟨y.m, y.l, y.o⟩ : Row) = (Row.mk q.m q.l q.o).merge ⟨p.m, p.l, p.o⟩) ∧
      (opc c.raw = 3 → findPart c.doc.merged k p.key = none → ∃ y, findPart m k p.key = some y ∧
        (⟨y.m, y.l, y.o⟩ : Row) = (Row.mk f32negInf 0 (List.replicate p.o.length 0)).merge ⟨p.m, p.l, p.o⟩) ∧
      ∀ j key, (j ≠ k ∨ key ≠ p.key) → findPart m j key = findPart c.doc.merged j key)

/-- CACHE_OPEN whose turn to commit has come sets its context's layout, with no step open and every length 0, and reports N, the
window's size and the side record's size (R298, R299). SB_CACHE_FREE read by a PF answers FREE and captures RESERVED and MAPPED for
that function's next reads of them; a VF reads 0 (R308, R442).
STEP_COMMIT and STEP_ABORT whose turn to commit has come. With no step open they commit and change nothing (R317). With one open,
STEP_COMMIT writes the placards it rebuilds, and once no waiting write lies in a leaving frame every reserved page becomes mapped and
every leaving page free, and the committed lengths are the reserved ones (R316); an uncorrectable token fails it with no other change.
STEP_ABORT frees the reserved pages, maps the leaving ones again, and puts the reserved lengths back (R317). Each reports the pages
that were reserved and those that were leaving (R320). -/
def Obligations.CacheOpensAndItsStepsEnd : Prop := (∀ (s : State), s.Calm →
  (∀ id c, s.running id 4 0x10 = some c → s.commitsNow c → s.unconserved = [] → ∃ t, exec (.cacheOpen id) s = .next t ∧
    let l := layoutOf c.raw
    Committed s t c { status := .ok, detail := l.n, r0 := l.window % 2 ^ 32, r1 := l.window / 2 ^ 32, r2 := l.side } ∧
    t.ctx id.ctx = { s.ctx id.ctx with layout := some l, stepOpen := false, clen := [], rlen := [], shrunk := [] } ∧
    (∀ k, k ≠ id.ctx → t.ctx k = s.ctx k) ∧ (∀ n, t.sem n = s.sem n + signalAdd c n) ∧
    t = { s.afterCommit t with ctxs := t.ctxs }) ∧
  (∀ fn k, s.regsOpen fn = true → k < 16 → ∃ t, exec (.sbCacheFreeRead fn k) s = .next t ∧
    let x := s.stack k
    t.out = s.out ++ [.regRead fn (sbBase k + 0x3008) 4 (if fn = 0 ∨ fn = 64 then x.free else 0)] ∧
    Assoc.get none t.cacheCap (16 * fn + k) =
      (if fn = 0 ∨ fn = 64 then some (x.reserved, x.mapped, true, true) else Assoc.get none s.cacheCap (16 * fn + k)) ∧
    (∀ j, j ≠ 16 * fn + k → Assoc.get none t.cacheCap j = Assoc.get none s.cacheCap j) ∧
    t = ({ s with out := t.out, cacheCap := t.cacheCap } : State).refresh)) ∧
  (∀ (s : State) (id : CmdId) (c : Cmd) (env : Env), s.Calm → s.stalled = false → env.fatal = none → env.sram = none →
  let u := s.environ env
  let x := s.ctx id.ctx
  let n (st : PageSt) : Nat := min (s.pages.countP fun e => e.ctx == id.ctx && e.st == st) 0xFFFFFFFF
  (x.stepOpen = false → s.commitsNow c → s.unconserved = [] →
    (∀ l, x.layout = some l → s.running id 4 0x12 = some c → u.leavingClear id.ctx = true →
      ∃ t, exec (.stepCommit id env) s = .next t ∧ Committed u t c okEnd ∧ t = u.afterCommit t) ∧
    (s.running id 4 0x13 = some c → ∃ t, exec (.stepAbort id) s = .next t ∧ Committed s t c okEnd ∧ t = s.afterCommit t)) ∧
  (∀ l ws fs v, x.stepOpen = true → x.layout = some l → s.running id 4 0x12 = some c →
    u.rebuildPages id.ctx l (s.rebuilt id.ctx l) = (ws, fs, v) → v.stalled = false → v.commitsNow c →
    (fs = [] → (∀ w ∈ ws, v.holdsAt w.1 = false) → v.leavingClear id.ctx = true → (v.applyCommit id.ctx).unconserved = [] →
      ∃ t, exec (.stepCommit id env) s = .next t ∧
      Recorded v t c { status := .ok, detail := n .reserved, r0 := n .leaving, r1 := min (s.rebuilt id.ctx l).length 0xFFFFFFFF
                       r2 := min x.clenChanges 0xFFFFFFFF } ∧
      (∀ a w, t.mem.read a w = ((v.mem.unveil c.stamp false).writeAll ws).read a w) ∧
      t.ctx id.ctx = { x with clen := x.rlen, stepOpen := false, shrunk := [] } ∧ (∀ k, k ≠ id.ctx → t.ctx k = s.ctx k) ∧
      t.stackTab = (s.movePages (s.commitPages id.ctx)).stackTab ∧
      ((s.pages.map fun e => (e.ctx, e.seq, e.pair, e.page)).Nodup → ∀ e, e ∈ t.pages ↔ e ∈ s.pages ∧ (e.ctx ≠ id.ctx ∨ e.st = .mapped ∨ e.st = .invalid) ∨
        e.ctx = id.ctx ∧ e.st = .mapped ∧ { e with st := .reserved } ∈ s.pages) ∧
      (∀ n, t.sem n = s.sem n + signalAdd c n) ∧
      t = { v.afterCommit t with ctxs := t.ctxs, pages := t.pages, stackTab := t.stackTab }) ∧
    (v.leavingClear id.ctx = false → fs = [] → (∀ w ∈ ws, v.holdsAt w.1 = false) → ∃ t, exec (.stepCommit id env) s = .next t ∧
      (t.cmd id).map (·.stage) = some .finished ∧ t.pages = s.pages ∧ t.ctxs = s.ctxs ∧ t.out = s.out) ∧
    (∀ e, partsEnding 16 fs = some e → ∃ t, exec (.stepCommit id env) s = .next t ∧ Recorded v t c e ∧ t.pages = s.pages ∧ t.ctxs = s.ctxs)) ∧
  (x.stepOpen = true → s.running id 4 0x13 = some c → s.commitsNow c → (s.applyAbort id.ctx).unconserved = [] →
    ∃ t, exec (.stepAbort id) s = .next t ∧ Committed s t c { status := .ok, detail := n .reserved, r0 := n .leaving } ∧
      t.pages = replacePages s.pages (s.abortPages id.ctx) ∧ t.stackTab = (s.movePages (s.abortPages id.ctx)).stackTab ∧
      t.ctx id.ctx = { x with rlen := x.clen, stepOpen := false, shrunk := [] } ∧ (∀ k, k ≠ id.ctx → t.ctx k = s.ctx k) ∧
      (∀ n, t.sem n = s.sem n + signalAdd c n) ∧
      t = { s.afterCommit t with ctxs := t.ctxs, pages := t.pages, stackTab := t.stackTab }))

/-- STEP_RESERVE whose turn to commit has come, its whole list read and its plan good, reserves what the plan says at once: the pages take
their new states, each newly reserved frame belongs to the context, a frame that another context held is zero, the last entry
naming a sequence sets its reserved length, and the record counts pages and sequences (R313 to R315, R320). A list with a bad entry, and
one for which frames lack, reserve nothing and end with INDEX_OUT_OF_RANGE and the first bad entry, or PAGES_EXHAUSTED and the frames
lacking. -/
def Obligations.StepReserveHoldsFramesOrNone : Prop := ∀ (s : State) (id : CmdId) (env : Env) (c : Cmd) (l : Layout) (ns : List Nat) (v : State),
  env.fatal = none → env.sram = none → s.Calm → s.stalled = false → s.running id 4 0x11 = some c →
  (s.ctx id.ctx).layout = some l →
  (s.environ env).readElems (c.eng none) (c.descD 0x0A) (tuples (c.descD 0x0A).size) = (.ok (ns, []), v) → v.stalled = false → v.commitsNow c →
  let es := stepList ns
  let p := v.planReserve id.ctx l es
  let none_ (t : State) : Prop := t.mem = v.mem.unveil c.stamp true ∧ t.sems = v.sems ∧
    t = { v.afterCommit t with tess := t.tess, pipes := t.pipes, reqs := t.reqs, dies := t.dies, fresh := t.fresh, stackTab := t.stackTab }
  (∀ i, (List.range es.length).find? (v.stepEntryBad id.ctx l es) = some i → ∃ t, exec (.stepReserve id env) s = .next t ∧
    Recorded v t c { status := .indexOutOfRange, detail := i } ∧ none_ t) ∧
  ((List.range es.length).find? (v.stepEntryBad id.ctx l es) = none →
    let cs := countingEntries es
    let h := cs.foldl (v.stepSeq id.ctx l) {}
    (h.lack ≠ [] → ∃ t, exec (.stepReserve id env) s = .next t ∧ Recorded v t c
      { status := .pagesExhausted, detail := (h.lack.map (·.2)).foldl (· + ·) 0, r0 := (h.lack.map fun x => 2 ^ x.1).foldl (· + ·) 0 } ∧ none_ t) ∧
    (h.lack = [] → p.1 = { status := .ok, detail := min h.newPages 0xFFFFFFFF, r0 := cs.countP fun e => (v.ctx id.ctx).rlenOf e.1 == 0 && e.2 != 0
                           r1 := cs.countP fun e => (v.ctx id.ctx).rlenOf e.1 != 0 && e.2 == 0, r2 := min p.2.zero.length 0xFFFFFFFF
                           r3 := min h.returned 0xFFFFFFFF } ∧
      p.2.pages = h.changed ∧ ((v.applyReserve id.ctx p.2).unconserved = [] →
      ∃ t, exec (.stepReserve id env) s = .next t ∧ Recorded v t c p.1 ∧
        t.pages = replacePages v.pages h.changed ∧ (t.ctx id.ctx).stepOpen = true ∧
        (∀ q : Nat, (t.ctx id.ctx).rlenOf q = ((es.reverse.find? fun e => e.1 == (q : Int)).map (·.2.toNat)).getD ((v.ctx id.ctx).rlenOf q)) ∧
        (t.ctx id.ctx).clen = (v.ctx id.ctx).clen ∧ (∀ k, k ≠ id.ctx → t.ctx k = v.ctx k) ∧
        (∀ e ∈ h.changed, e.st = .reserved → t.owner (frameKey e.frameId) = some id.ctx) ∧
        (∀ f ∈ h.taken, v.owner (frameKey f) ≠ some id.ctx → ∀ a w, v.frameAddr f ≤ a →
          a < v.frameAddr f + 16384 + sideBytes (v.stack f.stack).sidemax → undefAt (t.mem.strays a w) a = none → t.mem.read a w = 0) ∧
        (∀ a w, (∀ f ∈ p.2.zero, a < v.frameAddr f ∨ v.frameAddr f + 16384 + sideBytes (v.stack f.stack).sidemax ≤ a) →
          t.mem.read a w = (v.mem.unveil c.stamp false).read a w) ∧
        (∀ n, t.sem n = v.sem n + signalAdd c n) ∧
        t = { v.afterCommit t with ctxs := t.ctxs, pages := t.pages, lastOwner := t.lastOwner, stackTab := t.stackTab })))

/-- A DISPATCH that may start but for expert numbers in another module asks for them (R333). A running one (R336, R338): a bad expert
number of a copy that has no entry fails it with INDEX_OUT_OF_RANGE and the smallest such copy; while its couriers cannot supply every
entry and all result space it stays as it is, and once they can it takes a FREE entry for each new copy. It then reads the token row of
each RESERVED entry and sends its COPY to the expert's module; the copy to an unreachable module ends in DONE_U unsent. -/
def Obligations.DispatchReservesThenSends : Prop := ∀ (s : State) (id : CmdId) (env : Env) (c : Cmd),
  env.fatal = none → env.sram = none → s.Calm → s.stalled = false →
  let u := s.environ env
  (∀ ns miss v, s.dispatchWaits id = some c → u.expertNumbers c = (.ok (ns, miss), v) → v.stalled = false → miss ≠ [] →
    exec (.dispatch id env) s = .next (v.fetch id miss).refresh) ∧
  (s.running id 5 1 = some c →
  let h := u8 c.raw 0x20
  let row := u16 c.raw 0x22 * (Fmt.ofCode (u8 c.raw 0x21)).bytes
  (∀ ns v, c.work = .none → u.expertNumbers c = (.ok (ns, []), v) → v.stalled = false →
    let made := v.madeCopies id.ctx h
    (∀ q, dispatchCopies v made ns = .error q → ∃ t, exec (.dispatch id env) s = .next t ∧
      (t.cmd id).map (·.ending) = some (some { status := .indexOutOfRange, detail := q }) ∧ t.ledger = s.ledger ∧ t.frames = s.frames) ∧
    ∀ l, dispatchCopies v made ns = .ok l →
      (v.canReserve row (v.newCopies id.ctx h l) = false → ∃ t, exec (.dispatch id env) s = .next t ∧ t = v.refresh) ∧
      (v.canReserve row (v.newCopies id.ctx h l) = true → (∀ x ∈ l, v.senderOf x.2 < 6) →
        let w := u.dispatchReserve id
        (∀ x ∈ v.newCopies id.ctx h l, ∃ k, k / 65536 = v.senderOf x.2 ∧ (v.entry k).st = .free ∧ w.entry k =
          { v.entry k with st := .reserved, ctx := id.ctx, handle := h, copyNo := x.1, dest := expertModule (s.expertEntry x.2), res := [] }) ∧
        (∀ k, (v.entry k).st ≠ .free → w.entry k = v.entry k) ∧
        w = ({ v with cmds := w.cmds, ledger := w.ledger, couriers := w.couriers } : State))) ∧
  (∀ w, c.work = .disp w → w.sent = false →
    let ks := (u.entriesOf id.ctx h).filter fun k => (s.entry k).st == .reserved
    let away (k : Nat) : Bool := decide ((s.entry k).dest ≠ s.modid) && !(s.peer (s.entry k).dest).reachable
    ∀ rows v, u.readRows (c.eng none) (c.descD 0x0A) (ks.map fun k => [(s.entry k).copyNo / (c.descD 0x0C).dim 0]) = (.ok (rows, []), v) →
      v.stalled = false → ∃ t, exec (.dispatch id env) s = .next t ∧
        t = ({ v with cmds := t.cmds, ledger := t.ledger, couriers := t.couriers, frames := t.frames, handles := t.handles,
                      groups := t.groups, out := t.out } : State) ∧
        (∀ k ∈ ks, away k = false → t.entry k = { s.entry k with st := .sent }) ∧
        (∀ k ∈ ks, away k = true → (s.handle (handleKey (s.entry k).ctx (s.entry k).handle)).st = .sending →
          t.entry k = { s.entry k with st := .doneU, res := [] }) ∧
        (∀ k, k ∉ ks → t.entry k = s.entry k) ∧
        (∀ x ∈ ks.zip rows, (s.entry x.1).dest = s.modid →
          let e := ((w.copies.find? fun y => y.1 == (s.entry x.1).copyNo).map fun y => y.2.1).getD 0
          let f : Frame := { type := 1, omod := s.modid, old := x.1 / 65536, ledger := x.1 % 65536, gen := (s.entry x.1).gen, expert := e, rrow := row,
                             step := u32 c.raw 0x24, fmt := (c.descD 0x0A).fmt.code, payload := x.2 }
          (x.1 / 65536, expertSlot (s.expertEntry e) % 6, f) ∈ t.frames) ∧
        ∀ ld n, (ks.countP fun k => !away k && k / 65536 == ld) = n → 0 < n → (t.courier ld).sent = min ((s.courier ld).sent + n) (2 ^ 64 - 1)))

/-- A COMBINE that is ready (R350 to R353): each output element adds, over its token's copies in order, the weight times the processed
copy's result, each step rounded, to the base or zero; the outcomes tensor holds each copy's outcome; the record counts copies by
outcome. A handle with no such exchange gives the base alone and MISMATCH, and is left as it is. Until it is ready it waits. -/
def Obligations.CombineSumsItsCopies : Prop := ∀ (s : State) (id : CmdId) (env : Env) (c : Cmd), env.fatal = none → env.sram = none →
  s.Calm → s.stalled = false → s.running id 5 2 = some c →
  let u := s.environ env
  let h := s.handle (64 * id.ctx + u8 c.raw 0x20)
  let es := (s.entriesOf id.ctx (u8 c.raw 0x20)).map s.entry
  let ended (e : LEntry) : Bool := e.st == .doneP || e.st == .doneC || e.st == .doneU
  let d := c.descD 0x08
  let k := (c.descD 0x0C).dim 0
  let same : Bool := (h.st == .sending || h.st == .out) && h.t == d.dim 1 && h.k == k && h.rout == d.dim 0 && h.rfmt == u8 c.raw 0x24
  (same = true → es.all ended = false → ∃ t, exec (.combine id env) s = .next t ∧ t = u.refresh) ∧
  (∀ bs v ws v2 pl v3 pl2 v4, (same = true → es.all ended = true) →
    (match c.desc 0x0A with
      | some b => u.readElems (c.eng none) b (tuples d.size)
      | none => (.ok ([], []), u)) = (.ok (bs, []), v) →
    v.readElems (c.eng none) (c.descD 0x0C) (tuples (c.descD 0x0C).size) = (.ok (ws, []), v2) →
    let f := Fmt.ofCode (u8 c.raw 0x24)
    let live := if same then es else []
    let find (q : Nat) : Option LEntry := live.find? fun e => e.copyNo == q
    let term (t x q : Nat) (acc : W32) : W32 := match find (q + k * t) with
      | some e => if e.st = .doneP then
          f32add acc (f32mul (BitVec.ofNat 32 (ws.getD (q + k * t) 0)) (toF32 (f.decode (elemAt f e.res (x * f.nibbles))))) else acc
      | none => acc
    let outs := (tuples d.size).zipIdx.map fun x => convert d.fmt false (ofF32 ((List.range k).foldl (fun a q => term (x.1.getD 1 0) (x.1.headD 0) q a)
      (match bs[x.2]? with
        | some b => toF32 ((c.descD 0x0A).fmt.decode b)
        | none => 0)))
    let code (q : Nat) : Nat := match find q with
      | some e => if e.st = .doneP then 0 else if e.st = .doneC then 1 else 2
      | none => 3
    v2.planElems (c.eng none) d ((tuples d.size).zip (outs.map (·.enc))) [] = (.ok pl, v3) →
    (match c.desc 0x22 with
      | some o => v3.planElems (c.eng none) o ((tuples o.size).zip ((List.range (k * d.dim 1)).map code)) pl
      | none => (.ok pl, v3)) = (.ok pl2, v4) → v4.stalled = false →
    ∃ t, exec (.combine id env) s = .next t ∧
      let n (p : LSt → Bool) : Nat := live.countP fun e => p e.st
      let clip := min (2 ^ 31 - 1) (outs.countP (·.clipped))
      let lost := n fun x => x != .doneP && x != .doneC
      let e : Ending := { status := .ok, detail := live.length, r0 := n (· == .doneP), r1 := n (· == .doneC), r2 := lost,
                          r3 := (if same then 0 else 2 ^ 31) + clip }
      Finishes (v4.modCmd id fun x => { x with effects := if same then [.handleFree (u8 c.raw 0x20)] else [] }) t id e pl2)

/-- EXPERT_OPEN and EXPERT_CLOSE whose turn to commit has come: EXPERT_OPEN, once the step's set of every slot is empty, makes the step the
newest of each slot and open, with CAP and BROW, and judges the copies held for it (R344, R346); EXPERT_CLOSE closes the open step
of each slot. EXPERT_GATHER plans the rows of the bins in order of acceptance (R347); EXPERT_RETURN answers every copy of its bins
that is not yet answered (R348). -/
def Obligations.ExpertCommandsActOnTheirSlots : Prop := ∀ (s : State) (id : CmdId) (c : Cmd), s.Calm →
  let step := u32 c.raw 0x20
  let first := u16 c.raw 0x24
  let n := u16 c.raw 0x26
  let slots := slotRange c.raw
  (s.running id 5 3 = some c → (∀ i ∈ slots, ((s.slot i).bin step).copies = []) → s.commitsNow c →
    (∀ i ∈ slots, ∀ h ∈ (s.courier (i % 6)).held, h.1 = i → h.2.step ≠ step) → ∃ t, exec (.expertOpen id) s = .next t ∧
      Committed s t c { status := .ok, detail := n } ∧ (∀ k, k ∉ slots → t.slot k = s.slot k) ∧
      (∀ i ∈ slots, (t.slot i).newest = some (step, u16 c.raw 0x28, u16 c.raw 0x2A) ∧ (t.slot i).isOpen = true ∧
        (t.slot i).bin step = { used := true, step := step } ∧ (t.slot i).bin (step + 1) = (s.slot i).bin (step + 1)) ∧
      (∀ k, t.courier k = s.courier k) ∧ t = { s.afterCommit t with slots := t.slots, couriers := t.couriers }) ∧
  (∀ e x, n = 1 → s.running id 5 3 = some c → ((s.slot first).bin step).copies = [] → s.commitsNow c →
    ((s.mem.unveil c.stamp false) = s.mem) → c.writes = [] → s.openSlot id.ctx step (u16 c.raw 0x28) (u16 c.raw 0x2A) first = (e, x) →
    ∃ t, exec (.expertOpen id) s = .next t ∧ Recorded s t c { status := .ok, detail := 1, r0 := sat32 e.1, r1 := sat32 e.2 } ∧
      t = x.afterCommit t) ∧
  (s.running id 5 3 = some c → (∃ i ∈ slots, ((s.slot i).bin step).copies ≠ []) → exec (.expertOpen id) s = .next s.refresh) ∧
  (s.running id 5 4 = some c → s.commitsNow c →
    let os := slots.filter fun i => (s.slot i).isOpen
    let held (i : Nat) : Nat := match (s.slot i).newest with
      | some m => ((s.slot i).binOf m.1).copies.length
      | none => 0
    ∃ t, exec (.expertClose id) s = .next t ∧
      Committed s t c { status := .ok, detail := sat32 os.length, r0 := sat32 ((os.map held).foldl (· + ·) 0) } ∧
      (∀ i ∈ slots, t.slot i = { s.slot i with isOpen := false }) ∧ (∀ k, k ∉ slots → t.slot k = s.slot k) ∧
      t = { s.afterCommit t with slots := t.slots }) ∧
  (∀ env v pl v2 pl2, env.fatal = none → env.sram = none → s.stalled = false → s.running id 5 5 = some c →
    let d := c.descD 0x08
    let bin (i : Nat) : List BinCopy := ((s.slot i).binOf step).copies
    (∀ i ∈ slots, (bin i).length ≤ d.dim 1 ∧ ∀ b ∈ bin i, b.frame.payload.length ≤ ceilDiv (d.dim 0 * d.fmt.nibbles) 2) →
    (s.environ env).planElems (c.eng none) d (slots.zipIdx.flatMap fun i => (List.range (d.dim 1)).flatMap fun r =>
      rowElems d [r, i.2] (((bin i.1)[r]?.map fun x => x.frame.payload).getD [])) [] = (.ok pl, v) →
    (match c.desc 0x2C with
      | some o => v.planElems (c.eng none) o (slots.zipIdx.map fun i => ([i.2], (bin i.1).length)) pl
      | none => (.ok pl, v)) = (.ok pl2, v2) → v2.stalled = false → ∃ t, exec (.expertGather id env) s = .next t ∧
      let have_ := slots.countP fun i => ((s.slot i).bin step).used && ((s.slot i).bin step).step == step
      Finishes (v2.modCmd id fun x => { x with effects := [.gatherBins step first n] }) t id
        { status := .ok, detail := sat32 ((slots.map fun i => (bin i).length).foldl (· + ·) 0), r0 := have_ } pl2) ∧
  (∀ env v rows, env.fatal = none → env.sram = none → s.stalled = false → s.running id 5 6 = some c →
    let d := c.descD 0x0A
    let all := slots.zipIdx.flatMap fun x => (((s.slot x.1).binOf step).copies.zipIdx.map fun y => (x.1, x.2, y.2, y.1))
    let need := all.filter fun x => !x.2.2.2.acked && !x.2.2.2.gone && decide (x.2.2.1 < d.dim 1)
    (s.environ env).readRows (c.eng none) d (need.map fun x => [x.2.2.1, x.2.1]) = (.ok (rows, []), v) → v.stalled = false → c.work = .none →
    ∃ t, exec (.expertReturn id env) s = .next t ∧
      let sent := all.foldl (fun t x => t.sendResult x.1 step d.fmt.code x.2.2.2
        (((((need.map fun x => x.2.2.2.ref).zip rows).find? fun g => g.1 == x.2.2.2.ref).map (·.2)).getD [])) v
      t = ({ sent with cmds := t.cmds } : State) ∧
      (t.cmd id).map (fun x => (x.work, x.effects)) = some (.returning, [.emptyBins step first n])) ∧
  (∀ slot fmt b bytes, b ∈ ((s.slot slot).bin step).copies →
    (b.acked = true ∨ b.gone = true → s.sendResult slot step fmt b bytes = s) ∧
    (b.acked = false → b.gone = false →
      let f : Frame := { b.frame with type := 3, reason := 0, binref := b.ref, fmt := fmt, reserved := 0, payload := padTo b.frame.rrow bytes }
      let set (g : BinCopy → BinCopy) : State := s.modSlot slot fun x => x.setBin step { x.bin step with
        copies := (x.bin step).copies.map fun y => if y.ref = b.ref then g y else y }
      (b.frame.omod = s.modid → s.sendResult slot step fmt b bytes =
        { set fun y => { y with sent := some (fmt, f.payload) } with frames := s.frames ++ [(slot % 6, b.frame.old, f)] }) ∧
      (b.frame.omod ≠ s.modid → (s.peer b.frame.omod).reachable = false → s.sendResult slot step fmt b bytes = set fun y => { y with gone := true }) ∧
      (b.frame.omod ≠ s.modid → (s.peer b.frame.omod).reachable = true → s.sendResult slot step fmt b bytes =
        (set fun y => { y with sent := some (fmt, f.payload) }).sendFrame (slot % 6) b.frame.omod b.frame.old f)))

/-- A COPY frame is judged by its module's own expert map, by the first row of R343 that applies: refused with its reason, held, or put
into its bin under a new BINREF and accepted; its home courier counts it. A copy held for 256 µs is judged as the table then stands,
and refused with reason 3 where it would be held (R344). A frame with a nonzero reserved field is discarded and counted in STALE
(R358). One that is not the first on its way between two couriers of this module, or whose crossing resynchronises, has not arrived yet
(R42, R61). -/
def Obligations.CopiesAreJudged : Prop := ∀ (s : State) (ld : Nat) (f : Frame), s.Calm →
  let back (x : State) (src r b : Nat) : State :=
    x.sendFrame src f.omod f.old { f with type := 2, reason := r, binref := b, payload := [], reserved := 0 }
  let e := s.expertEntry f.expert
  (f.type = 1 → ld < 6 → s.frameDue ld f = false → exec (.copyFrame ld f) s = .next s) ∧
  (f.type = 1 → ld < 6 → s.frameDue ld f = true →
    let s0 : State := { s with frames := s.frames.eraseP fun x => x.2 == (ld, f) }
    let home := bits e 23 16 % 6
    let x := s.slot (bits e 23 16)
    let s1 := s0.modCourier home fun c => { c with received := min (c.received + 1) (2 ^ 64 - 1) }
    ∃ t, exec (.copyFrame ld f) s = .next t ∧
      (f.reserved ≠ 0 → t = (s0.modCourier ld fun c => { c with stale := min (c.stale + 1) (2 ^ 64 - 1) }).refresh) ∧
      (f.reserved = 0 → (bit e 31 = false ∨ bits e 29 24 ≠ s.modid) → t = (back s0 ld 6 0).refresh) ∧
      (f.reserved = 0 → bit e 31 = true → bits e 29 24 = s.modid →
        ((s.ctx (bits e 15 8)).st ≠ .opened → t = (back s1 home 5 0).refresh) ∧
        ((s.ctx (bits e 15 8)).st = .opened →
          let keep := (s1.modCourier home fun c => { c with held := c.held ++ [(bits e 23 16, f)] }).refresh
          (x.newest = none → t = keep) ∧
          ∀ step cap brow, x.newest = some (step, cap, brow) →
            (step < f.step → t = keep) ∧ (f.step < step ∨ f.step = step ∧ x.isOpen = false → t = (back s1 home 2 0).refresh) ∧
            (f.step = step → x.isOpen = true →
              let n := (x.binOf step).copies.length
              let room := (s.courier home).used + f.payload.length ≤ s.binMib * 2 ^ 20
              (brow < f.payload.length → t = (back s1 home 4 0).refresh) ∧
              (f.payload.length ≤ brow → cap ≤ n → t = (back s1 home 1 0).refresh) ∧
              (f.payload.length ≤ brow → n < cap → ¬ room → t = (back s1 home 4 0).refresh) ∧
              (f.payload.length ≤ brow → n < cap → room →
                let ref := 6 * (s.courier home).nextRef + home
                let b : BinSet := { used := true, step := step, copies := (x.binOf step).copies ++ [{ ref := ref, frame := f }] }
                t = (back ((s1.modSlot (bits e 23 16) fun y => y.setBin step b).modCourier home fun c =>
                  { c with nextRef := c.nextRef + 1, used := c.used + f.payload.length }) home 0 ref).refresh))))) ∧
  (∀ k slot, (s.courier ld).held[k]? = some (slot, f) →
    let s1 := s.modCourier ld fun c => { c with held := c.held.eraseIdx k }
    ∃ t, exec (.holdExpiry ld k) s = .next t ∧
    ((bit e 31 = false ∨ bits e 29 24 ≠ s.modid) → t = (back s1 ld 6 0).refresh) ∧
    (bit e 31 = true → bits e 29 24 = s.modid →
      ((s.ctx (bits e 15 8)).st ≠ .opened → t = (back s1 ld 5 0).refresh) ∧
      ((s.ctx (bits e 15 8)).st = .opened →
        ((s.slot slot).newest = none → t = (back s1 ld 3 0).refresh) ∧
        (∀ step cap brow, (s.slot slot).newest = some (step, cap, brow) →
          (step < f.step → t = (back s1 ld 3 0).refresh) ∧ (f.step < step → t = (back s1 ld 2 0).refresh) ∧
          (f.step = step → t = (s1.giveVerdict ld slot (bits e 15 8) f).2.refresh)))))

/-- Frames at the origin (R339 to R342, R358): a VERDICT moves a SENT entry to ACCEPTED or DONE_C, a RESULT an ACCEPTED entry to DONE_P with
its row, and is acknowledged each time, a RETURN an ACCEPTED entry to DONE_C; an outcome is counted, and frees the entry of an
ORPHAN handle. Any other frame is discarded and counted in STALE. A RESULT_ACK marks its copy acknowledged, and the last one
completes the EXPERT_RETURN; an unacknowledged RESULT is sent again. -/
def Obligations.FramesMoveLedgerEntries : Prop := ∀ (s : State) (ld : Nat) (f : Frame), s.Calm → ld < 6 → s.frameDue ld f = true →
  let s0 : State := { s with frames := s.frames.eraseP fun x => x.2 == (ld, f) }
  let k := 65536 * ld + f.ledger
  let e := s.entry k
  let hit : Prop := e.gen = f.gen ∧ f.omod = s.modid ∧ f.old = ld
  let plus (n : Nat) : Nat := min (n + 1) (2 ^ 64 - 1)
  let stale (t : State) : Prop := t = (s0.modCourier ld fun c => { c with stale := plus c.stale }).refresh
  let live : Prop := (s.handle (handleKey e.ctx e.handle)).st ≠ .orphan
  let moves (t : State) (x : LEntry) (g : Courier → Courier) : Prop :=
    t.entry k = x ∧ (∀ j, j ≠ k → t.entry j = s.entry j) ∧ t.courier (k / 65536) = g (s.courier (k / 65536)) ∧
    (∀ j, j ≠ k / 65536 → t.courier j = s.courier j) ∧
    t = ({ s0 with cmds := t.cmds, ledger := t.ledger, couriers := t.couriers } : State)
  (f.type = 2 → f.reserved = 0 → ∃ t, exec (.verdict ld f) s = .next t ∧
    (hit → e.st = .sent → f.reason = 0 → moves t { e with st := .accepted } id) ∧
    (hit → e.st = .sent → f.reason ≠ 0 → live → moves t { e with st := .doneC, res := [] } fun c => { c with capacity := plus c.capacity }) ∧
    (hit → e.st = .sent → f.reason ≠ 0 → ¬ live → t.entry k = { gen := (e.gen + 1) % 65536 }) ∧
    (¬ hit ∨ e.st ≠ .sent → stale t)) ∧
  (f.type = 3 → f.reserved = 0 → ∃ t, exec (.result ld f) s = .next t ∧
    let ack : Frame := { f with type := 4, payload := [] }
    (hit → e.st = .accepted → live → e.dest = s.modid → t.entry k = { e with st := .doneP, res := f.payload } ∧
      t.frames = s0.frames ++ [(ld, f.binref % 6, ack)] ∧ t.courier (k / 65536) = { s.courier (k / 65536) with processed := plus (s.courier (k / 65536)).processed } ∧
      t = ({ s0 with cmds := t.cmds, ledger := t.ledger, couriers := t.couriers, frames := t.frames } : State)) ∧
    (hit → e.st = .accepted → live → e.dest ≠ s.modid → t.entry k = { e with st := .doneP, res := f.payload } ∧
      t = ({ s0 with cmds := t.cmds, ledger := t.ledger, couriers := t.couriers, groups := t.groups, out := t.out } : State)) ∧
    (hit → e.st = .doneP → t = (s0.sendFrame ld e.dest (f.binref % 6) ack).refresh) ∧
    (¬ hit ∨ (e.st ≠ .accepted ∧ e.st ≠ .doneP) → stale t)) ∧
  (f.type = 5 → f.reserved = 0 → ∃ t, exec (.returnF ld f) s = .next t ∧
    (hit → e.st = .accepted → live → moves t { e with st := .doneC, res := [] } fun c => { c with capacity := plus c.capacity }) ∧
    (¬ hit ∨ e.st ≠ .accepted → stale t)) ∧
  (f.type = 4 → f.reserved = 0 → ∃ t, exec (.resultAck ld f) s = .next t ∧
    let mine (b : BinCopy) : Bool := b.ref == f.binref && b.sent.isSome && b.frame.ledger == f.ledger && b.frame.gen == f.gen
    ((∀ x ∈ s.slots, ∀ b ∈ x.2.even.copies ++ x.2.odd.copies, mine b = false) → stale t) ∧
    ((∃ x ∈ s.slots, ∃ b ∈ x.2.even.copies ++ x.2.odd.copies, mine b = true) →
      t = ({ s0.mapBins (fun b => if mine b then { b with acked := true } else b) with cmds := t.cmds } : State) ∧
      ∀ c, s.cmd c.id = some c → c.stage = .running → c.ending = none → c.work = .returning →
        let cs := t.binsOf (u16 c.raw 0x24) (u16 c.raw 0x26) (u32 c.raw 0x20)
        (cs.all fun b => b.acked || b.gone) = true → (t.cmd c.id).map (·.ending) =
          some (some { status := .ok, detail := sat32 (cs.countP (·.acked)), r0 := sat32 (cs.countP (·.gone)) }))) ∧
  (∀ ref b fmt bytes, ((s.slots.flatMap fun x => if x.1 % 6 = ld then x.2.even.copies ++ x.2.odd.copies else []).find? fun b =>
      b.ref == ref && !b.acked && !b.gone) = some b → b.sent = some (fmt, bytes) → ∃ t, exec (.resultResend ld ref) s = .next t ∧
    t = (s.sendFrame ld b.frame.omod b.frame.old
      { b.frame with type := 3, reason := 0, binref := b.ref, fmt := fmt, reserved := 0, payload := padTo b.frame.rrow bytes }).refresh)

/-- BAR4 (R443, R457, R520). A read of populated memory answers its bytes; where a granule of it is uncorrectable the answer is poisoned
and counted; one that overlaps a held write waits for it. A write of populated memory lands, or is held as it is where its array die
may not be written. A read of anything else answers Unsupported Request, a write of it is discarded, and each is counted. What waited for
held writes takes place once they have landed: doorbells, and reads (R392). -/
def Obligations.HostAccessesReachMemory : Prop := (∀ (s : State) (port off : Nat) (env : Env), env.fatal = none → s.Calm →
  s.stalled = false →
  let u := s.environ env
  let pa := s.bar4Addr port off
  let lost (x : State) : State := x.modHport port fun p => { p with unpop := min 0xFFFFFFFF (p.unpop + 1) }
  (∀ len, s.bar4Open port off len = true → s.readWaits pa len = true →
    exec (.bar4Read port off len env) s = .next ({ u with reads4 := [(port, off, len)] } : State).refresh) ∧
  (∀ len, s.bar4Open port off len = true → s.readWaits pa len = false → ∃ t, exec (.bar4Read port off len env) s = .next t ∧
    (s.allPopulated pa len = false → t = ({ lost u with out := s.out ++ [.bar4Ur port off] } : State).refresh) ∧
    (s.allPopulated pa len = true → (∀ g ∈ granulesOf pa len, g ∉ u.mem.bad) →
      t = ({ u with out := s.out ++ [.bar4Data port off ((List.range len).map fun i => u.mem.read (pa + i)) false], ecc := t.ecc
                    stackTab := t.stackTab } : State).refresh ∧
      ((∀ g ∈ granulesOf pa len, g ∉ u.mem.weak) → t.ecc = u.ecc)) ∧
    (s.allPopulated pa len = true → (∃ g ∈ granulesOf pa len, g ∈ u.mem.bad) → ∃ bs, bs.length = len ∧
      (∀ i, i < len → (pa + i) / 32 ∉ u.mem.bad → bs[i]? = some (u.mem.read (pa + i))) ∧
      (t.hport port) = { s.hport port with poisoned := min 0xFFFFFFFF ((s.hport port).poisoned + 1) } ∧ (∀ k, k ≠ port → t.hport k = s.hport k) ∧
      t = ({ u with out := s.out ++ [.bar4Data port off bs true], ecc := t.ecc, evd := t.evd, fresh := s.fresh + 1, hports := t.hports
                    stackTab := t.stackTab } : State).refresh)) ∧
  (∀ bs : List Byte, s.bar4Open port off bs.length = true → ∃ t, exec (.bar4Write port off bs env) s = .next t ∧
    (s.allPopulated pa bs.length = false → t = (lost u).refresh) ∧
    (s.allPopulated pa bs.length = true → (∀ i k a, i < bs.length → s.arrayDieOf (pa + i) = some (k, a) → s.holdsWrites k a = false) →
      (∀ a w, t.mem.read a w = (u.mem.writeAll (spread pa bs)).read a w) ∧
      t = ({ u with mem := t.mem, ecc := t.ecc, evd := t.evd, stackTab := t.stackTab } : State).refresh) ∧
    (∀ k a, s.allPopulated pa bs.length = true → pa % 2048 + bs.length ≤ 2048 → s.arrayDieOf pa = some (k, a) → s.holdsWrites k a = true →
      t = ({ u with held := s.held ++ [⟨k, a, pa, bs, .host port, u.heldBy k a⟩] } : State).refresh))) ∧
  (∀ (s : State) (fn off size v : Nat), s.bells = [(fn, off, size, v)] → s.reads4 = [] →
    (s.postedLanded (fn / 64) = false → s.flushPosted = s) ∧
    (s.postedLanded (fn / 64) = true → s.flushPosted = ({ s with bells := [] } : State).bellWrite fn off size v)) ∧
  ∀ (s : State) (port off len : Nat), s.bells = [] → s.reads4 = [(port, off, len)] →
    (s.readWaits (s.bar4Addr port off) len = true → s.flushPosted = s) ∧
    (s.readWaits (s.bar4Addr port off) len = false → s.flushPosted = ({ s with reads4 := [] } : State).bar4Read port off len)

/-- A Function Level Reset (R458) puts every context of its function out of service: an OPEN one drains without records, a draining one goes
on without records, a TORN_DOWN one is released, a CLOSED one has every queue disabled. The function's configuration returns to
reset, and a firmware update through its mailbox ends (R484). Clearing VF Enable does so to every VF of the port and to no PF (R439),
a smaller NumVFs to those above it; PERST# and a DL_Down do so to every function of the port and reset its link status and BAR4 base. -/
def Obligations.FunctionsAndPortsReset : Prop := ∀ (s : State), s.Calm → s.pkg = .active →
  let ctxs (p : Nat → Bool) (t : State) : Prop := ∀ k, k < 256 →
    let c := s.ctx k
    if p c.fn then match c.st with
      | .opened => (t.ctx k).st = .draining ∧ (t.ctx k).cause = .reinitialise ∧ (t.ctx k).flr = true
      | .draining => t.ctx k = { c with flr := true }
      | .tornDown => t.ctx k = { c with st := .closed, layout := none, stepOpen := false, clen := [], rlen := [], shrunk := [], flr := false }
      | .closed => t.ctx k = c ∧ ∀ q, q < 16 → t.queue (16 * k + q) = Queue.off (s.queue (16 * k + q))
    else t.ctx k = c
  let same (t : State) : State := { s.afterTear t with
    allocs := t.allocs, descs := t.descs, funcs := t.funcs, hports := t.hports, queues := t.queues, sems := t.sems, update := t.update }
  let funcs (p : Nat → Bool) (t : State) : Prop := (∀ k, t.func k = if p k then {} else s.func k) ∧
    (∀ u, s.update = some u → t.update = if (match u.who with
      | .mailbox port => p (64 * port)
      | .pldm => false) then none else some u) ∧ (s.update = none → t.update = none)
  (∀ fn, fn < 128 → s.fnEnabled fn = true → s.configOpen = true → ∃ t, exec (.functionLevelReset fn) s = .next t ∧
    ctxs (· == fn) t ∧ funcs (· == fn) t ∧ t = ({ same t with hports := s.hports } : State)) ∧
  (∀ port, port < 2 → s.portEnabled port = true → s.configOpen = true → ∃ t, exec (.vfEnableClear port) s = .next t ∧
    let p (k : Nat) : Bool := k / 64 == port && decide (0 < k % 64)
    ctxs p t ∧ funcs p t ∧ t = same t ∧ ∀ k, t.hport k = if k = port then { s.hport k with numVf := 0 } else s.hport k) ∧
  (∀ port num, port < 2 → s.portEnabled port = true → s.boot.st = .ready → num ≤ Assoc.get 0 s.totalVf port → num < (s.hport port).numVf →
    ∃ t, exec (.vfEnableSet port num) s = .next t ∧
    let p (k : Nat) : Bool := k / 64 == port && decide (num < k % 64)
    ctxs p t ∧ funcs p t ∧ t = same t ∧ ∀ k, t.hport k = if k = port then { s.hport k with numVf := num } else s.hport k) ∧
  (∀ port i, port < 2 → s.portEnabled port = true → (i = .perstAssert port ∨ i = .dlDown port) → ∃ t, exec i s = .next t ∧
    let p (k : Nat) : Bool := k / 64 == port
    ctxs p t ∧ funcs p t ∧ t = same t ∧ ∀ k, t.hport k = if k = port then { s.hport k with
      linkup := false, flitMode := false, degraded := false, rate := 0, width := 0, numVf := 0, bar4 := 0 } else s.hport k) ∧
  (∀ fn, fn < 128 → s.configOpen = false → exec (.functionLevelReset fn) s = .next s ∧ ∀ port, exec (.vfEnableClear port) s = .next s)

/-- What the host sets in a function's configuration: NumVFs (R439), Bus Master Enable with the fields of R437 (R453), a vector's mask and
MSI-X Enable, with the messages that Pending Bits ask for (R454), the invalidation of translated addresses (R447), a trained link's rate,
width and Flit mode (R436, R438), and a context's table root, with which its cached translations go (R444, R446). Nothing else changes.
Before the module answers configuration requests they have no effect (R467).
When the PFs of every enabled port are in D3hot the package begins to enter S2: acceptance stops and a quiescent point is requested, which
kills every running command (R546, R373); a return to D0 ends S2, or the entry, with its request for a quiescent point unless
something else waits for one (R547). -/
def Obligations.HostSetsFunctionsLinksAndPower : Prop := (∀ (s : State) (port fn : Nat), s.Calm →
  let func (t : State) (f : Func) : Prop := t.func fn = f ∧ (∀ k, k ≠ fn → t.func k = s.func k) ∧
    t = ({ s with funcs := t.funcs, out := t.out } : State).refresh
  let hport (t : State) (p : HPort) : Prop := t.hport port = p ∧ (∀ k, k ≠ port → t.hport k = s.hport k) ∧
    t = ({ s with hports := t.hports } : State).refresh
  (port < 2 → s.portEnabled port = true →
    (∀ num, s.boot.st = .ready → num ≤ Assoc.get 0 s.totalVf port → (s.hport port).numVf ≤ num → ∃ t, exec (.vfEnableSet port num) s = .next t ∧
      hport t { s.hport port with numVf := num }) ∧
    (∀ rate width flit, rate ≤ 5 → 1 ≤ width → width ≤ s.arranged port → ∃ t, exec (.hostLinkUp port rate width flit) s = .next t ∧
      hport t { s.hport port with linkup := true, rate := rate, width := width, flitMode := rate == 5 || (flit && decide (3 ≤ rate))
                                  degraded := (s.hport port).degraded || decide (rate < 3) || decide (width < s.arranged port) })) ∧
  (fn < 128 → s.fnEnabled fn = true →
    (∀ on cfg, s.configOpen = true → ∃ t, exec (.busMasterEnableWrite fn ⟨on, cfg⟩) s = .next t ∧ t.out = s.out ∧
      func t { s.func fn with busMaster := on, cfg := cfg, ats := if cfg.ats then (s.func fn).ats else [] }) ∧
    (∀ on cfg, s.configOpen = false → exec (.busMasterEnableWrite fn ⟨on, cfg⟩) s = .next s) ∧
    (∀ lo hi, ∃ t, exec (.atsInvalidation fn lo hi) s = .next t ∧ t.out = s.out ∧
      func t { s.func fn with ats := (s.func fn).ats.filter fun r => decide (hi ≤ r.1) || decide (r.1 + r.2 ≤ lo) }) ∧
    (∀ v on unmask, v < Assoc.get 0 s.vectors fn → ∃ t, exec (.msixVectorUnmask fn v on unmask) s = .next t ∧
      let un := if unmask then insertNat (s.func fn).unmasked v else (s.func fn).unmasked.filter (· != v)
      let due := if on then (s.func fn).pend.filter un.contains else []
      func t { s.func fn with msixOn := on, unmasked := un, pend := (s.func fn).pend.filter fun x => !due.contains x } ∧
      t.out = s.out ++ due.map fun x => .msix (fn / 64) (fn % 64) x)) ∧
  (∀ ctx value, ctx < 256 → s.regsOpen fn = true → ∃ t, exec (.hiCtxRootWrite fn ctx value) s = .next t ∧
    (fn = 64 * (s.ctx ctx).port → t.ctx ctx = { s.ctx ctx with root := value / 2 ^ 15 % 2 ^ 28 * 2 ^ 15 + value % 2 } ∧
      (∀ k, k ≠ ctx → t.ctx k = s.ctx k) ∧ t = ({ s with ctxs := t.ctxs, tlb := s.tlb.filter fun e => e.ctx != ctx } : State).refresh) ∧
    (fn ≠ 64 * (s.ctx ctx).port → t = s.refresh))) ∧
  (∀ (s : State) (port : Nat), s.Calm → port < 2 → s.portEnabled port = true →
  (s.configOpen = false → exec (.d3hotEntry port) s = .next s ∧ exec (.d0Return port) s = .next s) ∧
  (s.configOpen = true → ∃ t, exec (.d3hotEntry port) s = .next t ∧ t.func (64 * port) = { s.func (64 * port) with d3 := true } ∧
    (∀ k, k ≠ 64 * port → t.func k = s.func k) ∧
    ((∃ p, p < 2 ∧ p ≠ port ∧ s.portEnabled p = true ∧ (s.func (64 * p)).d3 = false) → t = ({ s with funcs := t.funcs } : State).refresh) ∧
    ((∀ p, p < 2 → p ≠ port → s.portEnabled p = true → (s.func (64 * p)).d3 = true) → s.boot.st = .ready → s.pkg = .active →
      t.pkg = .entering ∧ t.quiesce = true ∧ (s.quiesce = false → ∀ id c, t.cmd id = some c → c.stage ≠ .running) ∧
      t = ({ s.afterStop t with funcs := t.funcs, pkg := t.pkg, quiesce := t.quiesce, ctxs := t.ctxs } : State))) ∧
  (s.configOpen = true → ∃ t, exec (.d0Return port) s = .next t ∧ t.func (64 * port) = { s.func (64 * port) with d3 := false } ∧
    (∀ k, k ≠ 64 * port → t.func k = s.func k) ∧ t.pkg = .active ∧
    (s.pkg = .active ∨ (s.pkg = .s2 ∧ s.wantsQuiesce = false) → t.quiesce = s.quiesce ∧ t = ({ s with funcs := t.funcs, pkg := .active } : State).refresh) ∧
    (s.pkg = .entering → s.wantsQuiesce = false → t = ({ s with funcs := t.funcs, pkg := .active, quiesce := false } : State).refresh) ∧
    (s.pkg ≠ .active → s.wantsQuiesce = true → t.quiesce = true)))

/-- A port sends its TRAIN flit; one whose received TRAIN flits name the neighbour that its group expects, and a port that fits the
group (log entry 76), comes UP; the first port of a group brings the group up with the next link epoch, empty buffers and the
advertised credits (R409, R412, R415). Any other stays in training, with event 0x0305. A port in G2 wakes, and its crossing counts a
resynchronisation (R63). A port that loses block lock, or is asked to retrain, leaves UP (R414). With another port of its group UP, the
flits it sent last that are not acknowledged leave on the others; else the group goes DOWN: its flits and packets in flight are dropped
and counted, every module a packet of this one was for is marked unreachable, and a packet in transit leaves a fence. -/
def Obligations.PortsTrainAndLeaveUp : Prop := (∀ (s : State) (port nbr nport lepoch : Nat), s.Calm → port < 48 → s.boot.st = .ready →
  (s.port port).st ≠ .up → nbr < 64 → lepoch < 256 →
  let x : Port := { s.port port with st := .training, nbr := nbr, nport := nport % 64 }
  ∃ t, exec (.portTrained port nbr nport lepoch) s = .next t ∧ (∀ k, k ≠ port → t.port k = s.port k) ∧
    (∀ k, t.crossing k = if k = portCrossing port ∧ portDomain port ∈ s.offDom then
      { s.crossing k with near := false, far := false, resyncs := min 0xFF ((s.crossing k).resyncs + 1) } else s.crossing k) ∧
    t = ({ s with ports := t.ports, groups := t.groups, couriers := t.couriers, evd := t.evd, out := t.out, cross := t.cross
                  offDom := s.offDom.filter (· != portDomain port) } : State).refresh ∧
    (s.portGroup port = none → t.port port = x ∧ t.groups = s.groups ∧ t.out = s.out ∧ t.evd = s.evd) ∧
    ∀ g, s.portGroup port = some g →
      ((entryNbr (s.groupEntry g) ≠ nbr ∨ s.portFits g port nport = false) → t.port port = x ∧ t.groups = s.groups ∧
        t.out = s.out ++ [.trainFlit port s.modid (s.group g).lepoch] ∧
        t.evd = (s.event (ldDie (port / 8)) 0x0305 port (256 * nbr + nport % 64)).evd) ∧
      (entryNbr (s.groupEntry g) = nbr → s.portFits g port nport = true →
        let e := if s.groupUp g then (s.group g).lepoch else (max (s.group g).lepoch lepoch + 1) % 256
        t.port port = { x with st := .up, trains := min (x.trains + 1) (2 ^ 32 - 1), fails := [] } ∧ (t.group g).lepoch = e ∧
        .trainFlit port s.modid (s.group g).lepoch ∈ t.out ∧
        ((∀ ld, ld < 6 → (s.courier ld).waiting = []) → t.out = s.out ++ [.trainFlit port s.modid (s.group g).lepoch] ∧
          (s.groupUp g = true → t.group g = s.group g) ∧
          (s.groupUp g = false → t.group g = { lepoch := e, credits := [(0, 512), (1, 512), (2, 1024), (3, 64)] })))) ∧
  (∀ (s : State) (port : Nat) (i : Instr), s.Calm →
  (i = .blockLockLoss port ∨ ∃ fn, i = .ldWpRetrain fn port ∧ s.regsOpen fn = true ∧ isPf fn = true ∧ port < 48 ∧
    s.domainOff (portDomain port) = false) →
  ((s.port port).st ≠ .up → exec i s = .next s.refresh) ∧
  ((s.port port).st = .up → ∃ t, exec i s = .next t ∧ (t.port port).st = .training ∧ (t.port port).fails = [] ∧
    (∀ k, (t.port k).st = if k = port then .training else (s.port k).st) ∧
    t.crossing (portCrossing port) = { s.crossing (portCrossing port) with
      near := false, far := false, resyncs := min 0xFF ((s.crossing (portCrossing port)).resyncs + 1) } ∧
    (∀ k, k ≠ portCrossing port → t.crossing k = s.crossing k) ∧
    (s.portGroup port = none → t = ({ s with ports := t.ports, cross := t.cross } : State).refresh) ∧
    ∀ g, s.portGroup port = some g →
      ((∃ k ∈ s.groupPorts g, k ≠ port ∧ (s.port k).st = .up) →
        ((∃ k ∈ s.groupPorts g, k ≠ port ∧ (s.port k).st = .up ∧ s.resyncing (portCrossing k) = false) →
          ∀ x ∈ (t.group g).replay, x.1 ≠ port) ∧
        (t.group g).replay.map (·.2.seq) = (s.group g).replay.map (·.2.seq) ∧ (t.group g).lepoch = (s.group g).lepoch ∧
        t = ({ s with ports := t.ports, groups := t.groups, out := t.out, cross := t.cross } : State).refresh) ∧
      ((∀ k ∈ s.groupPorts g, k ≠ port → (s.port k).st ≠ .up) →
        let gr := s.group g
        let gone := headersOf (gr.replay.map (·.2) ++ gr.wait ++ gr.ahead) ++ gr.asm.map fun a => Packet.ofBytes (padTo 16 a.2)
        let n := gr.replay.length + gr.wait.length + gr.ahead.length + ((gr.asm.map fun a => ceilDiv a.2.length 244).foldl (· + ·) 0)
        t.group g = { lepoch := gr.lepoch } ∧
        (t.courier (s.groupDie g)).pkLost = min ((s.courier (s.groupDie g)).pkLost + n) (2 ^ 64 - 1) ∧
        (∀ p ∈ gone, p.smod = s.modid → (t.peer p.dmod).reachable = false) ∧
        (∀ m, (∀ p ∈ gone, p.smod = s.modid → p.dmod ≠ m) → t.peer m = s.peer m) ∧
        (∀ p ∈ gone, p.smod ≠ s.modid → p.dmod ≠ s.modid → ∃ e, (p.smod, p.dmod, e) ∈ (t.courier (s.groupDie g)).fences) ∧
        t = ({ s.afterStop t with ports := t.ports, peers := t.peers, ledger := t.ledger, handles := t.handles, slots := t.slots
                                  cross := t.cross } : State))))

/-- A flit at an UP port (R410 to R414). One that is damaged, malformed or of another link epoch is counted and answered with a NAK. A
sound one acknowledges flits and returns credits; a DATA flit in its turn joins its channel's packet, which the last one delivers, and
returns a credit; one ahead within the window is kept; any other is dropped. More than 16 codewords that the FEC could not correct
within 1 ms retrain the port, and the NAK leaves on another of its group. A gap that stays unfilled is answered with a NAK; 4 µs
without progress resend every unacknowledged flit, and the eighth time a port retrains. -/
def Obligations.FlitsAreTakenInOrder : Prop := ∀ (s : State) (g : Nat), s.Calm →
  let gr := s.group g
  let nak (x : Group) : Flit := x.stamp { ftype := 0, nak := true }
  (∀ port f, s.portGroup port = some g → (s.port port).st = .up → flitFits f = true → s.resyncing (portCrossing port) = false →
    s.groupOk g = true → port ∈ s.groupPorts g →
    let p := s.port port
    let old := p.fails.filter fun t => decide (s.clock < t + 100000)
    let lost := if f.fecOk then 0 else max 1 f.fecFailed
    let q : Port := { p with feccor := min (p.feccor + f.fecCorrected) (2 ^ 64 - 1)
                             fecunc := min (p.fecunc + lost) (2 ^ 64 - 1)
                             fails := old ++ List.replicate lost s.clock }
    ∃ t, exec (.flitReceive port f) s = .next t ∧
      ((f.sound = false ∨ f.lepoch ≠ gr.lepoch) → q.fails.length ≤ 16 →
        let good := f.fecOk && f.crc == crc32 f.covered && f.lepoch != gr.lepoch
        t.port port = (if good then { q with stale := min (q.stale + 1) (2 ^ 64 - 1) } else { q with crcerr := min (q.crcerr + 1) (2 ^ 64 - 1) }) ∧
        (∀ k, k ≠ port → t.port k = s.port k) ∧ t.group g = { gr with naking := true } ∧ (∀ k, k ≠ g → t.group k = s.group k) ∧
        t = ({ s with ports := t.ports, groups := t.groups, out := s.out ++ [.flit port (nak gr)] } : State).refresh) ∧
      ((f.sound = false ∨ f.lepoch ≠ gr.lepoch) → 16 < q.fails.length → (t.port port).st = .training ∧
        ∀ k r, ((s.upPorts g).filter (· != port)) = k :: r → .flit k (nak (t.group g)) ∈ t.out) ∧
      (f.sound = true → f.lepoch = gr.lepoch → f.nak = false → gr.wait = [] →
        let left := gr.replay.filter fun x => !seqLe x.2.seq f.ackseq
        let g1 := if f.ackv && left.length != gr.replay.length then { gr with replay := left, stuck := 0 } else gr
        let g2 := { g1 with credits := Assoc.set 0 g1.credits f.crvc (g1.credit f.crvc + f.credits) }
        t.port port = q ∧ (∀ k, k ≠ port → t.port k = s.port k) ∧ (∀ k, k ≠ g → t.group k = s.group k) ∧
        (f.ftype ≠ 1 → t.group g = g2 ∧ t = ({ s with ports := t.ports, groups := t.groups } : State).refresh) ∧
        (f.ftype = 1 → f.seq = gr.rxSeq → gr.ahead = [] →
          let bytes := (if f.sop then [] else Assoc.get [] gr.asm f.vc) ++ padTo f.vlen f.payload
          let g3 := { g2 with rxSeq := (gr.rxSeq + 1) % 4096, asm := Assoc.set [] gr.asm f.vc (if f.eop then [] else bytes), naking := false }
          t.group g = g3 ∧ t.out = s.out ++ [.flit port ({ g3 with naking := gr.naking }.stamp { ftype := 0, crvc := f.vc, credits := 1 })] ∧
          t = ({ s with ports := t.ports, groups := t.groups, out := t.out, inbox := t.inbox, couriers := t.couriers } : State).refresh ∧
          let pk := Packet.ofBytes bytes
          let known := ptypes.contains pk.ptype && pk.reserved == 0
          t.inbox = (if f.eop && known then s.inbox ++ [(port / 8, pk)] else s.inbox) ∧
          ∀ k, t.courier k = if f.eop = true ∧ known = false ∧ k = port / 8 then { s.courier k with pkBad := min ((s.courier k).pkBad + 1) (2 ^ 64 - 1) }
            else s.courier k) ∧
        (f.ftype = 1 → f.seq ≠ gr.rxSeq →
          t.group g = (if (f.seq + 4096 - gr.rxSeq) % 4096 ≤ 256 ∧ ∀ h ∈ gr.ahead, h.seq ≠ f.seq then { g2 with ahead := gr.ahead ++ [f] } else g2) ∧
          t = ({ s with ports := t.ports, groups := t.groups } : State).refresh))) ∧
  (s.groupUp g = true → (gr.naking = true ∨ gr.ahead ≠ []) → ∃ t, exec (.gapTimeout g) s = .next t ∧ t.group g = { gr with naking := true } ∧
    (∀ k, k ≠ g → t.group k = s.group k) ∧
    t = ({ s with groups := t.groups, out := s.out ++ [.flit ((s.upPorts g).headD 0) (nak gr)] } : State).refresh) ∧
  (s.groupUp g = true → gr.replay ≠ [] → s.sendPorts g ≠ [] → ∃ t, exec (.ackTimeout g) s = .next t ∧
    (gr.stuck < 7 → (t.group g).stuck = gr.stuck + 1 ∧ (t.group g).replay.map (·.2.seq) = gr.replay.map (·.2.seq) ∧
      t.out.length = s.out.length + gr.replay.length ∧ (∀ x ∈ (t.group g).replay, x.1 ∈ s.sendPorts g) ∧ (∀ k, k ≠ g → t.group k = s.group k) ∧
      t = ({ s with ports := t.ports, groups := t.groups, out := t.out } : State).refresh) ∧
    (7 ≤ gr.stuck → ∃ p ∈ s.sendPorts g, (t.port p).st = .training ∧ ∀ k, k ≠ p → (t.port k).st = (s.port k).st))

/-- A packet at a link die, in its turn and with its way open (R42, R61, R423), leaves the die's queue. One with a nonzero reserved
field is counted in BADTYPE; one for another module is forwarded with HOPS less one, unless it has none left, a fence holds it or there
is no route (R417, R418, R428); one of VC0 to VC2 from an unreachable module or an earlier peer epoch is stale (R426). A request of
this module's own is served by its export entry (R421, R422, R397, R520), and answered. -/
def Obligations.PacketsAreForwardedOrServed : Prop := ∀ (s : State) (ld : Nat) (p : Packet) (env : Env), s.Calm → env.fatal = none →
  s.stalled = false → s.packetDue ld p.ptype p = true →
  let u := s.environ env
  let plus (n : Nat) : Nat := min (n + 1) (2 ^ 64 - 1)
  let at_ (x : State) : State := { x with inbox := s.inbox.erase (ld, p) }
  let q := s.peer p.smod
  let pa := s.exportAddr p.addr
  let n := 32 * p.lenw
  let may (perm : Nat) : Prop := bit (s.exportOf p.addr) 63 = true ∧ bit (s.exportOf p.addr) perm = true ∧ s.allPopulated pa n = true
  (p.ptype = 0x01 → p.dmod = s.modid → s.readWaits pa n = true → exec (.readReq ld p env) s = .next s) ∧
  (∀ i, packetRow ld p env = some i → (p.ptype = 0x01 → p.dmod = s.modid → s.readWaits pa n = false) → ∃ t, exec i s = .next t ∧
    let v := if p.ptype = 0x01 ∨ p.ptype = 0x02 then u else s
    (p.reserved ≠ 0 → t = ((at_ v).modCourier ld fun c => { c with pkBad := plus c.pkBad }).refresh) ∧
    (p.reserved = 0 → p.dmod ≠ s.modid → (s.courier ld).fences = [] → (s.courier (s.routeDie p.dmod)).fences = [] →
      let drop := (at_ v).modCourier ld fun c => { c with pkHop := plus c.pkHop }
      (p.hops = 0 → (∀ k, t.courier k = drop.courier k) ∧ t = ({ at_ v with couriers := t.couriers } : State).refresh) ∧
      (0 < p.hops → s.routeValid p.dmod = true → (s.routeOut p.dmod).isSome = true → ∃ w, t = (w.sendPacket { p with hops := p.hops - 1 }).refresh ∧
        w = ({ at_ v with couriers := w.couriers } : State) ∧ ∀ k, w.courier k = s.courier k) ∧
      (0 < p.hops → (s.routeValid p.dmod = false ∨ s.routeOut p.dmod = none) → 3 ≤ p.ptype / 16 →
        (∀ k, t.courier k = drop.courier k) ∧ t = ({ at_ v with couriers := t.couriers } : State).refresh) ∧
      (0 < p.hops → (s.routeValid p.dmod = false ∨ s.routeOut p.dmod = none) → p.ptype / 16 < 3 → ∃ w, t = (w.pathLostTo p).refresh ∧
        w = ({ at_ v with couriers := w.couriers } : State) ∧ ∀ k, w.courier k = drop.courier k)) ∧
    (p.reserved = 0 → p.dmod ≠ s.modid → (p.smod, p.dmod, p.pepoch) ∈ (s.courier ld).fences →
      t = ((at_ v).modCourier ld fun c => { c with pkFenced := plus c.pkFenced }).refresh) ∧
    (p.reserved = 0 → p.dmod = s.modid → p.ptype < 0x30 → (q.reachable = false ∨ p.pepoch ≠ q.epoch) →
      t = ((at_ v).modCourier ld fun c => { c with pkStale := plus c.pkStale }).refresh)) ∧
  (p.reserved = 0 → p.dmod = s.modid → q.reachable = true → p.pepoch = q.epoch →
    let answer (x : State) (pt len st : Nat) (data : List Byte) : State := (x.originate p.smod pt p.tag len st 0 data).refresh
    (p.ptype = 0x01 → s.readWaits pa n = false → ∃ t, exec (.readReq ld p env) s = .next t ∧
      (¬ may 62 → t = answer (at_ u) 0x11 0 2 []) ∧
      (may 62 → (∀ g ∈ granulesOf pa n, g ∉ u.mem.bad) →
        t = answer { at_ u with ecc := t.ecc, stackTab := t.stackTab } 0x11 p.lenw 0 ((List.range n).map fun i => u.mem.read (pa + i))) ∧
      (may 62 → (∃ g ∈ granulesOf pa n, g ∈ u.mem.bad) → t = answer { at_ u with ecc := t.ecc, evd := t.evd, stackTab := t.stackTab } 0x11 0 1 [])) ∧
    (p.ptype = 0x02 → ∃ t, exec (.writeReq ld p env) s = .next t ∧
      (¬ may 61 → t = answer (at_ u) 0x12 0 2 []) ∧
      (may 61 → (∀ i k a, i < n → s.arrayDieOf (pa + i) = some (k, a) → s.holdsWrites k a = false) →
        (∀ a w, t.mem.read a w = (u.mem.writeAll (spread pa (padTo n p.payload))).read a w) ∧
        t = answer { at_ u with mem := t.mem, ecc := t.ecc, evd := t.evd, stackTab := t.stackTab } 0x12 0 0 []) ∧
      (∀ k a, may 61 → 0 < n → pa % 2048 + n ≤ 2048 → s.arrayDieOf pa = some (k, a) → s.holdsWrites k a = true →
        t = ({ at_ u with held := s.held ++ [⟨k, a, pa, padTo n p.payload, .remote ld p.smod p.tag p.pepoch, u.heldBy k a⟩] } : State).refresh)) ∧
    (p.ptype = 0x03 → ∃ t, exec (.signalReq ld p) s = .next t ∧
      let k := semNo (u16 p.payload 0)
      (s.semOpen k = true → (∀ j, t.sem j = if j = k then s.sem j + BitVec.ofNat 32 (u16 p.payload 2) else s.sem j) ∧
        t = answer { at_ s with sems := t.sems } 0x13 0 0 []) ∧
      (s.semOpen k = false → t = answer ((at_ s).event (ldDie ld) 0x0309 p.smod (u16 p.payload 0)) 0x13 0 0 [])))

/-- A response ends its request (R422, R395, R397): a READ_RESP brings the command its granules, a WRITE_ACK counts one write
acknowledged, a SIGNAL_ACK finishes its REMOTE_SIGNAL; a status other than 0 ends the command with ECC_UNCORRECTABLE,
TRANSLATION_FAULT, which tears its context down, or WRITE_HELD_TIMEOUT; a WRITE_ACK that comes after the decision to kill fails nothing
(R370). A response that answers nothing has no effect. A COURIER packet gives its frame to the courier it is for (R343, R357). -/
def Obligations.ResponsesReachTheirCommands : Prop := ∀ (s : State) (ld : Nat) (p : Packet), s.Calm → s.packetDue ld p.ptype p = true → p.status ≤ 3 → p.reserved = 0 → p.dmod = s.modid → (s.peer p.smod).reachable = true → p.pepoch = (s.peer p.smod).epoch →
  let s0 : State := { s with inbox := s.inbox.erase (ld, p) }
  let fits (pt : Nat) (k : ReqKind → Bool) (r : Req) : Prop := p.ptype = pt ∧ s.reqs.find? (fun r => r.peer == p.smod && r.tag == p.tag && k r.kind) = some r
  let others (id : CmdId) (t : State) : Prop := ∀ j, j ≠ id → (t.cmd j).map Cmd.core = (s.cmd j).map Cmd.core
  let failed (t : State) (r : Req) (c : Cmd) (pa : Nat) : Prop := c.open_ = true →
    (p.status = 1 → (t.cmd r.cmd).map (·.ending) = some (some (Fail.ecc pa).ending) ∧ t.ctxs = s.ctxs ∧ others r.cmd t) ∧
    (p.status = 2 → (∃ va, (t.cmd r.cmd).map (·.ending) = some (some (Fail.trans va).ending)) ∧
      ((s.ctx r.cmd.ctx).st = .opened → (t.ctx r.cmd.ctx).st = .draining ∧ (t.ctx r.cmd.ctx).cause = .translationFault)) ∧
    (p.status = 3 → (∃ k, (t.cmd r.cmd).map (·.ending) = some (some (Fail.held k).ending)) ∧ t.ctxs = s.ctxs ∧ others r.cmd t)
  (∀ r pa n c, fits 0x11 ReqKind.isRead r → r.kind = .read pa n → s.cmd r.cmd = some c → ∃ t, exec (.readResp ld p) s = .next t ∧
    (p.status = 0 → (t.cmd r.cmd).map Cmd.core = some (Cmd.core { c with remote := c.remote ++ spread pa (padTo (32 * n) p.payload) }) ∧
      others r.cmd t ∧ t = ({ s0 with reqs := s.reqs.erase r, cmds := t.cmds, tess := t.tess } : State)) ∧ failed t r c pa) ∧
  (∀ r pa n c, fits 0x12 ReqKind.isWrite r → r.kind = .write pa n → s.cmd r.cmd = some c → ∃ t, exec (.writeAck ld p) s = .next t ∧
    (p.status = 0 ∨ c.stage = .killing ∨ c.stage = .queued → (t.cmd r.cmd).map Cmd.core = some (Cmd.core { c with unacked := c.unacked - 1 }) ∧
      others r.cmd t ∧ t = ({ s0 with reqs := s.reqs.erase r, cmds := t.cmds } : State)) ∧
    (c.stage ≠ .killing → c.stage ≠ .queued → failed t r c pa)) ∧
  (∀ r c, fits 0x13 (· == .signal) r → s.cmd r.cmd = some c → ∃ t, exec (.signalAck ld p) s = .next t ∧
    let d := { c with unacked := 0, acked := true }
    (c.stage ≠ .running → (t.cmd r.cmd).map Cmd.core = some (Cmd.core d) ∧ others r.cmd t ∧
      t = ({ s0 with reqs := s.reqs.erase r, cmds := t.cmds } : State)) ∧
    (c.stage = .running → c.ending = none → s.earlierDone c.id = false →
      (t.cmd r.cmd).map Cmd.core = some (Cmd.core { d with stage := .finished, ending := some okEnd, effects := [] }) ∧ others r.cmd t ∧
      t = ({ s0 with reqs := s.reqs.erase r, cmds := t.cmds } : State)) ∧
    (c.stage = .running → c.ending = none → cls c.raw = 7 → s.commitsNow d → Committed s t d okEnd)) ∧
  ((s.reqs.any fun r => r.peer == p.smod && r.tag == p.tag) = false → ∀ i, (p.ptype = 0x11 ∧ i = .readResp ld p ∨ p.ptype = 0x12 ∧ i = .writeAck ld p ∨
    p.ptype = 0x13 ∧ i = .signalAck ld p) → exec i s = .next s0.refresh) ∧
  (p.ptype = 0x21 → ∃ t, exec (.courier ld p) s = .next t ∧
    let f := frameOf p.payload
    let e := s.expertEntry f.expert
    let tgt := match f.type with
      | 1 => if bit e 31 && bits e 29 24 == s.modid then bits e 23 16 % 6 else ld
      | 4 => f.binref % 6
      | _ => f.old
    (1 ≤ f.type → f.type ≤ 5 → f.reserved = 0 → tgt < 6 → t = ({ s0 with frames := s.frames ++ [(ld, tgt, f)] } : State).refresh) ∧
    ((f.type = 0 ∨ 5 < f.type ∨ f.reserved ≠ 0 ∨ 6 ≤ tgt) →
      t = (s0.modCourier ld fun c => { c with stale := min (c.stale + 1) (2 ^ 64 - 1) }).refresh))

/-- Reachability (R424 to R428). A HEARTBEAT goes to every module with a valid route; one from an unreachable peer makes this module send
JOINs until the answer. A JOIN raises the epoch to the greater one, marks a peer that reset or had another epoch unreachable, and is
answered; the JOIN_ACK makes the peer reachable. A peer is marked unreachable when its heartbeats or answers stay out, and by a
PATH_LOST of its current epoch. A fence ends after its time. -/
def Obligations.PeersJoinAndAreLost : Prop := ∀ (s : State) (ld m : Nat) (p : Packet), s.Calm →
  let s0 : State := { s with inbox := s.inbox.erase (ld, p) }
  let mine (pt : Nat) : Prop := p.ptype = pt ∧ ld < 6 ∧ p.smod = m ∧ m < 64 ∧ p.dmod = s.modid ∧ p.dmod < 64 ∧ p.reserved = 0 ∧ s.inTurn ld p = true
  let q := s.peer m
  let sendsJoin (x t : State) : Prop := t = ((x.modPeer m fun q => { q with joining := true }).originate m 0x32 0 1 0 0
    (padTo 32 (leBytes q.epoch 2 ++ leBytes (if q.rst then 1 else 0) 2))).refresh
  (mine 0x31 → ∃ t, exec (.heartbeat ld p) s = .next t ∧
    (s.isPeer m = true → q.reachable = false → q.joining = false → s.pkg ≠ .s2 → sendsJoin s0 t) ∧
    ((s.isPeer m = false ∨ q.reachable = true ∨ q.joining = true ∨ s.pkg = .s2) → t = s0.refresh)) ∧
  (s.isPeer m = true → q.reachable = false → q.joining = true → s.pkg ≠ .s2 → ∃ t, exec (.joinRepeat m) s = .next t ∧ sendsJoin s t) ∧
  (s.boot.st = .ready → s.pkg ≠ .s2 → ∃ t, exec .heartbeatSend s = .next t ∧
    t = (((List.range 64).filter s.isPeer).foldl (fun x k => x.originate k 0x31 0 0 0 0 []) s).refresh ∧
    t = ({ s with groups := t.groups, out := t.out, couriers := t.couriers } : State).refresh) ∧
  (mine 0x32 → s.isPeer m = true → ∃ t, exec (.join ld p) s = .next t ∧
    let j := u16 p.payload 0
    ∃ v, (if bit (u16 p.payload 2) 0 = true ∨ (j ≠ q.epoch ∧ q.reachable = true) then Lost s0 v m else v = s0) ∧
      let e := max j (v.peer m).epoch
      t = ((v.modPeer m fun x => { x with epoch := e }).originate m 0x33 0 1 0 0 (padTo 32 (leBytes e 2))).refresh) ∧
  (mine 0x33 → s.isPeer m = true → s.pkg ≠ .s2 → ∃ t, exec (.joinAck ld p) s = .next t ∧
    t.peer m = { q with epoch := max (u16 p.payload 0) q.epoch, reachable := true, joining := false, rst := false } ∧
    (∀ k, k ≠ m → t.peer k = s.peer k) ∧ t = ({ s0 with peers := t.peers } : State).refresh) ∧
  (s.isPeer m = true → q.reachable = true → ∃ t, exec (.heartbeatTimeout m) s = .next t ∧ Lost s t m) ∧
  (s.isPeer m = true → q.reachable = true → s.awaits m = true → ∃ t, exec (.responseTimeout m) s = .next t ∧ Lost s t m) ∧
  (mine 0x34 → ∃ t, exec (.pathLost ld p) s = .next t ∧
    let d := u16 p.payload 0
    (s.isPeer d = true → u16 p.payload 2 = (s.peer d).epoch → Lost s0 t d) ∧
    ((s.isPeer d = false ∨ u16 p.payload 2 ≠ (s.peer d).epoch) → t = s0.refresh)) ∧
  (∀ k, ∃ t, exec (.fenceExpiry ld k) s = .next t ∧ t.courier ld = { s.courier ld with fences := (s.courier ld).fences.eraseIdx k } ∧
    (∀ j, j ≠ ld → t.courier j = s.courier j) ∧ t = ({ s with couriers := t.couriers } : State).refresh)

/-- The rails rise and, once stable, every die is released and the module boots (R49, R463, R467 to R472, R476, R518). The straps are
sampled and a slot chosen; with none the module is in RECOVERY, where ACTIVE reads the strap and the plan is the straps' (log entry
85). Cold logic dies hold the boot in LOAD, cold array dies in BRINGUP; without either it reaches READY: the overlay that the straps
name, or the first valid one, gives contexts, plan and memory split, the set point is requested (log entry 81), every FIFO crossing has
resynchronised, every port trains, and the first of the missing counter fuses is burned. -/
def Obligations.RailsRiseAndTheModuleBoots : Prop := ∀ (s : State), s.Calm →
  let strapPlan (t : State) : Nat := bits t.boot.straps 12 11
  let clamped (t : State) : Prop := t.planEff = min t.planReq (min (if s.longLife then 1 else 3) (coolLimit (bits t.boot.straps 14 13)))
  let ready (x t : State) : Prop := t.boot.st = .ready ∧ t.boot.wait = .none ∧ t.boot.timeMs ≤ 65535 ∧
    (∀ p, p < 48 → t.port p = { x.port p with st := .training }) ∧ (∀ k ∈ fifoKeys, t.crossing k = (x.crossing k).resynced) ∧
    (x.boot.counter < t.boot.floor → t.boot.counter = x.boot.counter + 1 ∧ t.boot.burning = true) ∧
    (t.boot.floor ≤ x.boot.counter → t.boot.counter = x.boot.counter ∧ t.boot.burning = false ∧ t.boot.revoked = x.boot.revoked ||| t.revokes) ∧
    t.vreq = some t.avsLevel ∧ (x.vreq ≠ t.vreq → .avs t.avsLevel ∈ t.out) ∧ ∀ o, t.overlay t.active = some o →
      t.memSplit = o.split ∧ t.expert = o.expert ∧ t.planReq = (if o.namesPlan then o.plan else strapPlan t) ∧ clamped t ∧
      ∀ c, c < 256 → t.ctx c = (x.ctx c).fromOverlay (o.ctxOf c)
  let bringup (x t : State) : Prop := if ∃ y ∈ x.atherm, y.2.temp < 0 then t.boot.st = .bringup ∧ t.boot.wait = .arrayCold else ready x t
  let named (t : State) : Prop := t.active = (if t.overlays.any (fun o => o.1 == bits t.boot.straps 10 8) then bits t.boot.straps 10 8
    else ((t.overlays.head?).map (·.1)).getD 0)
  (∀ b, s.boot.wait = .power → ∃ t, exec (.powerOn b) s = .next t ∧ t.board = some b ∧
    t.flash = (if s.board = none then b.flash else s.flash) ∧
    (∀ r, r < 7 → t.rail r = { s.rail r with mv := ({ s with board := some b } : State).nominal r / 8 }) ∧
    t = ({ s with board := t.board, flash := t.flash, rails := t.rails } : State).refresh) ∧
  (∀ b, s.boot.wait ≠ .power → exec (.powerOn b) s = .next s) ∧
  (∀ b, s.boot.wait = .power → s.board = some b → s.rails ≠ [] → (∀ r ∈ s.rails, r.2.warn = false) →
    let x : State := { s with boot := { s.boot with wait := .none, straps := b.straps, slow := !b.flashFast } }
    let a := x.firstSlot
    ∃ t, exec .railsStable s = .next t ∧
      (∀ r q, x.slotFail a = some r → x.slotFail (1 - a) = some q → t.boot = { x.boot with st := .recovery, reject := q } ∧
        t.active = bits b.straps 10 8 ∧ t.planReq = bits b.straps 12 11 ∧ clamped t) ∧
      ∀ k r, (x.slotFail a = none ∧ k = a ∧ r = 0 ∨ x.slotFail a = some r ∧ x.slotFail (1 - a) = none ∧ k = 1 - a) →
        t.boot.slot = k ∧ t.boot.reject = r ∧ t.boot.straps = b.straps ∧
        (if ∃ y ∈ s.therm, y.2.temp < -160 then t.boot.st = .load ∧ t.boot.wait = .logicCold else named t ∧ bringup s t)) ∧
  (s.boot.wait = .logicCold → (∀ y ∈ s.therm, -160 ≤ y.2.temp) → ∃ t, exec .bootTemperatureWaitEnd s = .next t ∧ named t ∧ bringup s t) ∧
  (s.boot.wait = .arrayCold → (∀ y ∈ s.atherm, 0 ≤ y.2.temp) → ∃ t, exec .bootTemperatureWaitEnd s = .next t ∧ ready s t) ∧
  ((s.boot.wait = .arrayCold ∧ ∃ y ∈ s.atherm, y.2.temp < 0) ∨ (s.boot.wait = .logicCold ∧ ∃ y ∈ s.therm, y.2.temp < -160) →
    exec .bootTemperatureWaitEnd s = .next s)

/-- A device reset (R60, R63, R82, R356, R504 to R506): a PF that writes the key requests one, and every command ends with a DEVICE_RESET
record where it can be written; the reset itself waits until no message between dies is in flight. A cause that HD1 could not capture
reads 0xF (log entry 83). 10 ms without HD0's heartbeat cause a reset without records, and drop both host links. A reset clears every
register, queue, cache and engine, leaves memory undefined, and keeps the part, its fuses, the board, the sideband addresses and
the event log; GL_RESET names its cause and counts it. Any other value of GL_RESET_CTL has no effect. -/
def Obligations.DeviceResetsRestartTheModule : Prop := ∀ (s : State), s.Calm →
  let wiped (t : State) : Prop := t.cmds = [] ∧ t.tess = [] ∧ t.descs = [] ∧ t.allocs = [] ∧ t.sems = [] ∧ t.queues = [] ∧ t.pages = [] ∧
    t.handles = [] ∧ t.ledger = [] ∧ t.slots = [] ∧ t.reqs = [] ∧ t.groups = [] ∧ t.funcs = [] ∧ t.dcache = [] ∧ t.inbox = [] ∧ t.frames = [] ∧
    t.held = [] ∧ t.bells = [] ∧ t.reads4 = [] ∧ t.mem.cells = [] ∧ (∃ n, t.mem.undef = [⟨0, 2 ^ 43, n⟩]) ∧
    (∀ k, k < 256 → (t.ctx k).st = .closed) ∧ (∀ p, (t.port p).st ≠ .up) ∧ t.quiesce = false ∧ t.pkg = .active ∧ t.update = none
  let kept (t : State) : Prop := t.pending = s.pending ∧ t.grade = s.grade ∧ t.longLife = s.longLife ∧ t.stepping = s.stepping ∧ t.board = s.board ∧
    t.boot.dbgFuse = s.boot.dbgFuse ∧ s.boot.counter ≤ t.boot.counter ∧ s.evTotal ≤ t.evTotal ∧ t.clock = s.clock ∧ t.i3cAddr = s.i3cAddr ∧
    t.eid = s.eid ∧ t.eventReceiver = s.eventReceiver ∧ t.s2Count = s.s2Count
  let restarts (t : State) (cause die : Nat) : Prop := wiped t ∧ kept t ∧ t.resetWanted = none ∧ t.resetCause = cause ∧ t.resetDie = die ∧
    t.resetCount = min 0xFFFF (s.resetCount + 1) ∧ t.stalled = false
  (∀ fn value, s.barOpen fn = true → isPf fn = true → bit value 31 = true → value % 65536 = 0xC3A5 →
    let cause := if (s.crossing (returnCrossing hd0Die)).disagree then 0xF else 1
    ∃ t, exec (.deviceResetRequest fn value) s = .next t ∧
      (s.inbox = [] → s.frames = [] → restarts t cause 0) ∧
      ((s.inbox ≠ [] ∨ s.frames ≠ []) → t.cmds = [] ∧ t.resetWanted = some cause ∧ t.boot = s.boot ∧ t.resetCount = s.resetCount ∧ t.pending = s.pending) ∧
      ∀ c ∈ s.cmds, (s.ctx c.id.ctx).flr = false → (s.queue (queueKey c.id)).cqDev = false →
        (s.func (s.ctx c.id.ctx).fn).busMaster = true → s.recordOut c { status := .deviceReset } ∈ t.out) ∧
  (∀ fn value, s.barOpen fn = true → (isPf fn = false ∨ bit value 31 = false ∨ value % 65536 ≠ 0xC3A5) →
    exec (.deviceResetRequest fn value) s = .next s.refresh) ∧
  (∀ fn value w, s.barOpen fn = true → s.inbox = [] → s.frames = [] →
    ∃ t, exec (.deviceResetRequest fn value) ({ s with resetWanted := some w } : State) = .next t ∧ restarts t (w % 16) (w / 16)) ∧
  (s.boot.wait ≠ .power → s.boot.wait ≠ .coolDown → ∃ t, exec .hd0HeartbeatTimeout s = .next t ∧ restarts t 4 0 ∧
    .linkDrop 0 ∈ t.out ∧ .linkDrop 1 ∈ t.out) ∧
  ((s.boot.wait = .power ∨ s.boot.wait = .coolDown) → exec .hd0HeartbeatTimeout s = .next s)

/-- A change that waits for a quiescent point (R57, R373, R478, R500 to R502, R534). A request for an overlay is refused with its reason or
stops every engine; one for a remap is refused with its reason or joins its stack's requests; GL_REMAP_CMD asks for the point.
At the point, when no command runs, the overlay's contexts, expert map and plan take effect, a lower root halves clocks until the
PLLs have relocked, and each remap whose array die takes writes takes a free entry and spare. The point of an S2 entry also waits for
contexts that drain and for messages between dies (R63, R550). A save that completes makes its copy the one in use, and runs again
where one was asked for meanwhile. -/
def Obligations.ReconfigurationAtQuiescentPoints : Prop := ∀ (s : State), s.Calm →
  let quiesces (x t : State) : Prop := t = x.requestQuiesce.refresh ∧ (x.pkg ≠ .s2 → t.quiesce = true)
  ((s.quiesce = false ∨ (∃ c ∈ s.cmds, c.stage = .running ∨ c.stage = .killing) ∨
      (s.pkg = .entering ∧ ((∃ c ∈ s.ctxs, c.2.st = .draining) ∨ s.inbox ≠ [] ∨ s.frames ≠ []))) → exec .quiescentPoint s = .next s.refresh) ∧
  (s.quiesce = true → s.pkg ≠ .entering → (∀ c ∈ s.cmds, c.stage ≠ .running ∧ c.stage ≠ .killing) → ∃ t, exec .quiescentPoint s = .next t ∧
    t = ({ s.switchOverlay.lowerRoot.remapAll with quiesce := false, applyReq := false } : State).refresh) ∧
  (s.quiesce = true → s.pkg = .entering → (∀ c ∈ s.cmds, c.stage ≠ .running ∧ c.stage ≠ .killing) → (∀ c ∈ s.ctxs, c.2.st ≠ .draining) →
    s.inbox = [] → s.frames = [] → ∃ t, exec .quiescentPoint s = .next t ∧ t.pkg = .s2 ∧ t.s2Count = min 0xFFFF (s.s2Count + 1) ∧ t.quiesce = false ∧ t.dcache = [] ∧
      (∀ m, m < 64 → (t.peer m).reachable = false) ∧ ∀ d k, d < 8 → k < 33 → 35 * d + k ∈ t.offDom) ∧
  (∀ i o, s.ovlBusy = some i → s.overlay i = some o → let t := s.switchOverlay
    t.active = i ∧ t.ovlBusy = none ∧ t.expert = o.expert ∧ t.accounts = [] ∧ (∀ c, c < 256 → t.ctx c = (s.ctx c).fromOverlay (o.ctxOf c)) ∧
    t.planReq = (if o.namesPlan then o.plan else bits s.boot.straps 12 11) ∧
    t.planEff = min t.planReq (min (if s.longLife then 1 else 3) (coolLimit (bits s.boot.straps 14 13))) ∧ t.memSplit = s.memSplit) ∧
  (s.patina.pendingK = true → let t := s.lowerRoot
    t.patina.k = min 8 (s.patina.k + 1) ∧ t.patina.pendingK = false ∧ t.relocking = true) ∧
  (∀ k bank row cause i sp, (s.stack k).freeSpare bank = some sp → ((s.stack k).entryOf bank row = some i ∨
      (s.stack k).entryOf bank row = none ∧ (List.range 32).find? (fun i => ((s.stack k).remap i).isNone) = some i) →
    let t := s.remapRow k (bank, row, cause)
    (t.stack k).remap i = some ⟨sp, bank, row, cause⟩ ∧ (t.stack k).unsaved = true ∧ (∀ j, j ≠ i → (t.stack k).remap j = (s.stack k).remap j) ∧
    (∀ j, j ≠ k → t.stack j = s.stack j) ∧ ∀ g ∈ s.rowGranules k bank row, g ∉ t.mem.weak) ∧
  (∀ k, k < 16 → (s.remapAll.stack k).pending = (s.stack k).pending.filter fun q => s.holdsWrites k (q.1 / 64)) ∧
  (s.relocking = true → ∃ t, exec .pllRelockComplete s = .next t ∧
    t = ({ s with relocking := false, asupply := if s.rails.any (fun r => r.2.warn) then 8 else s.asupply } : State).refresh) ∧
  (s.relocking = false → exec .pllRelockComplete s = .next s) ∧
  (∀ fn value, s.barOpen fn = true → s.boot.st = .ready → isPf fn = true → bit value 31 = true →
    (∃ t, exec (.overlaySwitchRequest fn value) s = .next t ∧ let i := bits value 2 0
      (∀ r, s.switchRefusal i = some r → t = ({ s with ovlRefuse := r } : State).refresh) ∧
      (s.switchRefusal i = none → i = s.active → t = s.refresh) ∧
      (s.switchRefusal i = none → i ≠ s.active → quiesces { s with ovlBusy := some i } t)) ∧
    ∃ t, exec (.remapApply fn value) s = .next t ∧ quiesces { s with applyReq := true } t) ∧
  (∀ fn k value, s.regsOpen fn = true → isPf fn = true → k < 16 → bit value 31 = true → ∃ t, exec (.remapRequest fn k value) s = .next t ∧
    let x := s.stack k
    let bank := bits value 25 16
    let row := bits value 15 0
    let refused (n : Nat) : Prop := t.stack k = { x with refuse := n } ∧ (∀ j, j ≠ k → t.stack j = s.stack j) ∧
      t = ({ s with stackTab := t.stackTab, evd := (s.event (sbDie k) 0x0105 (k + 16 * n) (bank * 65536 + row)).evd } : State).refresh
    let dup : Prop := ∃ q ∈ x.pending, q.1 = bank ∧ q.2.1 = row
    (49152 ≤ row ∨ dup → refused 3) ∧ (row < 49152 → ¬ dup → 8 ≤ x.pending.length → refused 4) ∧
    (row < 49152 → ¬ dup → x.pending.length < 8 →
      t.stack k = { x with pending := x.pending ++ [(bank, row, if bit value 26 = false then 3 else if (bank, row) ∈ x.badRows then 1
        else if (x.entryOf bank row).isSome then 4 else 2)] } ∧
      (∀ j, j ≠ k → t.stack j = s.stack j) ∧ t = ({ s with stackTab := t.stackTab } : State).refresh)) ∧
  (∀ i, s.persistBusy = true → (i = .remapSaveComplete ∧ s.savesRemaps = true ∨ i = .persistSaveComplete ∧ s.savesRemaps = false) →
    ∃ t, exec i s = .next t ∧ t.persistBusy = s.persistAgain ∧ t.persistUse = 1 - s.persistUse ∧ t.persistSeq = s.persistSeq + 1 ∧
      t.out = s.out ++ [.persistWrite (1 - s.persistUse) (s.persistSeq + 1)] ∧
      (∀ k, k < 16 →
        let x := if (s.stack k).saving then { s.stack k with saving := false, unsaved := (s.stack k).dirty, dirty := false } else s.stack k
        t.stack k = if s.persistAgain then { x with saving := x.unsaved, dirty := false } else x) ∧
      t = ({ s with persistBusy := s.persistAgain, persistAgain := false, persistUse := t.persistUse, persistSeq := t.persistSeq, out := t.out, stackTab := t.stackTab,
                    flash := t.flash, evd := t.evd } : State).refresh)

/-- The mailbox of an enabled port's PF (R482 to R484). A GO takes the operation and sets BUSY; where a second one finds BUSY set, it is
ignored. The response comes with a later step (log entry 86): it ends BUSY, answers the operation's result and bytes in the buffer and
sets DONE; a payload of another length gives BAD_LENGTH. GET_INFO, ATTEST and GET_CERT report (the layout of GET_INFO's answer is log
entry 30's); the update operations take, feed, check and release the one update hold in sequence, and write only the slot that does not
run; where that slot can be neither erased nor written they answer FLASH_ERROR. -/
def Obligations.MailboxOperationsAnswer : Prop := ∀ (s : State) (port len : Nat), s.Calm → port < 2 → len < 8192 →
  let fn := 64 * port
  let p := s.hport port
  let goes (i : Instr) (op : Nat) : Prop := (s.portEnabled port = true → (s.boot.st = .ready ∨ s.boot.st = .recovery) → ∃ t, exec i s = .next t ∧
      t.hport port = { p with mbOp := op, mbLen := len, mbBusy := true, mbWait := 1 } ∧
      (∀ k, k ≠ port → t.hport k = s.hport k) ∧ t = ({ s with hports := t.hports } : State).refresh) ∧
    ((s.portEnabled port = false ∨ (s.boot.st ≠ .ready ∧ s.boot.st ≠ .recovery)) → exec i s = .next s.refresh)
  let req := (List.range len).map fun i => Assoc.get (0 : Byte) p.mbBuf i
  let me : Holder484 := .mailbox port
  let busy (op : Nat) : State := s.modHport port fun x => { x with mbOp := op, mbLen := len, mbBusy := true, mbWait := 1 }
  let answers (op : Nat) (post : (Nat → List Byte → State → Prop) → State → Prop) : Prop := ∃ t, exec (.getInfo fn 0) (busy op) = .next t ∧
    post (fun result bs t =>
      t.hport port = { p with mbOp := op, mbLen := len, mbWait := 1, mbDone := true, mbResult := result, mbRlen := bs.length
                              mbBuf := (t.hport port).mbBuf } ∧
      (∀ i, Assoc.get 0 (t.hport port).mbBuf i = (bs[i]?).getD (Assoc.get 0 p.mbBuf i)) ∧ (∀ k, k ≠ port → t.hport k = s.hport k) ∧
      t = ({ s with hports := t.hports, update := t.update, flash := t.flash } : State).refresh) t
  let plain (f : Nat → List Byte → State → Prop) (t : State) (result : Nat) (bs : List Byte) : Prop := f result bs t ∧ t.update = s.update ∧ t.flash = s.flash
  let other := slotBase (1 - s.boot.slot)
  let flash (t : State) (a n : Nat) (g : Nat → Byte) : Prop := ∀ i, t.flashAt i = if a ≤ i ∧ i < a + n then g (i - a) else s.flashAt i
  goes (.getInfo fn len) 0x01 ∧ goes (.attest fn len) 0x02 ∧ goes (.getCert fn len) 0x03 ∧ goes (.updateBegin fn len) 0x10 ∧
  goes (.updateData fn len) 0x11 ∧ goes (.updateEnd fn len) 0x12 ∧ goes (.updateAbort fn len) 0x13 ∧
  (answers 0x01 fun f t => (len ≠ 0 → plain f t 2 []) ∧ (len = 0 → plain f t 0 (leBytes s.bootWord 4 ++ leBytes s.imgver 4 ++ leBytes s.buildWord 4 ++
    (if (s.slotFail (1 - s.boot.slot)).isNone then leBytes (s.slotField (1 - s.boot.slot) 12 2) 4 ++ leBytes (s.slotField (1 - s.boot.slot) 0x14 4) 4
     else [])))) ∧
  (answers 0x02 fun f t => (len ≠ 32 → plain f t 2 []) ∧ (len = 32 → s.boot.st = .recovery → plain f t 3 []) ∧
    (len = 32 → s.boot.st ≠ .recovery → ∃ r, plain f t 0 r ∧ r.length = 1808 ∧ r.take 0x38 = req ++ leBytes Config.deviceId.toNat 16 ++
      leBytes s.ident 4 ++ leBytes s.boot.svn 2 ++ leBytes s.boot.counter 1 ++ leBytes ((if s.locked then 1 else 0) + 2 * s.boot.slot) 1 ∧
      (r.drop 0x38).take 4 = leBytes s.boot.straps 4 ∧ (r.drop 0x3C).take 4 = leBytes s.active 1 ++ leBytes 0 3 ∧
      (r.drop 0x40).take 64 = padTo 64 s.boot.digest ∧
      (r.drop 0x80).take 64 = padTo 64 (Config.shake256 ((s.overlayBytes s.boot.slot s.active).getD [])) ∧
      (r.drop 0xC0).take 64 = padTo 64 (Config.shake256 (s.flashRun (copyBase s.persistUse + 0x1040) (s.copyField s.persistUse 12 4 - 0x1040))) ∧
      ∃ n, n ≤ 1536 ∧ (r.drop 0x100).take 2 = leBytes n 2 ∧
        (r.drop 0x110) = padTo 1536 ((Config.falconSign (Config.shake256 (r.take 0x110))).take n))) ∧
  (answers 0x03 fun f t => (len ≠ 4 → plain f t 2 []) ∧ (len = 4 → plain f t 0 ((Config.certificate.drop (u32 req 0)).take 4096))) ∧
  (answers 0x10 fun f t => (len ≠ 4 → plain f t 2 []) ∧ (len = 4 →
    let n := u32 req 0
    (∀ u, s.update = some u → plain f t (if u.who = me then 3 else 5) []) ∧
    (s.update = none → (n = 0 ∨ 0x017FF000 < n) → plain f t 2 []) ∧
    (s.update = none → 0 < n → n ≤ 0x017FF000 → s.slotWorn = true → plain f t 6 []) ∧
    (s.update = none → 0 < n → n ≤ 0x017FF000 → s.slotWorn = false →
      f 0 [] t ∧ t.update = some { who := me, len := n } ∧ flash t other 0x01800000 fun _ => 0xFF))) ∧
  (answers 0x11 fun f t => ((len < 4 ∨ 4096 < len) → plain f t 2 []) ∧ (4 ≤ len → len ≤ 4096 →
    let off := u32 req 0
    (s.update = none → plain f t 3 []) ∧ ∀ u, s.update = some u →
      (u.who ≠ me → plain f t 5 []) ∧ (u.who = me → off ≠ u.next → plain f t 3 []) ∧
      (u.who = me → off = u.next → u.len < off + (len - 4) → plain f t 2 []) ∧
      (u.who = me → off = u.next → off + (len - 4) ≤ u.len → s.slotWorn = true → plain f t 6 []) ∧
      (u.who = me → off = u.next → off + (len - 4) ≤ u.len → s.slotWorn = false → f 0 [] t ∧ t.update = some { u with next := off + (len - 4) } ∧
        flash t (other + off) (len - 4) fun i => req.getD (4 + i) 0))) ∧
  (answers 0x12 fun f t => (len ≠ 0 → plain f t 2 []) ∧ (len = 0 →
    (s.update = none → plain f t 3 []) ∧ ∀ u, s.update = some u → (u.who ≠ me → plain f t 5 []) ∧
      (u.who = me → ∀ q, s.updateFail = some q → f 4 (leBytes q 1) t ∧ t.update = none ∧ t.flash = s.flash) ∧
      (u.who = me → s.updateFail = none → s.slotWorn = true → f 6 [] t ∧ t.update = none ∧ t.flash = s.flash) ∧
      (u.who = me → s.updateFail = none → s.slotWorn = false → f 0 [] t ∧ t.update = none ∧
        flash t (other + 0x017FF000) 16 fun i => (markerBytes ((s.boot.generation + 1) % 2 ^ 32)).getD i 0))) ∧
  (answers 0x13 fun f t => (len ≠ 0 → plain f t 2 []) ∧ (len = 0 →
    (s.update = none → plain f t 3 []) ∧ ∀ u, s.update = some u → (u.who ≠ me → plain f t 5 []) ∧
      (u.who = me → f 0 [] t ∧ t.update = none ∧ t.flash = s.flash))) ∧
  (∀ op, op ∉ [0x01, 0x02, 0x03, 0x10, 0x11, 0x12, 0x13] → answers op fun f t => (len ≤ 4096 → plain f t 1 []) ∧ (4096 < len → plain f t 2 [])) ∧
  exec .updateHoldTimeout s = .next ({ s with update := none } : State).refresh

/-- The board sideband (R485, R539, R540). The PLDM operations act on the update hold as the mailbox's do, VerifyComplete alone
checking the slot and ApplyComplete writing the marker after it; a held update is reported by ALREADY_IN_UPDATE_MODE, a slot that can
be neither erased nor written by FLASH_ERROR, and ActivateFirmware asks for a device reset. The endpoint, the dynamic address and the
event receiver are set, and a new address or endpoint ends the PLDM session with its update hold (log entry 87); the sensor values are
refreshed, and a crossed threshold is sent to the receiver. -/
def Obligations.SidebandOperationsAnswer : Prop := ∀ (s : State), s.Calm →
  let up : Prop := s.boot.st = .ready ∨ s.boot.st = .recovery
  let reply (x : State) (req result : Nat) : State := ({ x with out := s.out ++ [.pldm req [result]] } : State).refresh
  let mine (k : Update → Prop) : Prop := ∃ u, s.update = some u ∧ u.who = .pldm ∧ k u
  let ended := s.update.filter fun u => u.who != .pldm
  let none_ (req : Nat) (t : State) : Prop := (s.update = none → t = reply s req 3) ∧
    ((∃ u, s.update = some u ∧ u.who ≠ .pldm) → t = reply s req 5)
  (up → (∀ n, ∃ t, exec (.requestUpdate n) s = .next t ∧ ((s.update).isSome = true → t = reply s 0x10 0x81) ∧
      (s.update = none → t = reply (s.beginUpdate .pldm n).2 0x10 (s.beginUpdate .pldm n).1) ∧
      (s.update = none → 0 < n → n ≤ 0x017FF000 → s.slotWorn = true → t = reply s 0x10 6) ∧
      (s.update = none → 0 < n → n ≤ 0x017FF000 → s.slotWorn = false → t.update = some { who := .pldm, len := n })) ∧
    (∀ off data, ∃ t, exec (.requestFirmwareData off data) s = .next t ∧ none_ 0x15 t ∧
      (mine (fun u => off ≠ u.next) → t = reply s 0x15 3) ∧ (mine (fun u => off = u.next ∧ u.len < off + data.length) → t = reply s 0x15 2) ∧
      (mine (fun u => off = u.next ∧ off + data.length ≤ u.len) → s.slotWorn = true → t = reply s 0x15 6) ∧
      ∀ u, s.update = some u → u.who = .pldm → off = u.next → off + data.length ≤ u.len → s.slotWorn = false →
        t = reply (({ s with update := some { u with next := off + data.length } } : State).flashWrite (slotBase (1 - s.boot.slot) + off) data) 0x15 0) ∧
    (∃ t, exec .verifyComplete s = .next t ∧ none_ 0x17 t ∧ ∀ u, s.update = some u → u.who = .pldm →
      (s.updateFail = none → t = reply { s with update := some { u with verified := true } } 0x17 0) ∧ (s.updateFail ≠ none → t = reply s 0x17 4)) ∧
    (∃ t, exec .applyComplete s = .next t ∧ none_ 0x18 t ∧ (mine (fun u => u.verified = false) → t = reply s 0x18 3) ∧
      (mine (fun u => u.verified = true) → s.slotWorn = true → t = reply { s with update := none } 0x18 6) ∧
      (mine (fun u => u.verified = true) → s.slotWorn = false → t = reply { s.flashWrite (slotBase (1 - s.boot.slot) + 0x017FF000)
        (markerBytes ((s.boot.generation + 1) % 2 ^ 32)) with update := none } 0x18 0)) ∧
    (∃ t, exec .cancelUpdate s = .next t ∧ none_ 0x1D t ∧ (mine (fun _ => True) → t = reply { s with update := none } 0x1D 0)) ∧
    exec .activateFirmware s = .next (reply s 0x1A 1)) ∧
  (¬ up → ∀ i, (∃ n, i = .requestUpdate n) ∨ (∃ off data, i = .requestFirmwareData off data) ∨ i = .verifyComplete ∨ i = .applyComplete ∨
    i = .cancelUpdate ∨ i = .activateFirmware → exec i s = .next s) ∧
  (s.boot.wait ≠ .power →
    (∀ e, exec (.setEventReceiver e) s = .next ({ s with eventReceiver := some (e % 256) } : State).refresh ∧
      exec (.setEndpointId e) s = .next ({ s with eid := e % 256, update := ended, out := s.out ++ [.mctp 1 (e % 256)] } : State).refresh ∧
      exec (.entdaa e) s = .next ({ s with i3cAddr := e % 128, update := ended, out := s.out ++ [.mctp 2 (e % 128)] } : State).refresh) ∧
    ∃ t, exec .sensorRefresh s = .next t ∧ t.sensors = s.sensorValues ∧ t = ({ s with sensors := t.sensors, out := t.out } : State).refresh ∧
      (s.eventReceiver = none → t.out = s.out) ∧
      ∀ e, s.eventReceiver = some e → t.out = s.out ++ ((s.sensorValues.filter fun v =>
        sensorLevel v.1 v.2 != sensorLevel v.1 (Assoc.get (Assoc.get 0 s.sensorValues v.1) s.sensors v.1)).map fun v =>
          .pldm 0x0A [e, v.1, ofSigned 32 v.2, sensorLevel v.1 v.2]))

/-- Temperature (R512 to R519, R522). New readings give a die the largest of its healthy sensors, or 100 °C once it is degraded, and with it
its state or band, entered at its threshold and left 2 °C below; 115 °C shuts the module down until every die is below 95 °C: the reset
takes place once no message between dies is in flight (R63), and during a boot the dies are held at once (R538). A sensor more than
8 °C off its neighbours' median is excluded, and its die's state or band follows. A_t steps every 100 µs, and is 4 at once at 105 °C. Writes that waited for an array die
may land with any of this (R520); with none waiting, only the temperatures and what follows from them change. -/
def Obligations.TemperatureIsFollowed : Prop := ∀ (s : State), s.Calm → s.boot.wait ≠ .power →
  let quiet : Prop := s.held = [] ∧ ∀ c ∈ s.cmds, c.writes = []
  let same (t : State) : Prop := t = ({ s.afterStop t with therm := t.therm, atherm := t.atherm, held := t.held, thermAlert := t.thermAlert } : State) ∧
    (quiet → t = ({ s with therm := t.therm, atherm := t.atherm, dies := t.dies, evd := t.evd, cmds := t.cmds, thermAlert := t.thermAlert } : State))
  let temp (x : Therm) (rs : List Int) : Int := if x.degraded then 800 else
    match (rs.zipIdx.filter fun y => !x.failed.contains y.2).map (·.1) with
    | [] => x.temp
    | a :: r => r.foldl max a
  let shuts (t : State) (code : Nat) : Prop :=
    ((s.boot.st = .ready ∨ s.boot.st = .recovery) → s.inbox = [] → s.frames = [] → t.boot.wait = .coolDown ∧ t.resetCause = 6 ∧ t.resetDie = code ∧
      t.cmds = [] ∧ t.resetCount = min 0xFFFF (s.resetCount + 1)) ∧
    ((s.boot.st = .ready ∨ s.boot.st = .recovery) → (s.inbox ≠ [] ∨ s.frames ≠ []) → t.resetWanted = some (16 * code + 6) ∧ t.cmds = []) ∧
    (s.boot.st ≠ .ready → s.boot.st ≠ .recovery → t.boot = { s.boot with st := .rom, wait := .coolDown })
  (∀ d rs, d < 32 → rs.length = logicSensors d →
    let x := s.logicTherm d
    let c := temp x rs
    let st := if x.st = 4 then 4 else max (logicUp c) (min x.st (logicUp (c + 15)))
    ∃ t, exec (.sensorSample false d rs) s = .next t ∧
      ((st ≠ 4 ∨ x.st = 4) → t.logicTherm d = { x with readings := rs, temp := c, st := st } ∧
        (∀ k, k ≠ d → t.logicTherm k = s.logicTherm k) ∧ t.atherm = s.atherm ∧ same t ∧
        (∀ k, k < 8 → (t.die k).atherm = (if 840 ≤ t.controlling k then 4 else (s.die k).atherm) ∧
          (quiet → t.die k = { s.die k with atherm := (t.die k).atherm })) ∧
        (st ≠ x.st → (s.ev hd1Die).waiting.length < 16 → ∃ r ∈ (t.ev hd1Die).waiting, r.2.2 = (0x0203, d + 256 * st, ofSigned 16 c))) ∧
      (st = 4 → x.st ≠ 4 → shuts t (dieCode d))) ∧
  (∀ j rs, j < 256 → rs.length = 4 →
    let x := s.arrayTherm j
    let c := temp x rs
    let b := max (bandUp c) (min (bandOf x) (if 784 < c then 4 else bandUp (c + 15)))
    ∃ t, exec (.sensorSample true j rs) s = .next t ∧
      ((c < 920 ∨ 920 ≤ x.temp) → t.arrayTherm j = { x with readings := rs, temp := c, st := (b + 4) % 5 } ∧ bandOf (t.arrayTherm j) = b ∧
        (∀ k, k ≠ j → t.arrayTherm k = s.arrayTherm k) ∧ t.therm = s.therm ∧ same t ∧ (quiet → t.dies = s.dies)) ∧
      (920 ≤ c → x.temp < 920 → shuts t (j / 16))) ∧
  (∀ (array : Bool) d k n, sensorCount array d = some n → k < n →
    let x := if array then s.arrayTherm d else s.logicTherm d
    (x.off k = false → exec (.sensorFail array d k) s = .next s.refresh) ∧
    (x.off k = true → ∃ t, exec (.sensorFail array d k) s = .next t ∧ same t ∧
      let y := if array then t.arrayTherm d else t.logicTherm d
      y.failed = insertNat x.failed k ∧ y.readings = x.readings ∧ y.degraded = (x.degraded || decide (n - y.failed.length < 2)) ∧
      y.temp = (if y.degraded then 800 else temp { x with failed := y.failed } x.readings) ∧
      y.st = (if array then (max (bandUp y.temp) (min (bandOf x) (if 784 < y.temp then 4 else bandUp (y.temp + 15))) + 4) % 5
        else if x.st = 4 then 4 else max (logicUp y.temp) (min x.st (logicUp (y.temp + 15)))) ∧
      if array then t.therm = s.therm ∧ (∀ k, k ≠ d → t.arrayTherm k = s.arrayTherm k)
      else t.atherm = s.atherm ∧ ∀ k, k ≠ d → t.logicTherm k = s.logicTherm k)) ∧
  (s.boot.wait = .coolDown → s.cooled = true → ∃ t, exec .coolDownEnd s = .next t ∧ t.boot.wait ≠ .coolDown ∧ t.boot.wait ≠ .power) ∧
  ((s.boot.wait ≠ .coolDown ∨ s.cooled = false) → exec .coolDownEnd s = .next s) ∧
  (∃ t, exec .thermalAllowanceUpdate s = .next t ∧ t = ({ s with dies := t.dies } : State).refresh ∧ ∀ d, t.die d = if d < 8 then
    let c := s.controlling d
    let a := (s.die d).atherm
    { s.die d with atherm := if 840 ≤ c then 4 else if 800 ≤ c then max 4 (a - 1) else if c ≤ 784 then min 16 (a + 1) else a } else s.die d)

/-- Power, held writes, pauses and refresh (R520, R521, R523, R525, R526, R559). A_p steps down above the plan's budget and up below 95
% of it, between 4 and 16. The write of an array die that has been held longest (R521) is given up after 10 ms: a host's is recorded, a
remote one answered; those of a command to the die end it, in a docent command they fail its stack's part (R273), and of a killed run
they are dropped (R370). A docent task paused 10 ms fails its stack's part. A bank's refreshes count to 8,192, when its window begins
again. -/
def Obligations.PowerAndHeldWrites : Prop := ∀ (s : State), s.Calm →
  (s.boot.wait ≠ .power →
    (∀ d w, d < 8 → ∃ t, exec (.powerAllowanceUpdate d w) s = .next t ∧
      let a := (s.die d).apower
      let b := planWatts s.planEff
      t.die d = { s.die d with watts := w, apower := if b < w then max 4 (a - 1) else if w * 20 < b * 19 then min 16 (a + 1) else a } ∧
      (∀ k, k ≠ d → t.die k = s.die k) ∧ t = ({ s with dies := t.dies, evd := t.evd } : State).refresh ∧
      t.evd = (if (t.die d).apower = 4 ∧ a ≠ 4 then (s.event hd1Die 0x0208 d w).evd else s.evd)) ∧
    (∀ p m, exec (.powerCalibration p m) s = .next ({ s with packageW := min 0xFFFF p, cdMaxW := min 0xFFFF m } : State).refresh) ∧
    ∀ k b, k < 16 → b < 1024 → let key := 1024 * k + b
      (∃ t, exec (.refreshOperation k b) s = .next t ∧ let n := (Assoc.get 0 s.refreshOp key + 1) % 8192
        (∀ j, Assoc.get 0 t.refreshOp j = if j = key then n else Assoc.get 0 s.refreshOp j) ∧
        (∀ j, Assoc.get 0 t.acts j = if n = 0 ∧ j / 65536 = key then 0 else Assoc.get 0 s.acts j) ∧
        t = ({ s with refreshOp := t.refreshOp, acts := t.acts } : State).refresh) ∧
      ∀ row, row < 49152 → ∃ t, exec (.targetedRefresh k b row) s = .next t ∧
        (∀ j, Assoc.get 0 t.acts j = if j = 65536 * key + row then Assoc.get 0 s.acts j + 1 else Assoc.get 0 s.acts j) ∧
        t = ({ s with acts := t.acts } : State).refresh) ∧
  let failsPart (x t : State) (id : CmdId) (k : Nat) : Prop := ∃ u : State, u = { x with stackTab := u.stackTab, fresh := u.fresh } ∧
    (∀ j, j ≠ k → u.stack j = x.stack j) ∧ (u.stack k) = { x.stack k with busy := (u.stack k).busy } ∧
    t = ((u.modDoc id fun d => d.failPart k { status := .writeHeldTimeout, detail := k }).docDone id).refresh
  (∀ k a, ∃ t, exec (.heldWriteExpiry k a) s = .next t ∧
    let e : Ending := { status := .writeHeldTimeout, detail := k }
    (∀ w, (s.held.find? fun w => w.stack == k && w.adie == a) = some w → (∀ c, s.heldCmd k a = some c → c.id ∉ w.behind) →
      let s0 : State := { s with held := s.held.erase w }
      (∀ p, w.who = .host p → t = (s0.event (sbDie k) 0x0209 (w.pa % 2 ^ 32) (w.pa / 2 ^ 32)).refresh) ∧
      ∀ ld m tag e, w.who = .remote ld m tag e → t = (s0.originate m 0x12 tag 0 3 0 []).refresh) ∧
    (∀ c, s.heldCmd k a = some c → s.cmd c.id = some c →
      (∀ w, (s.held.find? fun w => w.stack == k && w.adie == a) = some w → c.id ∈ w.behind) →
        let rest := c.writes.filter fun w => s.arrayDieOf w.1 != some (k, a)
        let only (d : Cmd) : Prop := (t.cmd c.id).map Cmd.core = some (Cmd.core d) ∧
          (∀ j, j ≠ c.id → (t.cmd j).map Cmd.core = (s.cmd j).map Cmd.core) ∧ t = ({ s with cmds := t.cmds } : State)
        let f : Ending := if cls c.raw = 4 ∧ 1 < c.engines.length then
          { status := .partialFailure, detail := 2 ^ k, r0 := Status.writeHeldTimeout.code } else e
        (c.stage = .finished → c.open_ = true → only { c with unacked := 0, writes := [], ending := some f }) ∧
        (c.stage = .running → c.ending = none → cls c.raw ≠ 4 → (t.cmd c.id).map (·.ending) = some (some e) ∧ t = s.afterWork t) ∧
        (c.stage = .running → cls c.raw = 4 → failsPart (s.modCmd c.id fun x => { x with writes := rest }) t c.id k) ∧
        (c.stage = .killing ∨ c.stage = .queued → only { c with writes := rest })) ∧
    ((∀ w ∈ s.held, w.stack ≠ k ∨ w.adie ≠ a) → s.heldCmd k a = none → t = s.refresh)) ∧
  (∀ k b id, s.pausedCmd k b = some id → ∃ t, exec (.docentPauseExpiry k b) s = .next t ∧ failsPart s t id k) ∧
  (∀ k b, s.pausedCmd k b = none → exec (.docentPauseExpiry k b) s = .next s) ∧
  ∀ (d : DocWork) k e, let x := d.failPart k e
    x.failed = d.failed ++ [(k, e)] ∧ k ∈ x.planned ∧ (∀ t ∈ x.tasks, t.stack ≠ k) ∧ (∀ p ∈ x.arrived ++ x.merged, p.1 ≠ k)

/-- Rails (R528 to R531): a crossing of the warning level sets A_s to 8, the return above it counts the dip, and 1 ms above it restores A_s;
the reset level causes a device reset, which waits for messages between dies (R63), and a loss of power holds every die in power-on
reset. Ageing (R532 to R536): a measurement is recorded with its margin; a margin below 0 raises the core voltage, which is requested
where it is not the requested one already (R48), or at its largest step asks for a lower root; the history is saved. -/
def Obligations.RailsAndAgeing : Prop := ∀ (s : State), s.Calm → s.boot.wait ≠ .power →
  let rail (t : State) (r : Nat) (x : Rail) : Prop := t.rail r = x ∧ ∀ k, k ≠ r → t.rail k = s.rail k
  let quiet : Prop := s.held = [] ∧ ∀ c ∈ s.cmds, c.writes = []
  let heat (x t : State) : Prop := t = ({ x.afterStop t with rails := t.rails, held := t.held, thermAlert := t.thermAlert } : State) ∧
    (quiet → t = ({ x with rails := t.rails, cmds := t.cmds, evd := t.evd, thermAlert := t.thermAlert } : State))
  let off (t : State) : Prop := t.boot.st = .rom ∧ t.boot.wait = .power ∧ t.cmds = [] ∧ t.ctxs = [] ∧ t.evlog = [] ∧ t.evTotal = 0 ∧ t.resetCount = 0 ∧
    t.rails = [] ∧ t.mem.cells = [] ∧ t.flash = s.flash ∧ t.board = s.board ∧ t.boot.counter = s.boot.counter ∧ t.out = s.out ∧
    t.vreq = none
  (∀ r mv, r < 7 → s.below r mv 5 = true → ∃ t, exec (.railWarningCross r mv) s = .next t ∧ let x := s.rail r
    rail t r { x with mv := mv, warn := true, low := true, least := if x.warn then min x.least mv else mv, crossedReset := x.warn && x.crossedReset } ∧
    heat { s with asupply := if s.relocking then s.asupply else 8 } t ∧ (quiet → t.evd = s.evd)) ∧
  (∀ r mv, r < 7 → (s.rail r).warn = true → s.below r mv 5 = false → ∃ t, exec (.railWarningReturn r mv) s = .next t ∧ let x := s.rail r
    rail t r { x with mv := mv, warn := false, least := 0, crossedReset := false } ∧
    heat { s with dips := if x.crossedReset then s.dips else min 0xFFFFFFFF (s.dips + 1) } t ∧
    (quiet → t.evd = if x.crossedReset then s.evd else (s.event hd1Die 0x0206 r x.least).evd)) ∧
  ((∀ r ∈ s.rails, r.2.warn = false) → exec .supplyRecovery s = .next ({ s with asupply := 16 } : State).refresh) ∧
  (∀ r mv, r < 7 → s.below r mv 10 = true → ∃ t, exec (.railResetCross r mv) s = .next t ∧ (r = 5 → off t) ∧
    (r ≠ 5 → (s.inbox ≠ [] ∨ s.frames ≠ []) → t.resetWanted = some 5 ∧ t.cmds = []) ∧
    (r ≠ 5 → s.inbox = [] → s.frames = [] → t.resetCause = 5 ∧ t.resetDie = 0 ∧ t.resetCount = min 0xFFFF (s.resetCount + 1) ∧ t.cmds = [] ∧ (t.rail r).warn = true ∧
      (t.rail r).crossedReset = true ∧ (t.rail r).mv = mv)) ∧
  (∀ r mv, r < 7 → (s.below r mv 20 = true ∨ r = 5 ∧ s.below r mv 10 = true) → ∃ t, exec (.railPowerLoss r mv) s = .next t ∧ off t) ∧
  (exec .patinaHeaderSave s = .next s.startSave.refresh ∧ (s.persistBusy = false → s.startSave.persistBusy = true) ∧
    (s.persistBusy = true → s.startSave = { s with persistAgain := true })) ∧
  (∀ again, exec (.patinaMeasurement [] again) s = .next s.refresh) ∧
  ∀ slacks again d m y, (d, m, y) ∈ slacks → (∀ x ∈ slacks, x ≠ (d, m, y) → y < x.2.2) → ∃ t, exec (.patinaMeasurement slacks again) s = .next t ∧
    let p := s.patina
    let r : PatinaRec := ⟨p.hours, if p.measured then 2 else 1, p.g, p.k, y - 64, d, m, s.hottestCd, s.vset⟩
    t.patina.measured = true ∧ (0 ≤ y - 64 → t.patina = { p with
      margin := y - 64, measured := true, count := p.count + 1, nextSlot := (p.nextSlot + 1) % patinaSlots, ring := t.patina.ring } ∧
      Assoc.get r t.patina.ring p.nextSlot = r ∧ (∀ j z, j ≠ p.nextSlot → Assoc.get z t.patina.ring j = Assoc.get z p.ring j) ∧
      t = ({ s with patina := t.patina, flash := t.flash, stackTab := t.stackTab, persistBusy := true, persistAgain := s.persistBusy } : State).refresh) ∧
    (y - 64 < 0 → p.g < gMax → again = [] → t.patina.g = min gMax (p.g + ceilDiv (y - 64).natAbs (max 1 Config.sV)) ∧ t.patina.margin = y - 64 ∧
      t.patina.count = p.count + 2 ∧ t.vreq = some t.avsLevel ∧ t.out = s.out ++ (if s.vreq = some t.avsLevel then [] else [.avs t.avsLevel])) ∧
    (y - 64 < 0 → gMax ≤ p.g → p.k < 8 → t.patina.pendingK = true ∧ t.patina.g = p.g ∧ (s.pkg ≠ .s2 → p.pendingK = false → t.quiesce = true)) ∧
    (y - 64 < 0 → gMax ≤ p.g → 8 ≤ p.k → t.patina.exhausted = true ∧ t.patina.count = p.count + 2 ∧ t.out = s.out)

/-- Low power (R50, R544, R547): an idle domain that may be switched off loses its contents and goes off, work for it brings it back, and
SC_LP_CTL says which kinds may go off and wakes the others; a port that comes back resynchronises its crossing and trains. Crossings
(R61 to R63): the request of either side, and one acknowledgement for both, after which the flits that waited go on; messages to or
from a die wait while its crossing resynchronises (log entry 84). Time and events (R551 to R556): a snapshot copies every die's tick,
a die's records reach HD1's log in order, and word 0 of a slot captures it for the function that reads it. -/
def Obligations.LowPowerCrossingsAndEvents : Prop := ∀ (s : State), s.Calm →
  (∀ n, s.g2May n = true → ∃ t, exec (.g2Entry n) s = .next t ∧ n ∈ t.offDom ∧ (∀ k ∈ t.offDom, k = n ∨ k ∈ s.offDom) ∧
    (∀ d g, domainOf n = .tessGroup d g → (∀ i, i < 4 → let x := s.tessera (128 * d + 4 * g + i)
        t.tessera (128 * d + 4 * g + i) = { mustClear := true, context := x.context, lastCtx := x.lastCtx }) ∧
      (∀ k, (k < 128 * d + 4 * g ∨ 128 * d + 4 * g + 4 ≤ k) → t.tessera k = s.tessera k) ∧
      t = ({ s with offDom := t.offDom, tess := t.tess } : State).refresh) ∧
    (∀ d, domainOf n = .cache d → (∀ l, l < 2 ^ 36 → t.line (lineKey d l) = none) ∧
      (∀ e l, e ≠ d → l < 2 ^ 36 → t.line (lineKey e l) = s.line (lineKey e l)) ∧ t = ({ s with offDom := t.offDom, dcache := t.dcache } : State).refresh) ∧
    (∀ k g, domainOf n = .docents k g → t.stack k = { s.stack k with program := (s.stack k).program.filter fun y => y.1 / 256 != g } ∧
      (∀ j, j ≠ k → t.stack j = s.stack j) ∧ t = ({ s with offDom := t.offDom, stackTab := t.stackTab } : State).refresh) ∧
    ∀ p, domainOf n = .port p → t.port p = { s.port p with st := .down, nbr := 0, nport := 0, fails := [] } ∧
      (∀ k, k ≠ p → t.port k = s.port k) ∧ t = ({ s with offDom := t.offDom, ports := t.ports } : State).refresh) ∧
  (∀ n, s.pkg ≠ .s2 → ∃ t, exec (.g2Wake n) s = .next t ∧ t.offDom = s.offDom.filter (· != n) ∧
    (∀ p, domainOf n = .port p → n ∈ s.offDom → t.port p = { s.port p with st := .training } ∧ (∀ k, k ≠ p → t.port k = s.port k) ∧
      t.crossing (portCrossing p) = (s.crossing (portCrossing p)).resynced ∧ ∀ k, k ≠ portCrossing p → t.crossing k = s.crossing k) ∧
    (((∀ p, domainOf n ≠ .port p) ∨ n ∉ s.offDom) → t.ports = s.ports ∧ t.cross = s.cross) ∧
    t = ({ s with offDom := t.offDom, ports := t.ports, cross := t.cross } : State).refresh) ∧
  (∀ n, (s.g2May n = false → exec (.g2Entry n) s = .next s) ∧ (s.pkg = .s2 → exec (.g2Wake n) s = .next s)) ∧
  (∀ fn v, s.regsOpen fn = true → ∃ t, exec (.scLpCtlWrite fn v) s = .next t ∧ (isPf fn = false → t = s.refresh) ∧
    (isPf fn = true → t = ({ s with lpCtl := v % 8, offDom := t.offDom } : State).refresh ∧ (s.pkg = .s2 → t.offDom = s.offDom) ∧
      (s.pkg ≠ .s2 → ∀ n, n ∈ t.offDom ↔ n ∈ s.offDom ∧ match domainOf n with
        | .tessGroup _ _ => bit v 0 = true
        | .cache _ => bit v 1 = true
        | .docents _ _ => bit v 2 = true
        | _ => True))) ∧
  (∀ x k far, crossKey x = some k →
    (∃ t, exec (.resyncRequest x far) s = .next t ∧
      t.crossing k = (if far then { s.crossing k with far := true } else { s.crossing k with near := true }) ∧
      (∀ j, j ≠ k → t.crossing j = s.crossing j) ∧ t = ({ s with cross := t.cross } : State).refresh) ∧
    ((s.crossing k).near = true ∨ (s.crossing k).far = true → ∃ t, exec (.resyncAck x) s = .next t ∧
      t.crossing k = { s.crossing k with near := false, far := false, resyncs := min 0xFF ((s.crossing k).resyncs + 1) } ∧
      (∀ j, j ≠ k → t.crossing j = s.crossing j) ∧ t = ({ s with cross := t.cross, groups := t.groups, out := t.out } : State).refresh ∧
      (((∀ p, p < 48 → k ≠ portCrossing p) ∨ ∃ p, k = portCrossing p ∧ (s.portGroup p = none ∨ ∃ g, s.portGroup p = some g ∧ s.groupUp g = false)) →
        t.groups = s.groups ∧ t.out = s.out) ∧
      ∀ p g, p < 48 → k = portCrossing p → s.portGroup p = some g → s.groupUp g = true →
        let u := ({ s with cross := t.cross } : State).drainGroup g
        t.groups = u.groups ∧ t.out = u.out) ∧
    ((s.crossing k).near = false → (s.crossing k).far = false → exec (.resyncAck x) s = .next s)) ∧
  (∀ fn v, s.regsOpen fn = true → ∃ t, exec (.tickSnapshot fn v) s = .next t ∧
    (isPf fn = true → bit v 31 = true → s.snapBusy = [] → t.snapBusy = List.range 31 ∧
      t.ev hd1Die = { s.ev hd1Die with snap := (s.ev hd1Die).tick } ∧ (∀ d, d ≠ hd1Die → t.ev d = s.ev d) ∧
      t = ({ s with evd := t.evd, snapBusy := t.snapBusy } : State).refresh) ∧
    ((isPf fn = false ∨ bit v 31 = false ∨ s.snapBusy ≠ []) → t = s.refresh)) ∧
  (∀ d, (d ∉ s.snapBusy ∨ s.resyncing (netCrossing d) = true) → exec (.snapshotMessage d) s = .next s) ∧
  (∀ d, d ∈ s.snapBusy → s.resyncing (netCrossing d) = false → ∃ t, exec (.snapshotMessage d) s = .next t ∧ t.ev d = { s.ev d with snap := (s.ev d).tick } ∧
    (∀ k, k ≠ d → t.ev k = s.ev k) ∧ t = ({ s with evd := t.evd, snapBusy := s.snapBusy.filter (· != d) } : State).refresh) ∧
  (∀ d code a b, s.boot.wait ≠ .power → d < 32 → code < 65536 → ∃ t, exec (.eventRecord d code a b) s = .next t ∧
    let e := s.ev d
    t.ev d = (if e.waiting.length < 16 then
        { e with waiting := e.waiting ++ [(e.tick, e.seq, code, a % 2 ^ 32, b % 2 ^ 32)], seq := (e.seq + 1) % 2 ^ 32 }
      else { e with seq := (e.seq + 1) % 2 ^ 32, drop := min 0xFFFFFFFF (e.drop + 1) }) ∧
    (∀ k, k ≠ d → t.ev k = s.ev k) ∧ (code ≠ 0x0301 → t = ({ s with evd := t.evd } : State).refresh) ∧
    (code = 0x0301 → let k := 32 * bits a 4 0 + bits a 15 8 % 32
      t.crossing k = { s.crossing k with disagree := true } ∧ (∀ j, j ≠ k → t.crossing j = s.crossing j) ∧
      t = ({ s with evd := t.evd, cross := t.cross } : State).refresh)) ∧
  (∀ d, d < 31 → s.resyncing (returnCrossing d) = true → exec (.eventStore d) s = .next s) ∧
  (∀ d, d < 32 → d = 31 ∨ s.resyncing (returnCrossing d) = false → ∃ t, exec (.eventStore d) s = .next t ∧ ((s.ev d).waiting = [] → t = s.refresh) ∧
    ∀ r rest, (s.ev d).waiting = r :: rest → t.ev d = { s.ev d with waiting := rest } ∧ (∀ k, k ≠ d → t.ev k = s.ev k) ∧
      t.evTotal = s.evTotal + 1 ∧ (∀ j, j ≠ s.evTotal % 4096 → t.logSlot j = s.logSlot j) ∧
      t.logSlot (s.evTotal % 4096) = some ⟨r.1, r.2.1, r.2.2.1, 256 * s.modid + d, r.2.2.2.1, r.2.2.2.2, s.resetCount, s.evTotal % 2 ^ 32⟩ ∧
      (s.eventReceiver = none → t.out = s.out) ∧ t = ({ s with evd := t.evd, evlog := t.evlog, evTotal := t.evTotal, out := t.out } : State).refresh) ∧
  ∀ fn n, s.regsOpen fn = true → n < 4096 → ∃ t, exec (.evtSlotRead fn n) s = .next t ∧
    let w := match s.logSlot n with
      | some r => [r.tick % 2 ^ 32, r.tick / 2 ^ 32 % 2 ^ 32, r.seq, r.code + 65536 * r.src, r.arg0, r.arg1, r.boot, r.num]
      | none => List.replicate 8 0
    t.out = s.out ++ [.regRead fn (0x00210000 + 32 * n) 4 (if isPf fn then w.headD 0 else 0)] ∧
    Assoc.get none t.slotCap fn = (if isPf fn then some (n, w) else Assoc.get none s.slotCap fn) ∧
    (∀ k, k ≠ fn → Assoc.get none t.slotCap k = Assoc.get none s.slotCap k) ∧ t = ({ s with out := t.out, slotCap := t.slotCap } : State).refresh
end

