-- ==== Sys2Proof/Laws/State.lean ====
section
/-! SUPPORT. What each named update of the state changes and what it keeps: the small facts, true by unfolding, that later
proofs use in place of unfolding an update. -/

namespace Sys2Proof.Machine

/-- A change of one entry of `ctxs` keeps every other field. -/
@[simp] theorem State.modCtx_keeps (s : State) (k : Nat) (f : Ctx → Ctx) :
    (s.modCtx k f).pending = s.pending ∧ (s.modCtx k f).out = s.out ∧ (s.modCtx k f).clock = s.clock ∧
    (s.modCtx k f).fresh = s.fresh ∧ (s.modCtx k f).grade = s.grade ∧ (s.modCtx k f).longLife = s.longLife ∧
    (s.modCtx k f).stepping = s.stepping ∧ (s.modCtx k f).board = s.board ∧ (s.modCtx k f).flash = s.flash ∧
    (s.modCtx k f).boot = s.boot ∧ (s.modCtx k f).overlays = s.overlays ∧ (s.modCtx k f).active = s.active ∧
    (s.modCtx k f).ovlKept = s.ovlKept ∧ (s.modCtx k f).fallback = s.fallback ∧ (s.modCtx k f).ovlBusy = s.ovlBusy ∧
    (s.modCtx k f).ovlRefuse = s.ovlRefuse ∧ (s.modCtx k f).memSplit = s.memSplit ∧
    (s.modCtx k f).stripeAll = s.stripeAll ∧ (s.modCtx k f).resMib = s.resMib ∧ (s.modCtx k f).binMib = s.binMib ∧
    (s.modCtx k f).totalVf = s.totalVf ∧ (s.modCtx k f).vectors = s.vectors ∧ (s.modCtx k f).expert = s.expert ∧
    (s.modCtx k f).planReq = s.planReq ∧ (s.modCtx k f).planEff = s.planEff ∧
    (s.modCtx k f).planFromOverlay = s.planFromOverlay ∧ (s.modCtx k f).relocking = s.relocking ∧
    (s.modCtx k f).quiesce = s.quiesce ∧ (s.modCtx k f).applyReq = s.applyReq ∧
    (s.modCtx k f).groupTab = s.groupTab ∧ (s.modCtx k f).routeTab = s.routeTab ∧
    (s.modCtx k f).exportTab = s.exportTab ∧ (s.modCtx k f).update = s.update ∧
    (s.modCtx k f).persistUse = s.persistUse ∧ (s.modCtx k f).persistSeq = s.persistSeq ∧
    (s.modCtx k f).persistBusy = s.persistBusy ∧ (s.modCtx k f).persistAgain = s.persistAgain ∧
    (s.modCtx k f).resetWanted = s.resetWanted ∧ (s.modCtx k f).resetCause = s.resetCause ∧
    (s.modCtx k f).resetDie = s.resetDie ∧ (s.modCtx k f).resetCount = s.resetCount ∧
    (s.modCtx k f).pairRead = s.pairRead ∧ (s.modCtx k f).pairWrite = s.pairWrite ∧
    (s.modCtx k f).cacheCap = s.cacheCap ∧ (s.modCtx k f).slotCap = s.slotCap ∧ (s.modCtx k f).queues = s.queues ∧
    (s.modCtx k f).descs = s.descs ∧ (s.modCtx k f).allocs = s.allocs ∧ (s.modCtx k f).sems = s.sems ∧
    (s.modCtx k f).cmds = s.cmds ∧ (s.modCtx k f).accounts = s.accounts ∧ (s.modCtx k f).lastCtx = s.lastCtx ∧
    (s.modCtx k f).tlb = s.tlb ∧ (s.modCtx k f).mem = s.mem ∧ (s.modCtx k f).dcache = s.dcache ∧
    (s.modCtx k f).held = s.held ∧ (s.modCtx k f).bells = s.bells ∧ (s.modCtx k f).reads4 = s.reads4 ∧
    (s.modCtx k f).hits = s.hits ∧ (s.modCtx k f).tess = s.tess ∧ (s.modCtx k f).halts = s.halts ∧
    (s.modCtx k f).dies = s.dies ∧ (s.modCtx k f).pipes = s.pipes ∧ (s.modCtx k f).stackTab = s.stackTab ∧
    (s.modCtx k f).pages = s.pages ∧ (s.modCtx k f).lastOwner = s.lastOwner ∧ (s.modCtx k f).ledger = s.ledger ∧
    (s.modCtx k f).handles = s.handles ∧ (s.modCtx k f).slots = s.slots ∧ (s.modCtx k f).couriers = s.couriers ∧
    (s.modCtx k f).ports = s.ports ∧ (s.modCtx k f).groups = s.groups ∧ (s.modCtx k f).peers = s.peers ∧
    (s.modCtx k f).reqs = s.reqs ∧ (s.modCtx k f).nextTag = s.nextTag ∧ (s.modCtx k f).inbox = s.inbox ∧
    (s.modCtx k f).frames = s.frames ∧ (s.modCtx k f).funcs = s.funcs ∧ (s.modCtx k f).hports = s.hports ∧
    (s.modCtx k f).therm = s.therm ∧ (s.modCtx k f).atherm = s.atherm ∧ (s.modCtx k f).thermAlert = s.thermAlert ∧
    (s.modCtx k f).rails = s.rails ∧ (s.modCtx k f).dips = s.dips ∧ (s.modCtx k f).asupply = s.asupply ∧
    (s.modCtx k f).packageW = s.packageW ∧ (s.modCtx k f).cdMaxW = s.cdMaxW ∧
    (s.modCtx k f).refreshOp = s.refreshOp ∧ (s.modCtx k f).acts = s.acts ∧ (s.modCtx k f).patina = s.patina ∧
    (s.modCtx k f).vreq = s.vreq ∧ (s.modCtx k f).lpCtl = s.lpCtl ∧ (s.modCtx k f).pkg = s.pkg ∧
    (s.modCtx k f).s2Count = s.s2Count ∧ (s.modCtx k f).offDom = s.offDom ∧ (s.modCtx k f).evd = s.evd ∧
    (s.modCtx k f).evlog = s.evlog ∧ (s.modCtx k f).evTotal = s.evTotal ∧ (s.modCtx k f).snapBusy = s.snapBusy ∧
    (s.modCtx k f).cross = s.cross ∧ (s.modCtx k f).ecc = s.ecc ∧ (s.modCtx k f).i3cAddr = s.i3cAddr ∧
    (s.modCtx k f).eid = s.eid ∧ (s.modCtx k f).eventReceiver = s.eventReceiver ∧
    (s.modCtx k f).sensors = s.sensors ∧ (s.modCtx k f).jtagIr = s.jtagIr ∧ (s.modCtx k f).stalled = s.stalled ∧
    (s.modCtx k f).queue = s.queue ∧ (s.modCtx k f).desc = s.desc ∧ (s.modCtx k f).alloc = s.alloc ∧
    (s.modCtx k f).sem = s.sem ∧ (s.modCtx k f).account = s.account ∧ (s.modCtx k f).tessera = s.tessera ∧
    (s.modCtx k f).halt = s.halt ∧ (s.modCtx k f).die = s.die ∧ (s.modCtx k f).pipe = s.pipe ∧
    (s.modCtx k f).stack = s.stack ∧ (s.modCtx k f).entry = s.entry ∧ (s.modCtx k f).handle = s.handle ∧
    (s.modCtx k f).slot = s.slot ∧ (s.modCtx k f).courier = s.courier ∧ (s.modCtx k f).port = s.port ∧
    (s.modCtx k f).group = s.group ∧ (s.modCtx k f).peer = s.peer ∧ (s.modCtx k f).func = s.func ∧
    (s.modCtx k f).hport = s.hport ∧ (s.modCtx k f).logicTherm = s.logicTherm ∧
    (s.modCtx k f).arrayTherm = s.arrayTherm ∧ (s.modCtx k f).rail = s.rail ∧ (s.modCtx k f).ev = s.ev ∧
    (s.modCtx k f).crossing = s.crossing ∧ (s.modCtx k f).eccBlock = s.eccBlock ∧ (s.modCtx k f).line = s.line ∧
    (s.modCtx k f).logSlot = s.logSlot ∧ (s.modCtx k f).owner = s.owner :=
  ⟨rfl, rfl, rfl, rfl, rfl, rfl, rfl, rfl, rfl, rfl, rfl, rfl, rfl, rfl, rfl, rfl, rfl, rfl, rfl, rfl, rfl, rfl, rfl,
   rfl, rfl, rfl, rfl, rfl, rfl, rfl, rfl, rfl, rfl, rfl, rfl, rfl, rfl, rfl, rfl, rfl, rfl, rfl, rfl, rfl, rfl, rfl,
   rfl, rfl, rfl, rfl, rfl, rfl, rfl, rfl, rfl, rfl, rfl, rfl, rfl, rfl, rfl, rfl, rfl, rfl, rfl, rfl, rfl, rfl, rfl,
   rfl, rfl, rfl, rfl, rfl, rfl, rfl, rfl, rfl, rfl, rfl, rfl, rfl, rfl, rfl, rfl, rfl, rfl, rfl, rfl, rfl, rfl, rfl,
   rfl, rfl, rfl, rfl, rfl, rfl, rfl, rfl, rfl, rfl, rfl, rfl, rfl, rfl, rfl, rfl, rfl, rfl, rfl, rfl, rfl, rfl, rfl,
   rfl, rfl, rfl, rfl, rfl, rfl, rfl, rfl, rfl, rfl, rfl, rfl, rfl, rfl, rfl, rfl, rfl, rfl, rfl, rfl⟩

/-- A change of one entry of `queues` keeps every other field. -/
@[simp] theorem State.modQueue_keeps (s : State) (k : Nat) (f : Queue → Queue) :
    (s.modQueue k f).pending = s.pending ∧ (s.modQueue k f).out = s.out ∧ (s.modQueue k f).clock = s.clock ∧
    (s.modQueue k f).fresh = s.fresh ∧ (s.modQueue k f).grade = s.grade ∧ (s.modQueue k f).longLife = s.longLife ∧
    (s.modQueue k f).stepping = s.stepping ∧ (s.modQueue k f).board = s.board ∧ (s.modQueue k f).flash = s.flash ∧
    (s.modQueue k f).boot = s.boot ∧ (s.modQueue k f).overlays = s.overlays ∧ (s.modQueue k f).active = s.active ∧
    (s.modQueue k f).ovlKept = s.ovlKept ∧ (s.modQueue k f).fallback = s.fallback ∧
    (s.modQueue k f).ovlBusy = s.ovlBusy ∧ (s.modQueue k f).ovlRefuse = s.ovlRefuse ∧
    (s.modQueue k f).memSplit = s.memSplit ∧ (s.modQueue k f).stripeAll = s.stripeAll ∧
    (s.modQueue k f).resMib = s.resMib ∧ (s.modQueue k f).binMib = s.binMib ∧ (s.modQueue k f).totalVf = s.totalVf ∧
    (s.modQueue k f).vectors = s.vectors ∧ (s.modQueue k f).expert = s.expert ∧
    (s.modQueue k f).planReq = s.planReq ∧ (s.modQueue k f).planEff = s.planEff ∧
    (s.modQueue k f).planFromOverlay = s.planFromOverlay ∧ (s.modQueue k f).relocking = s.relocking ∧
    (s.modQueue k f).quiesce = s.quiesce ∧ (s.modQueue k f).applyReq = s.applyReq ∧
    (s.modQueue k f).groupTab = s.groupTab ∧ (s.modQueue k f).routeTab = s.routeTab ∧
    (s.modQueue k f).exportTab = s.exportTab ∧ (s.modQueue k f).update = s.update ∧
    (s.modQueue k f).persistUse = s.persistUse ∧ (s.modQueue k f).persistSeq = s.persistSeq ∧
    (s.modQueue k f).persistBusy = s.persistBusy ∧ (s.modQueue k f).persistAgain = s.persistAgain ∧
    (s.modQueue k f).resetWanted = s.resetWanted ∧ (s.modQueue k f).resetCause = s.resetCause ∧
    (s.modQueue k f).resetDie = s.resetDie ∧ (s.modQueue k f).resetCount = s.resetCount ∧
    (s.modQueue k f).pairRead = s.pairRead ∧ (s.modQueue k f).pairWrite = s.pairWrite ∧
    (s.modQueue k f).cacheCap = s.cacheCap ∧ (s.modQueue k f).slotCap = s.slotCap ∧ (s.modQueue k f).ctxs = s.ctxs ∧
    (s.modQueue k f).descs = s.descs ∧ (s.modQueue k f).allocs = s.allocs ∧ (s.modQueue k f).sems = s.sems ∧
    (s.modQueue k f).cmds = s.cmds ∧ (s.modQueue k f).accounts = s.accounts ∧ (s.modQueue k f).lastCtx = s.lastCtx ∧
    (s.modQueue k f).tlb = s.tlb ∧ (s.modQueue k f).mem = s.mem ∧ (s.modQueue k f).dcache = s.dcache ∧
    (s.modQueue k f).held = s.held ∧ (s.modQueue k f).bells = s.bells ∧ (s.modQueue k f).reads4 = s.reads4 ∧
    (s.modQueue k f).hits = s.hits ∧ (s.modQueue k f).tess = s.tess ∧ (s.modQueue k f).halts = s.halts ∧
    (s.modQueue k f).dies = s.dies ∧ (s.modQueue k f).pipes = s.pipes ∧ (s.modQueue k f).stackTab = s.stackTab ∧
    (s.modQueue k f).pages = s.pages ∧ (s.modQueue k f).lastOwner = s.lastOwner ∧
    (s.modQueue k f).ledger = s.ledger ∧ (s.modQueue k f).handles = s.handles ∧ (s.modQueue k f).slots = s.slots ∧
    (s.modQueue k f).couriers = s.couriers ∧ (s.modQueue k f).ports = s.ports ∧ (s.modQueue k f).groups = s.groups ∧
    (s.modQueue k f).peers = s.peers ∧ (s.modQueue k f).reqs = s.reqs ∧ (s.modQueue k f).nextTag = s.nextTag ∧
    (s.modQueue k f).inbox = s.inbox ∧ (s.modQueue k f).frames = s.frames ∧ (s.modQueue k f).funcs = s.funcs ∧
    (s.modQueue k f).hports = s.hports ∧ (s.modQueue k f).therm = s.therm ∧ (s.modQueue k f).atherm = s.atherm ∧
    (s.modQueue k f).thermAlert = s.thermAlert ∧ (s.modQueue k f).rails = s.rails ∧ (s.modQueue k f).dips = s.dips ∧
    (s.modQueue k f).asupply = s.asupply ∧ (s.modQueue k f).packageW = s.packageW ∧
    (s.modQueue k f).cdMaxW = s.cdMaxW ∧ (s.modQueue k f).refreshOp = s.refreshOp ∧ (s.modQueue k f).acts = s.acts ∧
    (s.modQueue k f).patina = s.patina ∧ (s.modQueue k f).vreq = s.vreq ∧ (s.modQueue k f).lpCtl = s.lpCtl ∧
    (s.modQueue k f).pkg = s.pkg ∧ (s.modQueue k f).s2Count = s.s2Count ∧ (s.modQueue k f).offDom = s.offDom ∧
    (s.modQueue k f).evd = s.evd ∧ (s.modQueue k f).evlog = s.evlog ∧ (s.modQueue k f).evTotal = s.evTotal ∧
    (s.modQueue k f).snapBusy = s.snapBusy ∧ (s.modQueue k f).cross = s.cross ∧ (s.modQueue k f).ecc = s.ecc ∧
    (s.modQueue k f).i3cAddr = s.i3cAddr ∧ (s.modQueue k f).eid = s.eid ∧
    (s.modQueue k f).eventReceiver = s.eventReceiver ∧ (s.modQueue k f).sensors = s.sensors ∧
    (s.modQueue k f).jtagIr = s.jtagIr ∧ (s.modQueue k f).stalled = s.stalled ∧ (s.modQueue k f).ctx = s.ctx ∧
    (s.modQueue k f).desc = s.desc ∧ (s.modQueue k f).alloc = s.alloc ∧ (s.modQueue k f).sem = s.sem ∧
    (s.modQueue k f).account = s.account ∧ (s.modQueue k f).tessera = s.tessera ∧ (s.modQueue k f).halt = s.halt ∧
    (s.modQueue k f).die = s.die ∧ (s.modQueue k f).pipe = s.pipe ∧ (s.modQueue k f).stack = s.stack ∧
    (s.modQueue k f).entry = s.entry ∧ (s.modQueue k f).handle = s.handle ∧ (s.modQueue k f).slot = s.slot ∧
    (s.modQueue k f).courier = s.courier ∧ (s.modQueue k f).port = s.port ∧ (s.modQueue k f).group = s.group ∧
    (s.modQueue k f).peer = s.peer ∧ (s.modQueue k f).func = s.func ∧ (s.modQueue k f).hport = s.hport ∧
    (s.modQueue k f).logicTherm = s.logicTherm ∧ (s.modQueue k f).arrayTherm = s.arrayTherm ∧
    (s.modQueue k f).rail = s.rail ∧ (s.modQueue k f).ev = s.ev ∧ (s.modQueue k f).crossing = s.crossing ∧
    (s.modQueue k f).eccBlock = s.eccBlock ∧ (s.modQueue k f).line = s.line ∧ (s.modQueue k f).logSlot = s.logSlot ∧
    (s.modQueue k f).owner = s.owner :=
  ⟨rfl, rfl, rfl, rfl, rfl, rfl, rfl, rfl, rfl, rfl, rfl, rfl, rfl, rfl, rfl, rfl, rfl, rfl, rfl, rfl, rfl, rfl, rfl,
   rfl, rfl, rfl, rfl, rfl, rfl, rfl, rfl, rfl, rfl, rfl, rfl, rfl, rfl, rfl, rfl, rfl, rfl, rfl, rfl, rfl, rfl, rfl,
   rfl, rfl, rfl, rfl, rfl, rfl, rfl, rfl, rfl, rfl, rfl, rfl, rfl, rfl, rfl, rfl, rfl, rfl, rfl, rfl, rfl, rfl, rfl,
   rfl, rfl, rfl, rfl, rfl, rfl, rfl, rfl, rfl, rfl, rfl, rfl, rfl, rfl, rfl, rfl, rfl, rfl, rfl, rfl, rfl, rfl, rfl,
   rfl, rfl, rfl, rfl, rfl, rfl, rfl, rfl, rfl, rfl, rfl, rfl, rfl, rfl, rfl, rfl, rfl, rfl, rfl, rfl, rfl, rfl, rfl,
   rfl, rfl, rfl, rfl, rfl, rfl, rfl, rfl, rfl, rfl, rfl, rfl, rfl, rfl, rfl, rfl, rfl, rfl, rfl, rfl⟩

/-- A change of one entry of `descs` keeps every other field. -/
@[simp] theorem State.modDesc_keeps (s : State) (k : Nat) (f : Option Desc → Option Desc) :
    (s.modDesc k f).pending = s.pending ∧ (s.modDesc k f).out = s.out ∧ (s.modDesc k f).clock = s.clock ∧
    (s.modDesc k f).fresh = s.fresh ∧ (s.modDesc k f).grade = s.grade ∧ (s.modDesc k f).longLife = s.longLife ∧
    (s.modDesc k f).stepping = s.stepping ∧ (s.modDesc k f).board = s.board ∧ (s.modDesc k f).flash = s.flash ∧
    (s.modDesc k f).boot = s.boot ∧ (s.modDesc k f).overlays = s.overlays ∧ (s.modDesc k f).active = s.active ∧
    (s.modDesc k f).ovlKept = s.ovlKept ∧ (s.modDesc k f).fallback = s.fallback ∧
    (s.modDesc k f).ovlBusy = s.ovlBusy ∧ (s.modDesc k f).ovlRefuse = s.ovlRefuse ∧
    (s.modDesc k f).memSplit = s.memSplit ∧ (s.modDesc k f).stripeAll = s.stripeAll ∧
    (s.modDesc k f).resMib = s.resMib ∧ (s.modDesc k f).binMib = s.binMib ∧ (s.modDesc k f).totalVf = s.totalVf ∧
    (s.modDesc k f).vectors = s.vectors ∧ (s.modDesc k f).expert = s.expert ∧ (s.modDesc k f).planReq = s.planReq ∧
    (s.modDesc k f).planEff = s.planEff ∧ (s.modDesc k f).planFromOverlay = s.planFromOverlay ∧
    (s.modDesc k f).relocking = s.relocking ∧ (s.modDesc k f).quiesce = s.quiesce ∧
    (s.modDesc k f).applyReq = s.applyReq ∧ (s.modDesc k f).groupTab = s.groupTab ∧
    (s.modDesc k f).routeTab = s.routeTab ∧ (s.modDesc k f).exportTab = s.exportTab ∧
    (s.modDesc k f).update = s.update ∧ (s.modDesc k f).persistUse = s.persistUse ∧
    (s.modDesc k f).persistSeq = s.persistSeq ∧ (s.modDesc k f).persistBusy = s.persistBusy ∧
    (s.modDesc k f).persistAgain = s.persistAgain ∧ (s.modDesc k f).resetWanted = s.resetWanted ∧
    (s.modDesc k f).resetCause = s.resetCause ∧ (s.modDesc k f).resetDie = s.resetDie ∧
    (s.modDesc k f).resetCount = s.resetCount ∧ (s.modDesc k f).pairRead = s.pairRead ∧
    (s.modDesc k f).pairWrite = s.pairWrite ∧ (s.modDesc k f).cacheCap = s.cacheCap ∧
    (s.modDesc k f).slotCap = s.slotCap ∧ (s.modDesc k f).ctxs = s.ctxs ∧ (s.modDesc k f).queues = s.queues ∧
    (s.modDesc k f).allocs = s.allocs ∧ (s.modDesc k f).sems = s.sems ∧ (s.modDesc k f).cmds = s.cmds ∧
    (s.modDesc k f).accounts = s.accounts ∧ (s.modDesc k f).lastCtx = s.lastCtx ∧ (s.modDesc k f).tlb = s.tlb ∧
    (s.modDesc k f).mem = s.mem ∧ (s.modDesc k f).dcache = s.dcache ∧ (s.modDesc k f).held = s.held ∧
    (s.modDesc k f).bells = s.bells ∧ (s.modDesc k f).reads4 = s.reads4 ∧ (s.modDesc k f).hits = s.hits ∧
    (s.modDesc k f).tess = s.tess ∧ (s.modDesc k f).halts = s.halts ∧ (s.modDesc k f).dies = s.dies ∧
    (s.modDesc k f).pipes = s.pipes ∧ (s.modDesc k f).stackTab = s.stackTab ∧ (s.modDesc k f).pages = s.pages ∧
    (s.modDesc k f).lastOwner = s.lastOwner ∧ (s.modDesc k f).ledger = s.ledger ∧
    (s.modDesc k f).handles = s.handles ∧ (s.modDesc k f).slots = s.slots ∧ (s.modDesc k f).couriers = s.couriers ∧
    (s.modDesc k f).ports = s.ports ∧ (s.modDesc k f).groups = s.groups ∧ (s.modDesc k f).peers = s.peers ∧
    (s.modDesc k f).reqs = s.reqs ∧ (s.modDesc k f).nextTag = s.nextTag ∧ (s.modDesc k f).inbox = s.inbox ∧
    (s.modDesc k f).frames = s.frames ∧ (s.modDesc k f).funcs = s.funcs ∧ (s.modDesc k f).hports = s.hports ∧
    (s.modDesc k f).therm = s.therm ∧ (s.modDesc k f).atherm = s.atherm ∧ (s.modDesc k f).thermAlert = s.thermAlert ∧
    (s.modDesc k f).rails = s.rails ∧ (s.modDesc k f).dips = s.dips ∧ (s.modDesc k f).asupply = s.asupply ∧
    (s.modDesc k f).packageW = s.packageW ∧ (s.modDesc k f).cdMaxW = s.cdMaxW ∧
    (s.modDesc k f).refreshOp = s.refreshOp ∧ (s.modDesc k f).acts = s.acts ∧ (s.modDesc k f).patina = s.patina ∧
    (s.modDesc k f).vreq = s.vreq ∧ (s.modDesc k f).lpCtl = s.lpCtl ∧ (s.modDesc k f).pkg = s.pkg ∧
    (s.modDesc k f).s2Count = s.s2Count ∧ (s.modDesc k f).offDom = s.offDom ∧ (s.modDesc k f).evd = s.evd ∧
    (s.modDesc k f).evlog = s.evlog ∧ (s.modDesc k f).evTotal = s.evTotal ∧ (s.modDesc k f).snapBusy = s.snapBusy ∧
    (s.modDesc k f).cross = s.cross ∧ (s.modDesc k f).ecc = s.ecc ∧ (s.modDesc k f).i3cAddr = s.i3cAddr ∧
    (s.modDesc k f).eid = s.eid ∧ (s.modDesc k f).eventReceiver = s.eventReceiver ∧
    (s.modDesc k f).sensors = s.sensors ∧ (s.modDesc k f).jtagIr = s.jtagIr ∧ (s.modDesc k f).stalled = s.stalled ∧
    (s.modDesc k f).ctx = s.ctx ∧ (s.modDesc k f).queue = s.queue ∧ (s.modDesc k f).alloc = s.alloc ∧
    (s.modDesc k f).sem = s.sem ∧ (s.modDesc k f).account = s.account ∧ (s.modDesc k f).tessera = s.tessera ∧
    (s.modDesc k f).halt = s.halt ∧ (s.modDesc k f).die = s.die ∧ (s.modDesc k f).pipe = s.pipe ∧
    (s.modDesc k f).stack = s.stack ∧ (s.modDesc k f).entry = s.entry ∧ (s.modDesc k f).handle = s.handle ∧
    (s.modDesc k f).slot = s.slot ∧ (s.modDesc k f).courier = s.courier ∧ (s.modDesc k f).port = s.port ∧
    (s.modDesc k f).group = s.group ∧ (s.modDesc k f).peer = s.peer ∧ (s.modDesc k f).func = s.func ∧
    (s.modDesc k f).hport = s.hport ∧ (s.modDesc k f).logicTherm = s.logicTherm ∧
    (s.modDesc k f).arrayTherm = s.arrayTherm ∧ (s.modDesc k f).rail = s.rail ∧ (s.modDesc k f).ev = s.ev ∧
    (s.modDesc k f).crossing = s.crossing ∧ (s.modDesc k f).eccBlock = s.eccBlock ∧ (s.modDesc k f).line = s.line ∧
    (s.modDesc k f).logSlot = s.logSlot ∧ (s.modDesc k f).owner = s.owner :=
  ⟨rfl, rfl, rfl, rfl, rfl, rfl, rfl, rfl, rfl, rfl, rfl, rfl, rfl, rfl, rfl, rfl, rfl, rfl, rfl, rfl, rfl, rfl, rfl,
   rfl, rfl, rfl, rfl, rfl, rfl, rfl, rfl, rfl, rfl, rfl, rfl, rfl, rfl, rfl, rfl, rfl, rfl, rfl, rfl, rfl, rfl, rfl,
   rfl, rfl, rfl, rfl, rfl, rfl, rfl, rfl, rfl, rfl, rfl, rfl, rfl, rfl, rfl, rfl, rfl, rfl, rfl, rfl, rfl, rfl, rfl,
   rfl, rfl, rfl, rfl, rfl, rfl, rfl, rfl, rfl, rfl, rfl, rfl, rfl, rfl, rfl, rfl, rfl, rfl, rfl, rfl, rfl, rfl, rfl,
   rfl, rfl, rfl, rfl, rfl, rfl, rfl, rfl, rfl, rfl, rfl, rfl, rfl, rfl, rfl, rfl, rfl, rfl, rfl, rfl, rfl, rfl, rfl,
   rfl, rfl, rfl, rfl, rfl, rfl, rfl, rfl, rfl, rfl, rfl, rfl, rfl, rfl, rfl, rfl, rfl, rfl, rfl, rfl⟩

/-- A change of one entry of `allocs` keeps every other field. -/
@[simp] theorem State.modAlloc_keeps (s : State) (k : Nat) (f : Option AllocRec → Option AllocRec) :
    (s.modAlloc k f).pending = s.pending ∧ (s.modAlloc k f).out = s.out ∧ (s.modAlloc k f).clock = s.clock ∧
    (s.modAlloc k f).fresh = s.fresh ∧ (s.modAlloc k f).grade = s.grade ∧ (s.modAlloc k f).longLife = s.longLife ∧
    (s.modAlloc k f).stepping = s.stepping ∧ (s.modAlloc k f).board = s.board ∧ (s.modAlloc k f).flash = s.flash ∧
    (s.modAlloc k f).boot = s.boot ∧ (s.modAlloc k f).overlays = s.overlays ∧ (s.modAlloc k f).active = s.active ∧
    (s.modAlloc k f).ovlKept = s.ovlKept ∧ (s.modAlloc k f).fallback = s.fallback ∧
    (s.modAlloc k f).ovlBusy = s.ovlBusy ∧ (s.modAlloc k f).ovlRefuse = s.ovlRefuse ∧
    (s.modAlloc k f).memSplit = s.memSplit ∧ (s.modAlloc k f).stripeAll = s.stripeAll ∧
    (s.modAlloc k f).resMib = s.resMib ∧ (s.modAlloc k f).binMib = s.binMib ∧ (s.modAlloc k f).totalVf = s.totalVf ∧
    (s.modAlloc k f).vectors = s.vectors ∧ (s.modAlloc k f).expert = s.expert ∧
    (s.modAlloc k f).planReq = s.planReq ∧ (s.modAlloc k f).planEff = s.planEff ∧
    (s.modAlloc k f).planFromOverlay = s.planFromOverlay ∧ (s.modAlloc k f).relocking = s.relocking ∧
    (s.modAlloc k f).quiesce = s.quiesce ∧ (s.modAlloc k f).applyReq = s.applyReq ∧
    (s.modAlloc k f).groupTab = s.groupTab ∧ (s.modAlloc k f).routeTab = s.routeTab ∧
    (s.modAlloc k f).exportTab = s.exportTab ∧ (s.modAlloc k f).update = s.update ∧
    (s.modAlloc k f).persistUse = s.persistUse ∧ (s.modAlloc k f).persistSeq = s.persistSeq ∧
    (s.modAlloc k f).persistBusy = s.persistBusy ∧ (s.modAlloc k f).persistAgain = s.persistAgain ∧
    (s.modAlloc k f).resetWanted = s.resetWanted ∧ (s.modAlloc k f).resetCause = s.resetCause ∧
    (s.modAlloc k f).resetDie = s.resetDie ∧ (s.modAlloc k f).resetCount = s.resetCount ∧
    (s.modAlloc k f).pairRead = s.pairRead ∧ (s.modAlloc k f).pairWrite = s.pairWrite ∧
    (s.modAlloc k f).cacheCap = s.cacheCap ∧ (s.modAlloc k f).slotCap = s.slotCap ∧ (s.modAlloc k f).ctxs = s.ctxs ∧
    (s.modAlloc k f).queues = s.queues ∧ (s.modAlloc k f).descs = s.descs ∧ (s.modAlloc k f).sems = s.sems ∧
    (s.modAlloc k f).cmds = s.cmds ∧ (s.modAlloc k f).accounts = s.accounts ∧ (s.modAlloc k f).lastCtx = s.lastCtx ∧
    (s.modAlloc k f).tlb = s.tlb ∧ (s.modAlloc k f).mem = s.mem ∧ (s.modAlloc k f).dcache = s.dcache ∧
    (s.modAlloc k f).held = s.held ∧ (s.modAlloc k f).bells = s.bells ∧ (s.modAlloc k f).reads4 = s.reads4 ∧
    (s.modAlloc k f).hits = s.hits ∧ (s.modAlloc k f).tess = s.tess ∧ (s.modAlloc k f).halts = s.halts ∧
    (s.modAlloc k f).dies = s.dies ∧ (s.modAlloc k f).pipes = s.pipes ∧ (s.modAlloc k f).stackTab = s.stackTab ∧
    (s.modAlloc k f).pages = s.pages ∧ (s.modAlloc k f).lastOwner = s.lastOwner ∧
    (s.modAlloc k f).ledger = s.ledger ∧ (s.modAlloc k f).handles = s.handles ∧ (s.modAlloc k f).slots = s.slots ∧
    (s.modAlloc k f).couriers = s.couriers ∧ (s.modAlloc k f).ports = s.ports ∧ (s.modAlloc k f).groups = s.groups ∧
    (s.modAlloc k f).peers = s.peers ∧ (s.modAlloc k f).reqs = s.reqs ∧ (s.modAlloc k f).nextTag = s.nextTag ∧
    (s.modAlloc k f).inbox = s.inbox ∧ (s.modAlloc k f).frames = s.frames ∧ (s.modAlloc k f).funcs = s.funcs ∧
    (s.modAlloc k f).hports = s.hports ∧ (s.modAlloc k f).therm = s.therm ∧ (s.modAlloc k f).atherm = s.atherm ∧
    (s.modAlloc k f).thermAlert = s.thermAlert ∧ (s.modAlloc k f).rails = s.rails ∧ (s.modAlloc k f).dips = s.dips ∧
    (s.modAlloc k f).asupply = s.asupply ∧ (s.modAlloc k f).packageW = s.packageW ∧
    (s.modAlloc k f).cdMaxW = s.cdMaxW ∧ (s.modAlloc k f).refreshOp = s.refreshOp ∧ (s.modAlloc k f).acts = s.acts ∧
    (s.modAlloc k f).patina = s.patina ∧ (s.modAlloc k f).vreq = s.vreq ∧ (s.modAlloc k f).lpCtl = s.lpCtl ∧
    (s.modAlloc k f).pkg = s.pkg ∧ (s.modAlloc k f).s2Count = s.s2Count ∧ (s.modAlloc k f).offDom = s.offDom ∧
    (s.modAlloc k f).evd = s.evd ∧ (s.modAlloc k f).evlog = s.evlog ∧ (s.modAlloc k f).evTotal = s.evTotal ∧
    (s.modAlloc k f).snapBusy = s.snapBusy ∧ (s.modAlloc k f).cross = s.cross ∧ (s.modAlloc k f).ecc = s.ecc ∧
    (s.modAlloc k f).i3cAddr = s.i3cAddr ∧ (s.modAlloc k f).eid = s.eid ∧
    (s.modAlloc k f).eventReceiver = s.eventReceiver ∧ (s.modAlloc k f).sensors = s.sensors ∧
    (s.modAlloc k f).jtagIr = s.jtagIr ∧ (s.modAlloc k f).stalled = s.stalled ∧ (s.modAlloc k f).ctx = s.ctx ∧
    (s.modAlloc k f).queue = s.queue ∧ (s.modAlloc k f).desc = s.desc ∧ (s.modAlloc k f).sem = s.sem ∧
    (s.modAlloc k f).account = s.account ∧ (s.modAlloc k f).tessera = s.tessera ∧ (s.modAlloc k f).halt = s.halt ∧
    (s.modAlloc k f).die = s.die ∧ (s.modAlloc k f).pipe = s.pipe ∧ (s.modAlloc k f).stack = s.stack ∧
    (s.modAlloc k f).entry = s.entry ∧ (s.modAlloc k f).handle = s.handle ∧ (s.modAlloc k f).slot = s.slot ∧
    (s.modAlloc k f).courier = s.courier ∧ (s.modAlloc k f).port = s.port ∧ (s.modAlloc k f).group = s.group ∧
    (s.modAlloc k f).peer = s.peer ∧ (s.modAlloc k f).func = s.func ∧ (s.modAlloc k f).hport = s.hport ∧
    (s.modAlloc k f).logicTherm = s.logicTherm ∧ (s.modAlloc k f).arrayTherm = s.arrayTherm ∧
    (s.modAlloc k f).rail = s.rail ∧ (s.modAlloc k f).ev = s.ev ∧ (s.modAlloc k f).crossing = s.crossing ∧
    (s.modAlloc k f).eccBlock = s.eccBlock ∧ (s.modAlloc k f).line = s.line ∧ (s.modAlloc k f).logSlot = s.logSlot ∧
    (s.modAlloc k f).owner = s.owner :=
  ⟨rfl, rfl, rfl, rfl, rfl, rfl, rfl, rfl, rfl, rfl, rfl, rfl, rfl, rfl, rfl, rfl, rfl, rfl, rfl, rfl, rfl, rfl, rfl,
   rfl, rfl, rfl, rfl, rfl, rfl, rfl, rfl, rfl, rfl, rfl, rfl, rfl, rfl, rfl, rfl, rfl, rfl, rfl, rfl, rfl, rfl, rfl,
   rfl, rfl, rfl, rfl, rfl, rfl, rfl, rfl, rfl, rfl, rfl, rfl, rfl, rfl, rfl, rfl, rfl, rfl, rfl, rfl, rfl, rfl, rfl,
   rfl, rfl, rfl, rfl, rfl, rfl, rfl, rfl, rfl, rfl, rfl, rfl, rfl, rfl, rfl, rfl, rfl, rfl, rfl, rfl, rfl, rfl, rfl,
   rfl, rfl, rfl, rfl, rfl, rfl, rfl, rfl, rfl, rfl, rfl, rfl, rfl, rfl, rfl, rfl, rfl, rfl, rfl, rfl, rfl, rfl, rfl,
   rfl, rfl, rfl, rfl, rfl, rfl, rfl, rfl, rfl, rfl, rfl, rfl, rfl, rfl, rfl, rfl, rfl, rfl, rfl, rfl⟩

/-- A change of one entry of `sems` keeps every other field. -/
@[simp] theorem State.modSem_keeps (s : State) (k : Nat) (f : W32 → W32) :
    (s.modSem k f).pending = s.pending ∧ (s.modSem k f).out = s.out ∧ (s.modSem k f).clock = s.clock ∧
    (s.modSem k f).fresh = s.fresh ∧ (s.modSem k f).grade = s.grade ∧ (s.modSem k f).longLife = s.longLife ∧
    (s.modSem k f).stepping = s.stepping ∧ (s.modSem k f).board = s.board ∧ (s.modSem k f).flash = s.flash ∧
    (s.modSem k f).boot = s.boot ∧ (s.modSem k f).overlays = s.overlays ∧ (s.modSem k f).active = s.active ∧
    (s.modSem k f).ovlKept = s.ovlKept ∧ (s.modSem k f).fallback = s.fallback ∧ (s.modSem k f).ovlBusy = s.ovlBusy ∧
    (s.modSem k f).ovlRefuse = s.ovlRefuse ∧ (s.modSem k f).memSplit = s.memSplit ∧
    (s.modSem k f).stripeAll = s.stripeAll ∧ (s.modSem k f).resMib = s.resMib ∧ (s.modSem k f).binMib = s.binMib ∧
    (s.modSem k f).totalVf = s.totalVf ∧ (s.modSem k f).vectors = s.vectors ∧ (s.modSem k f).expert = s.expert ∧
    (s.modSem k f).planReq = s.planReq ∧ (s.modSem k f).planEff = s.planEff ∧
    (s.modSem k f).planFromOverlay = s.planFromOverlay ∧ (s.modSem k f).relocking = s.relocking ∧
    (s.modSem k f).quiesce = s.quiesce ∧ (s.modSem k f).applyReq = s.applyReq ∧
    (s.modSem k f).groupTab = s.groupTab ∧ (s.modSem k f).routeTab = s.routeTab ∧
    (s.modSem k f).exportTab = s.exportTab ∧ (s.modSem k f).update = s.update ∧
    (s.modSem k f).persistUse = s.persistUse ∧ (s.modSem k f).persistSeq = s.persistSeq ∧
    (s.modSem k f).persistBusy = s.persistBusy ∧ (s.modSem k f).persistAgain = s.persistAgain ∧
    (s.modSem k f).resetWanted = s.resetWanted ∧ (s.modSem k f).resetCause = s.resetCause ∧
    (s.modSem k f).resetDie = s.resetDie ∧ (s.modSem k f).resetCount = s.resetCount ∧
    (s.modSem k f).pairRead = s.pairRead ∧ (s.modSem k f).pairWrite = s.pairWrite ∧
    (s.modSem k f).cacheCap = s.cacheCap ∧ (s.modSem k f).slotCap = s.slotCap ∧ (s.modSem k f).ctxs = s.ctxs ∧
    (s.modSem k f).queues = s.queues ∧ (s.modSem k f).descs = s.descs ∧ (s.modSem k f).allocs = s.allocs ∧
    (s.modSem k f).cmds = s.cmds ∧ (s.modSem k f).accounts = s.accounts ∧ (s.modSem k f).lastCtx = s.lastCtx ∧
    (s.modSem k f).tlb = s.tlb ∧ (s.modSem k f).mem = s.mem ∧ (s.modSem k f).dcache = s.dcache ∧
    (s.modSem k f).held = s.held ∧ (s.modSem k f).bells = s.bells ∧ (s.modSem k f).reads4 = s.reads4 ∧
    (s.modSem k f).hits = s.hits ∧ (s.modSem k f).tess = s.tess ∧ (s.modSem k f).halts = s.halts ∧
    (s.modSem k f).dies = s.dies ∧ (s.modSem k f).pipes = s.pipes ∧ (s.modSem k f).stackTab = s.stackTab ∧
    (s.modSem k f).pages = s.pages ∧ (s.modSem k f).lastOwner = s.lastOwner ∧ (s.modSem k f).ledger = s.ledger ∧
    (s.modSem k f).handles = s.handles ∧ (s.modSem k f).slots = s.slots ∧ (s.modSem k f).couriers = s.couriers ∧
    (s.modSem k f).ports = s.ports ∧ (s.modSem k f).groups = s.groups ∧ (s.modSem k f).peers = s.peers ∧
    (s.modSem k f).reqs = s.reqs ∧ (s.modSem k f).nextTag = s.nextTag ∧ (s.modSem k f).inbox = s.inbox ∧
    (s.modSem k f).frames = s.frames ∧ (s.modSem k f).funcs = s.funcs ∧ (s.modSem k f).hports = s.hports ∧
    (s.modSem k f).therm = s.therm ∧ (s.modSem k f).atherm = s.atherm ∧ (s.modSem k f).thermAlert = s.thermAlert ∧
    (s.modSem k f).rails = s.rails ∧ (s.modSem k f).dips = s.dips ∧ (s.modSem k f).asupply = s.asupply ∧
    (s.modSem k f).packageW = s.packageW ∧ (s.modSem k f).cdMaxW = s.cdMaxW ∧
    (s.modSem k f).refreshOp = s.refreshOp ∧ (s.modSem k f).acts = s.acts ∧ (s.modSem k f).patina = s.patina ∧
    (s.modSem k f).vreq = s.vreq ∧ (s.modSem k f).lpCtl = s.lpCtl ∧ (s.modSem k f).pkg = s.pkg ∧
    (s.modSem k f).s2Count = s.s2Count ∧ (s.modSem k f).offDom = s.offDom ∧ (s.modSem k f).evd = s.evd ∧
    (s.modSem k f).evlog = s.evlog ∧ (s.modSem k f).evTotal = s.evTotal ∧ (s.modSem k f).snapBusy = s.snapBusy ∧
    (s.modSem k f).cross = s.cross ∧ (s.modSem k f).ecc = s.ecc ∧ (s.modSem k f).i3cAddr = s.i3cAddr ∧
    (s.modSem k f).eid = s.eid ∧ (s.modSem k f).eventReceiver = s.eventReceiver ∧
    (s.modSem k f).sensors = s.sensors ∧ (s.modSem k f).jtagIr = s.jtagIr ∧ (s.modSem k f).stalled = s.stalled ∧
    (s.modSem k f).ctx = s.ctx ∧ (s.modSem k f).queue = s.queue ∧ (s.modSem k f).desc = s.desc ∧
    (s.modSem k f).alloc = s.alloc ∧ (s.modSem k f).account = s.account ∧ (s.modSem k f).tessera = s.tessera ∧
    (s.modSem k f).halt = s.halt ∧ (s.modSem k f).die = s.die ∧ (s.modSem k f).pipe = s.pipe ∧
    (s.modSem k f).stack = s.stack ∧ (s.modSem k f).entry = s.entry ∧ (s.modSem k f).handle = s.handle ∧
    (s.modSem k f).slot = s.slot ∧ (s.modSem k f).courier = s.courier ∧ (s.modSem k f).port = s.port ∧
    (s.modSem k f).group = s.group ∧ (s.modSem k f).peer = s.peer ∧ (s.modSem k f).func = s.func ∧
    (s.modSem k f).hport = s.hport ∧ (s.modSem k f).logicTherm = s.logicTherm ∧
    (s.modSem k f).arrayTherm = s.arrayTherm ∧ (s.modSem k f).rail = s.rail ∧ (s.modSem k f).ev = s.ev ∧
    (s.modSem k f).crossing = s.crossing ∧ (s.modSem k f).eccBlock = s.eccBlock ∧ (s.modSem k f).line = s.line ∧
    (s.modSem k f).logSlot = s.logSlot ∧ (s.modSem k f).owner = s.owner :=
  ⟨rfl, rfl, rfl, rfl, rfl, rfl, rfl, rfl, rfl, rfl, rfl, rfl, rfl, rfl, rfl, rfl, rfl, rfl, rfl, rfl, rfl, rfl, rfl,
   rfl, rfl, rfl, rfl, rfl, rfl, rfl, rfl, rfl, rfl, rfl, rfl, rfl, rfl, rfl, rfl, rfl, rfl, rfl, rfl, rfl, rfl, rfl,
   rfl, rfl, rfl, rfl, rfl, rfl, rfl, rfl, rfl, rfl, rfl, rfl, rfl, rfl, rfl, rfl, rfl, rfl, rfl, rfl, rfl, rfl, rfl,
   rfl, rfl, rfl, rfl, rfl, rfl, rfl, rfl, rfl, rfl, rfl, rfl, rfl, rfl, rfl, rfl, rfl, rfl, rfl, rfl, rfl, rfl, rfl,
   rfl, rfl, rfl, rfl, rfl, rfl, rfl, rfl, rfl, rfl, rfl, rfl, rfl, rfl, rfl, rfl, rfl, rfl, rfl, rfl, rfl, rfl, rfl,
   rfl, rfl, rfl, rfl, rfl, rfl, rfl, rfl, rfl, rfl, rfl, rfl, rfl, rfl, rfl, rfl, rfl, rfl, rfl, rfl⟩

/-- A change of one entry of `accounts` keeps every other field. -/
@[simp] theorem State.modAccount_keeps (s : State) (k : Nat) (f : Int → Int) :
    (s.modAccount k f).pending = s.pending ∧ (s.modAccount k f).out = s.out ∧ (s.modAccount k f).clock = s.clock ∧
    (s.modAccount k f).fresh = s.fresh ∧ (s.modAccount k f).grade = s.grade ∧
    (s.modAccount k f).longLife = s.longLife ∧ (s.modAccount k f).stepping = s.stepping ∧
    (s.modAccount k f).board = s.board ∧ (s.modAccount k f).flash = s.flash ∧ (s.modAccount k f).boot = s.boot ∧
    (s.modAccount k f).overlays = s.overlays ∧ (s.modAccount k f).active = s.active ∧
    (s.modAccount k f).ovlKept = s.ovlKept ∧ (s.modAccount k f).fallback = s.fallback ∧
    (s.modAccount k f).ovlBusy = s.ovlBusy ∧ (s.modAccount k f).ovlRefuse = s.ovlRefuse ∧
    (s.modAccount k f).memSplit = s.memSplit ∧ (s.modAccount k f).stripeAll = s.stripeAll ∧
    (s.modAccount k f).resMib = s.resMib ∧ (s.modAccount k f).binMib = s.binMib ∧
    (s.modAccount k f).totalVf = s.totalVf ∧ (s.modAccount k f).vectors = s.vectors ∧
    (s.modAccount k f).expert = s.expert ∧ (s.modAccount k f).planReq = s.planReq ∧
    (s.modAccount k f).planEff = s.planEff ∧ (s.modAccount k f).planFromOverlay = s.planFromOverlay ∧
    (s.modAccount k f).relocking = s.relocking ∧ (s.modAccount k f).quiesce = s.quiesce ∧
    (s.modAccount k f).applyReq = s.applyReq ∧ (s.modAccount k f).groupTab = s.groupTab ∧
    (s.modAccount k f).routeTab = s.routeTab ∧ (s.modAccount k f).exportTab = s.exportTab ∧
    (s.modAccount k f).update = s.update ∧ (s.modAccount k f).persistUse = s.persistUse ∧
    (s.modAccount k f).persistSeq = s.persistSeq ∧ (s.modAccount k f).persistBusy = s.persistBusy ∧
    (s.modAccount k f).persistAgain = s.persistAgain ∧ (s.modAccount k f).resetWanted = s.resetWanted ∧
    (s.modAccount k f).resetCause = s.resetCause ∧ (s.modAccount k f).resetDie = s.resetDie ∧
    (s.modAccount k f).resetCount = s.resetCount ∧ (s.modAccount k f).pairRead = s.pairRead ∧
    (s.modAccount k f).pairWrite = s.pairWrite ∧ (s.modAccount k f).cacheCap = s.cacheCap ∧
    (s.modAccount k f).slotCap = s.slotCap ∧ (s.modAccount k f).ctxs = s.ctxs ∧
    (s.modAccount k f).queues = s.queues ∧ (s.modAccount k f).descs = s.descs ∧
    (s.modAccount k f).allocs = s.allocs ∧ (s.modAccount k f).sems = s.sems ∧ (s.modAccount k f).cmds = s.cmds ∧
    (s.modAccount k f).lastCtx = s.lastCtx ∧ (s.modAccount k f).tlb = s.tlb ∧ (s.modAccount k f).mem = s.mem ∧
    (s.modAccount k f).dcache = s.dcache ∧ (s.modAccount k f).held = s.held ∧ (s.modAccount k f).bells = s.bells ∧
    (s.modAccount k f).reads4 = s.reads4 ∧ (s.modAccount k f).hits = s.hits ∧ (s.modAccount k f).tess = s.tess ∧
    (s.modAccount k f).halts = s.halts ∧ (s.modAccount k f).dies = s.dies ∧ (s.modAccount k f).pipes = s.pipes ∧
    (s.modAccount k f).stackTab = s.stackTab ∧ (s.modAccount k f).pages = s.pages ∧
    (s.modAccount k f).lastOwner = s.lastOwner ∧ (s.modAccount k f).ledger = s.ledger ∧
    (s.modAccount k f).handles = s.handles ∧ (s.modAccount k f).slots = s.slots ∧
    (s.modAccount k f).couriers = s.couriers ∧ (s.modAccount k f).ports = s.ports ∧
    (s.modAccount k f).groups = s.groups ∧ (s.modAccount k f).peers = s.peers ∧ (s.modAccount k f).reqs = s.reqs ∧
    (s.modAccount k f).nextTag = s.nextTag ∧ (s.modAccount k f).inbox = s.inbox ∧
    (s.modAccount k f).frames = s.frames ∧ (s.modAccount k f).funcs = s.funcs ∧
    (s.modAccount k f).hports = s.hports ∧ (s.modAccount k f).therm = s.therm ∧
    (s.modAccount k f).atherm = s.atherm ∧ (s.modAccount k f).thermAlert = s.thermAlert ∧
    (s.modAccount k f).rails = s.rails ∧ (s.modAccount k f).dips = s.dips ∧ (s.modAccount k f).asupply = s.asupply ∧
    (s.modAccount k f).packageW = s.packageW ∧ (s.modAccount k f).cdMaxW = s.cdMaxW ∧
    (s.modAccount k f).refreshOp = s.refreshOp ∧ (s.modAccount k f).acts = s.acts ∧
    (s.modAccount k f).patina = s.patina ∧ (s.modAccount k f).vreq = s.vreq ∧ (s.modAccount k f).lpCtl = s.lpCtl ∧
    (s.modAccount k f).pkg = s.pkg ∧ (s.modAccount k f).s2Count = s.s2Count ∧ (s.modAccount k f).offDom = s.offDom ∧
    (s.modAccount k f).evd = s.evd ∧ (s.modAccount k f).evlog = s.evlog ∧ (s.modAccount k f).evTotal = s.evTotal ∧
    (s.modAccount k f).snapBusy = s.snapBusy ∧ (s.modAccount k f).cross = s.cross ∧ (s.modAccount k f).ecc = s.ecc ∧
    (s.modAccount k f).i3cAddr = s.i3cAddr ∧ (s.modAccount k f).eid = s.eid ∧
    (s.modAccount k f).eventReceiver = s.eventReceiver ∧ (s.modAccount k f).sensors = s.sensors ∧
    (s.modAccount k f).jtagIr = s.jtagIr ∧ (s.modAccount k f).stalled = s.stalled ∧ (s.modAccount k f).ctx = s.ctx ∧
    (s.modAccount k f).queue = s.queue ∧ (s.modAccount k f).desc = s.desc ∧ (s.modAccount k f).alloc = s.alloc ∧
    (s.modAccount k f).sem = s.sem ∧ (s.modAccount k f).tessera = s.tessera ∧ (s.modAccount k f).halt = s.halt ∧
    (s.modAccount k f).die = s.die ∧ (s.modAccount k f).pipe = s.pipe ∧ (s.modAccount k f).stack = s.stack ∧
    (s.modAccount k f).entry = s.entry ∧ (s.modAccount k f).handle = s.handle ∧ (s.modAccount k f).slot = s.slot ∧
    (s.modAccount k f).courier = s.courier ∧ (s.modAccount k f).port = s.port ∧ (s.modAccount k f).group = s.group ∧
    (s.modAccount k f).peer = s.peer ∧ (s.modAccount k f).func = s.func ∧ (s.modAccount k f).hport = s.hport ∧
    (s.modAccount k f).logicTherm = s.logicTherm ∧ (s.modAccount k f).arrayTherm = s.arrayTherm ∧
    (s.modAccount k f).rail = s.rail ∧ (s.modAccount k f).ev = s.ev ∧ (s.modAccount k f).crossing = s.crossing ∧
    (s.modAccount k f).eccBlock = s.eccBlock ∧ (s.modAccount k f).line = s.line ∧
    (s.modAccount k f).logSlot = s.logSlot ∧ (s.modAccount k f).owner = s.owner :=
  ⟨rfl, rfl, rfl, rfl, rfl, rfl, rfl, rfl, rfl, rfl, rfl, rfl, rfl, rfl, rfl, rfl, rfl, rfl, rfl, rfl, rfl, rfl, rfl,
   rfl, rfl, rfl, rfl, rfl, rfl, rfl, rfl, rfl, rfl, rfl, rfl, rfl, rfl, rfl, rfl, rfl, rfl, rfl, rfl, rfl, rfl, rfl,
   rfl, rfl, rfl, rfl, rfl, rfl, rfl, rfl, rfl, rfl, rfl, rfl, rfl, rfl, rfl, rfl, rfl, rfl, rfl, rfl, rfl, rfl, rfl,
   rfl, rfl, rfl, rfl, rfl, rfl, rfl, rfl, rfl, rfl, rfl, rfl, rfl, rfl, rfl, rfl, rfl, rfl, rfl, rfl, rfl, rfl, rfl,
   rfl, rfl, rfl, rfl, rfl, rfl, rfl, rfl, rfl, rfl, rfl, rfl, rfl, rfl, rfl, rfl, rfl, rfl, rfl, rfl, rfl, rfl, rfl,
   rfl, rfl, rfl, rfl, rfl, rfl, rfl, rfl, rfl, rfl, rfl, rfl, rfl, rfl, rfl, rfl, rfl, rfl, rfl, rfl⟩

/-- A change of one entry of `tess` keeps every other field. -/
@[simp] theorem State.modTessera_keeps (s : State) (k : Nat) (f : Tess → Tess) :
    (s.modTessera k f).pending = s.pending ∧ (s.modTessera k f).out = s.out ∧ (s.modTessera k f).clock = s.clock ∧
    (s.modTessera k f).fresh = s.fresh ∧ (s.modTessera k f).grade = s.grade ∧
    (s.modTessera k f).longLife = s.longLife ∧ (s.modTessera k f).stepping = s.stepping ∧
    (s.modTessera k f).board = s.board ∧ (s.modTessera k f).flash = s.flash ∧ (s.modTessera k f).boot = s.boot ∧
    (s.modTessera k f).overlays = s.overlays ∧ (s.modTessera k f).active = s.active ∧
    (s.modTessera k f).ovlKept = s.ovlKept ∧ (s.modTessera k f).fallback = s.fallback ∧
    (s.modTessera k f).ovlBusy = s.ovlBusy ∧ (s.modTessera k f).ovlRefuse = s.ovlRefuse ∧
    (s.modTessera k f).memSplit = s.memSplit ∧ (s.modTessera k f).stripeAll = s.stripeAll ∧
    (s.modTessera k f).resMib = s.resMib ∧ (s.modTessera k f).binMib = s.binMib ∧
    (s.modTessera k f).totalVf = s.totalVf ∧ (s.modTessera k f).vectors = s.vectors ∧
    (s.modTessera k f).expert = s.expert ∧ (s.modTessera k f).planReq = s.planReq ∧
    (s.modTessera k f).planEff = s.planEff ∧ (s.modTessera k f).planFromOverlay = s.planFromOverlay ∧
    (s.modTessera k f).relocking = s.relocking ∧ (s.modTessera k f).quiesce = s.quiesce ∧
    (s.modTessera k f).applyReq = s.applyReq ∧ (s.modTessera k f).groupTab = s.groupTab ∧
    (s.modTessera k f).routeTab = s.routeTab ∧ (s.modTessera k f).exportTab = s.exportTab ∧
    (s.modTessera k f).update = s.update ∧ (s.modTessera k f).persistUse = s.persistUse ∧
    (s.modTessera k f).persistSeq = s.persistSeq ∧ (s.modTessera k f).persistBusy = s.persistBusy ∧
    (s.modTessera k f).persistAgain = s.persistAgain ∧ (s.modTessera k f).resetWanted = s.resetWanted ∧
    (s.modTessera k f).resetCause = s.resetCause ∧ (s.modTessera k f).resetDie = s.resetDie ∧
    (s.modTessera k f).resetCount = s.resetCount ∧ (s.modTessera k f).pairRead = s.pairRead ∧
    (s.modTessera k f).pairWrite = s.pairWrite ∧ (s.modTessera k f).cacheCap = s.cacheCap ∧
    (s.modTessera k f).slotCap = s.slotCap ∧ (s.modTessera k f).ctxs = s.ctxs ∧
    (s.modTessera k f).queues = s.queues ∧ (s.modTessera k f).descs = s.descs ∧
    (s.modTessera k f).allocs = s.allocs ∧ (s.modTessera k f).sems = s.sems ∧ (s.modTessera k f).cmds = s.cmds ∧
    (s.modTessera k f).accounts = s.accounts ∧ (s.modTessera k f).lastCtx = s.lastCtx ∧
    (s.modTessera k f).tlb = s.tlb ∧ (s.modTessera k f).mem = s.mem ∧ (s.modTessera k f).dcache = s.dcache ∧
    (s.modTessera k f).held = s.held ∧ (s.modTessera k f).bells = s.bells ∧ (s.modTessera k f).reads4 = s.reads4 ∧
    (s.modTessera k f).hits = s.hits ∧ (s.modTessera k f).halts = s.halts ∧ (s.modTessera k f).dies = s.dies ∧
    (s.modTessera k f).pipes = s.pipes ∧ (s.modTessera k f).stackTab = s.stackTab ∧
    (s.modTessera k f).pages = s.pages ∧ (s.modTessera k f).lastOwner = s.lastOwner ∧
    (s.modTessera k f).ledger = s.ledger ∧ (s.modTessera k f).handles = s.handles ∧
    (s.modTessera k f).slots = s.slots ∧ (s.modTessera k f).couriers = s.couriers ∧
    (s.modTessera k f).ports = s.ports ∧ (s.modTessera k f).groups = s.groups ∧ (s.modTessera k f).peers = s.peers ∧
    (s.modTessera k f).reqs = s.reqs ∧ (s.modTessera k f).nextTag = s.nextTag ∧ (s.modTessera k f).inbox = s.inbox ∧
    (s.modTessera k f).frames = s.frames ∧ (s.modTessera k f).funcs = s.funcs ∧
    (s.modTessera k f).hports = s.hports ∧ (s.modTessera k f).therm = s.therm ∧
    (s.modTessera k f).atherm = s.atherm ∧ (s.modTessera k f).thermAlert = s.thermAlert ∧
    (s.modTessera k f).rails = s.rails ∧ (s.modTessera k f).dips = s.dips ∧ (s.modTessera k f).asupply = s.asupply ∧
    (s.modTessera k f).packageW = s.packageW ∧ (s.modTessera k f).cdMaxW = s.cdMaxW ∧
    (s.modTessera k f).refreshOp = s.refreshOp ∧ (s.modTessera k f).acts = s.acts ∧
    (s.modTessera k f).patina = s.patina ∧ (s.modTessera k f).vreq = s.vreq ∧ (s.modTessera k f).lpCtl = s.lpCtl ∧
    (s.modTessera k f).pkg = s.pkg ∧ (s.modTessera k f).s2Count = s.s2Count ∧ (s.modTessera k f).offDom = s.offDom ∧
    (s.modTessera k f).evd = s.evd ∧ (s.modTessera k f).evlog = s.evlog ∧ (s.modTessera k f).evTotal = s.evTotal ∧
    (s.modTessera k f).snapBusy = s.snapBusy ∧ (s.modTessera k f).cross = s.cross ∧ (s.modTessera k f).ecc = s.ecc ∧
    (s.modTessera k f).i3cAddr = s.i3cAddr ∧ (s.modTessera k f).eid = s.eid ∧
    (s.modTessera k f).eventReceiver = s.eventReceiver ∧ (s.modTessera k f).sensors = s.sensors ∧
    (s.modTessera k f).jtagIr = s.jtagIr ∧ (s.modTessera k f).stalled = s.stalled ∧ (s.modTessera k f).ctx = s.ctx ∧
    (s.modTessera k f).queue = s.queue ∧ (s.modTessera k f).desc = s.desc ∧ (s.modTessera k f).alloc = s.alloc ∧
    (s.modTessera k f).sem = s.sem ∧ (s.modTessera k f).account = s.account ∧ (s.modTessera k f).halt = s.halt ∧
    (s.modTessera k f).die = s.die ∧ (s.modTessera k f).pipe = s.pipe ∧ (s.modTessera k f).stack = s.stack ∧
    (s.modTessera k f).entry = s.entry ∧ (s.modTessera k f).handle = s.handle ∧ (s.modTessera k f).slot = s.slot ∧
    (s.modTessera k f).courier = s.courier ∧ (s.modTessera k f).port = s.port ∧ (s.modTessera k f).group = s.group ∧
    (s.modTessera k f).peer = s.peer ∧ (s.modTessera k f).func = s.func ∧ (s.modTessera k f).hport = s.hport ∧
    (s.modTessera k f).logicTherm = s.logicTherm ∧ (s.modTessera k f).arrayTherm = s.arrayTherm ∧
    (s.modTessera k f).rail = s.rail ∧ (s.modTessera k f).ev = s.ev ∧ (s.modTessera k f).crossing = s.crossing ∧
    (s.modTessera k f).eccBlock = s.eccBlock ∧ (s.modTessera k f).line = s.line ∧
    (s.modTessera k f).logSlot = s.logSlot ∧ (s.modTessera k f).owner = s.owner :=
  ⟨rfl, rfl, rfl, rfl, rfl, rfl, rfl, rfl, rfl, rfl, rfl, rfl, rfl, rfl, rfl, rfl, rfl, rfl, rfl, rfl, rfl, rfl, rfl,
   rfl, rfl, rfl, rfl, rfl, rfl, rfl, rfl, rfl, rfl, rfl, rfl, rfl, rfl, rfl, rfl, rfl, rfl, rfl, rfl, rfl, rfl, rfl,
   rfl, rfl, rfl, rfl, rfl, rfl, rfl, rfl, rfl, rfl, rfl, rfl, rfl, rfl, rfl, rfl, rfl, rfl, rfl, rfl, rfl, rfl, rfl,
   rfl, rfl, rfl, rfl, rfl, rfl, rfl, rfl, rfl, rfl, rfl, rfl, rfl, rfl, rfl, rfl, rfl, rfl, rfl, rfl, rfl, rfl, rfl,
   rfl, rfl, rfl, rfl, rfl, rfl, rfl, rfl, rfl, rfl, rfl, rfl, rfl, rfl, rfl, rfl, rfl, rfl, rfl, rfl, rfl, rfl, rfl,
   rfl, rfl, rfl, rfl, rfl, rfl, rfl, rfl, rfl, rfl, rfl, rfl, rfl, rfl, rfl, rfl, rfl, rfl, rfl, rfl⟩

/-- A change of one entry of `halts` keeps every other field. -/
@[simp] theorem State.modHalt_keeps (s : State) (k : Nat) (f : HaltRec → HaltRec) :
    (s.modHalt k f).pending = s.pending ∧ (s.modHalt k f).out = s.out ∧ (s.modHalt k f).clock = s.clock ∧
    (s.modHalt k f).fresh = s.fresh ∧ (s.modHalt k f).grade = s.grade ∧ (s.modHalt k f).longLife = s.longLife ∧
    (s.modHalt k f).stepping = s.stepping ∧ (s.modHalt k f).board = s.board ∧ (s.modHalt k f).flash = s.flash ∧
    (s.modHalt k f).boot = s.boot ∧ (s.modHalt k f).overlays = s.overlays ∧ (s.modHalt k f).active = s.active ∧
    (s.modHalt k f).ovlKept = s.ovlKept ∧ (s.modHalt k f).fallback = s.fallback ∧
    (s.modHalt k f).ovlBusy = s.ovlBusy ∧ (s.modHalt k f).ovlRefuse = s.ovlRefuse ∧
    (s.modHalt k f).memSplit = s.memSplit ∧ (s.modHalt k f).stripeAll = s.stripeAll ∧
    (s.modHalt k f).resMib = s.resMib ∧ (s.modHalt k f).binMib = s.binMib ∧ (s.modHalt k f).totalVf = s.totalVf ∧
    (s.modHalt k f).vectors = s.vectors ∧ (s.modHalt k f).expert = s.expert ∧ (s.modHalt k f).planReq = s.planReq ∧
    (s.modHalt k f).planEff = s.planEff ∧ (s.modHalt k f).planFromOverlay = s.planFromOverlay ∧
    (s.modHalt k f).relocking = s.relocking ∧ (s.modHalt k f).quiesce = s.quiesce ∧
    (s.modHalt k f).applyReq = s.applyReq ∧ (s.modHalt k f).groupTab = s.groupTab ∧
    (s.modHalt k f).routeTab = s.routeTab ∧ (s.modHalt k f).exportTab = s.exportTab ∧
    (s.modHalt k f).update = s.update ∧ (s.modHalt k f).persistUse = s.persistUse ∧
    (s.modHalt k f).persistSeq = s.persistSeq ∧ (s.modHalt k f).persistBusy = s.persistBusy ∧
    (s.modHalt k f).persistAgain = s.persistAgain ∧ (s.modHalt k f).resetWanted = s.resetWanted ∧
    (s.modHalt k f).resetCause = s.resetCause ∧ (s.modHalt k f).resetDie = s.resetDie ∧
    (s.modHalt k f).resetCount = s.resetCount ∧ (s.modHalt k f).pairRead = s.pairRead ∧
    (s.modHalt k f).pairWrite = s.pairWrite ∧ (s.modHalt k f).cacheCap = s.cacheCap ∧
    (s.modHalt k f).slotCap = s.slotCap ∧ (s.modHalt k f).ctxs = s.ctxs ∧ (s.modHalt k f).queues = s.queues ∧
    (s.modHalt k f).descs = s.descs ∧ (s.modHalt k f).allocs = s.allocs ∧ (s.modHalt k f).sems = s.sems ∧
    (s.modHalt k f).cmds = s.cmds ∧ (s.modHalt k f).accounts = s.accounts ∧ (s.modHalt k f).lastCtx = s.lastCtx ∧
    (s.modHalt k f).tlb = s.tlb ∧ (s.modHalt k f).mem = s.mem ∧ (s.modHalt k f).dcache = s.dcache ∧
    (s.modHalt k f).held = s.held ∧ (s.modHalt k f).bells = s.bells ∧ (s.modHalt k f).reads4 = s.reads4 ∧
    (s.modHalt k f).hits = s.hits ∧ (s.modHalt k f).tess = s.tess ∧ (s.modHalt k f).dies = s.dies ∧
    (s.modHalt k f).pipes = s.pipes ∧ (s.modHalt k f).stackTab = s.stackTab ∧ (s.modHalt k f).pages = s.pages ∧
    (s.modHalt k f).lastOwner = s.lastOwner ∧ (s.modHalt k f).ledger = s.ledger ∧
    (s.modHalt k f).handles = s.handles ∧ (s.modHalt k f).slots = s.slots ∧ (s.modHalt k f).couriers = s.couriers ∧
    (s.modHalt k f).ports = s.ports ∧ (s.modHalt k f).groups = s.groups ∧ (s.modHalt k f).peers = s.peers ∧
    (s.modHalt k f).reqs = s.reqs ∧ (s.modHalt k f).nextTag = s.nextTag ∧ (s.modHalt k f).inbox = s.inbox ∧
    (s.modHalt k f).frames = s.frames ∧ (s.modHalt k f).funcs = s.funcs ∧ (s.modHalt k f).hports = s.hports ∧
    (s.modHalt k f).therm = s.therm ∧ (s.modHalt k f).atherm = s.atherm ∧ (s.modHalt k f).thermAlert = s.thermAlert ∧
    (s.modHalt k f).rails = s.rails ∧ (s.modHalt k f).dips = s.dips ∧ (s.modHalt k f).asupply = s.asupply ∧
    (s.modHalt k f).packageW = s.packageW ∧ (s.modHalt k f).cdMaxW = s.cdMaxW ∧
    (s.modHalt k f).refreshOp = s.refreshOp ∧ (s.modHalt k f).acts = s.acts ∧ (s.modHalt k f).patina = s.patina ∧
    (s.modHalt k f).vreq = s.vreq ∧ (s.modHalt k f).lpCtl = s.lpCtl ∧ (s.modHalt k f).pkg = s.pkg ∧
    (s.modHalt k f).s2Count = s.s2Count ∧ (s.modHalt k f).offDom = s.offDom ∧ (s.modHalt k f).evd = s.evd ∧
    (s.modHalt k f).evlog = s.evlog ∧ (s.modHalt k f).evTotal = s.evTotal ∧ (s.modHalt k f).snapBusy = s.snapBusy ∧
    (s.modHalt k f).cross = s.cross ∧ (s.modHalt k f).ecc = s.ecc ∧ (s.modHalt k f).i3cAddr = s.i3cAddr ∧
    (s.modHalt k f).eid = s.eid ∧ (s.modHalt k f).eventReceiver = s.eventReceiver ∧
    (s.modHalt k f).sensors = s.sensors ∧ (s.modHalt k f).jtagIr = s.jtagIr ∧ (s.modHalt k f).stalled = s.stalled ∧
    (s.modHalt k f).ctx = s.ctx ∧ (s.modHalt k f).queue = s.queue ∧ (s.modHalt k f).desc = s.desc ∧
    (s.modHalt k f).alloc = s.alloc ∧ (s.modHalt k f).sem = s.sem ∧ (s.modHalt k f).account = s.account ∧
    (s.modHalt k f).tessera = s.tessera ∧ (s.modHalt k f).die = s.die ∧ (s.modHalt k f).pipe = s.pipe ∧
    (s.modHalt k f).stack = s.stack ∧ (s.modHalt k f).entry = s.entry ∧ (s.modHalt k f).handle = s.handle ∧
    (s.modHalt k f).slot = s.slot ∧ (s.modHalt k f).courier = s.courier ∧ (s.modHalt k f).port = s.port ∧
    (s.modHalt k f).group = s.group ∧ (s.modHalt k f).peer = s.peer ∧ (s.modHalt k f).func = s.func ∧
    (s.modHalt k f).hport = s.hport ∧ (s.modHalt k f).logicTherm = s.logicTherm ∧
    (s.modHalt k f).arrayTherm = s.arrayTherm ∧ (s.modHalt k f).rail = s.rail ∧ (s.modHalt k f).ev = s.ev ∧
    (s.modHalt k f).crossing = s.crossing ∧ (s.modHalt k f).eccBlock = s.eccBlock ∧ (s.modHalt k f).line = s.line ∧
    (s.modHalt k f).logSlot = s.logSlot ∧ (s.modHalt k f).owner = s.owner :=
  ⟨rfl, rfl, rfl, rfl, rfl, rfl, rfl, rfl, rfl, rfl, rfl, rfl, rfl, rfl, rfl, rfl, rfl, rfl, rfl, rfl, rfl, rfl, rfl,
   rfl, rfl, rfl, rfl, rfl, rfl, rfl, rfl, rfl, rfl, rfl, rfl, rfl, rfl, rfl, rfl, rfl, rfl, rfl, rfl, rfl, rfl, rfl,
   rfl, rfl, rfl, rfl, rfl, rfl, rfl, rfl, rfl, rfl, rfl, rfl, rfl, rfl, rfl, rfl, rfl, rfl, rfl, rfl, rfl, rfl, rfl,
   rfl, rfl, rfl, rfl, rfl, rfl, rfl, rfl, rfl, rfl, rfl, rfl, rfl, rfl, rfl, rfl, rfl, rfl, rfl, rfl, rfl, rfl, rfl,
   rfl, rfl, rfl, rfl, rfl, rfl, rfl, rfl, rfl, rfl, rfl, rfl, rfl, rfl, rfl, rfl, rfl, rfl, rfl, rfl, rfl, rfl, rfl,
   rfl, rfl, rfl, rfl, rfl, rfl, rfl, rfl, rfl, rfl, rfl, rfl, rfl, rfl, rfl, rfl, rfl, rfl, rfl, rfl⟩

/-- A change of one entry of `dies` keeps every other field. -/
@[simp] theorem State.modDie_keeps (s : State) (k : Nat) (f : Die → Die) :
    (s.modDie k f).pending = s.pending ∧ (s.modDie k f).out = s.out ∧ (s.modDie k f).clock = s.clock ∧
    (s.modDie k f).fresh = s.fresh ∧ (s.modDie k f).grade = s.grade ∧ (s.modDie k f).longLife = s.longLife ∧
    (s.modDie k f).stepping = s.stepping ∧ (s.modDie k f).board = s.board ∧ (s.modDie k f).flash = s.flash ∧
    (s.modDie k f).boot = s.boot ∧ (s.modDie k f).overlays = s.overlays ∧ (s.modDie k f).active = s.active ∧
    (s.modDie k f).ovlKept = s.ovlKept ∧ (s.modDie k f).fallback = s.fallback ∧ (s.modDie k f).ovlBusy = s.ovlBusy ∧
    (s.modDie k f).ovlRefuse = s.ovlRefuse ∧ (s.modDie k f).memSplit = s.memSplit ∧
    (s.modDie k f).stripeAll = s.stripeAll ∧ (s.modDie k f).resMib = s.resMib ∧ (s.modDie k f).binMib = s.binMib ∧
    (s.modDie k f).totalVf = s.totalVf ∧ (s.modDie k f).vectors = s.vectors ∧ (s.modDie k f).expert = s.expert ∧
    (s.modDie k f).planReq = s.planReq ∧ (s.modDie k f).planEff = s.planEff ∧
    (s.modDie k f).planFromOverlay = s.planFromOverlay ∧ (s.modDie k f).relocking = s.relocking ∧
    (s.modDie k f).quiesce = s.quiesce ∧ (s.modDie k f).applyReq = s.applyReq ∧
    (s.modDie k f).groupTab = s.groupTab ∧ (s.modDie k f).routeTab = s.routeTab ∧
    (s.modDie k f).exportTab = s.exportTab ∧ (s.modDie k f).update = s.update ∧
    (s.modDie k f).persistUse = s.persistUse ∧ (s.modDie k f).persistSeq = s.persistSeq ∧
    (s.modDie k f).persistBusy = s.persistBusy ∧ (s.modDie k f).persistAgain = s.persistAgain ∧
    (s.modDie k f).resetWanted = s.resetWanted ∧ (s.modDie k f).resetCause = s.resetCause ∧
    (s.modDie k f).resetDie = s.resetDie ∧ (s.modDie k f).resetCount = s.resetCount ∧
    (s.modDie k f).pairRead = s.pairRead ∧ (s.modDie k f).pairWrite = s.pairWrite ∧
    (s.modDie k f).cacheCap = s.cacheCap ∧ (s.modDie k f).slotCap = s.slotCap ∧ (s.modDie k f).ctxs = s.ctxs ∧
    (s.modDie k f).queues = s.queues ∧ (s.modDie k f).descs = s.descs ∧ (s.modDie k f).allocs = s.allocs ∧
    (s.modDie k f).sems = s.sems ∧ (s.modDie k f).cmds = s.cmds ∧ (s.modDie k f).accounts = s.accounts ∧
    (s.modDie k f).lastCtx = s.lastCtx ∧ (s.modDie k f).tlb = s.tlb ∧ (s.modDie k f).mem = s.mem ∧
    (s.modDie k f).dcache = s.dcache ∧ (s.modDie k f).held = s.held ∧ (s.modDie k f).bells = s.bells ∧
    (s.modDie k f).reads4 = s.reads4 ∧ (s.modDie k f).hits = s.hits ∧ (s.modDie k f).tess = s.tess ∧
    (s.modDie k f).halts = s.halts ∧ (s.modDie k f).pipes = s.pipes ∧ (s.modDie k f).stackTab = s.stackTab ∧
    (s.modDie k f).pages = s.pages ∧ (s.modDie k f).lastOwner = s.lastOwner ∧ (s.modDie k f).ledger = s.ledger ∧
    (s.modDie k f).handles = s.handles ∧ (s.modDie k f).slots = s.slots ∧ (s.modDie k f).couriers = s.couriers ∧
    (s.modDie k f).ports = s.ports ∧ (s.modDie k f).groups = s.groups ∧ (s.modDie k f).peers = s.peers ∧
    (s.modDie k f).reqs = s.reqs ∧ (s.modDie k f).nextTag = s.nextTag ∧ (s.modDie k f).inbox = s.inbox ∧
    (s.modDie k f).frames = s.frames ∧ (s.modDie k f).funcs = s.funcs ∧ (s.modDie k f).hports = s.hports ∧
    (s.modDie k f).therm = s.therm ∧ (s.modDie k f).atherm = s.atherm ∧ (s.modDie k f).thermAlert = s.thermAlert ∧
    (s.modDie k f).rails = s.rails ∧ (s.modDie k f).dips = s.dips ∧ (s.modDie k f).asupply = s.asupply ∧
    (s.modDie k f).packageW = s.packageW ∧ (s.modDie k f).cdMaxW = s.cdMaxW ∧
    (s.modDie k f).refreshOp = s.refreshOp ∧ (s.modDie k f).acts = s.acts ∧ (s.modDie k f).patina = s.patina ∧
    (s.modDie k f).vreq = s.vreq ∧ (s.modDie k f).lpCtl = s.lpCtl ∧ (s.modDie k f).pkg = s.pkg ∧
    (s.modDie k f).s2Count = s.s2Count ∧ (s.modDie k f).offDom = s.offDom ∧ (s.modDie k f).evd = s.evd ∧
    (s.modDie k f).evlog = s.evlog ∧ (s.modDie k f).evTotal = s.evTotal ∧ (s.modDie k f).snapBusy = s.snapBusy ∧
    (s.modDie k f).cross = s.cross ∧ (s.modDie k f).ecc = s.ecc ∧ (s.modDie k f).i3cAddr = s.i3cAddr ∧
    (s.modDie k f).eid = s.eid ∧ (s.modDie k f).eventReceiver = s.eventReceiver ∧
    (s.modDie k f).sensors = s.sensors ∧ (s.modDie k f).jtagIr = s.jtagIr ∧ (s.modDie k f).stalled = s.stalled ∧
    (s.modDie k f).ctx = s.ctx ∧ (s.modDie k f).queue = s.queue ∧ (s.modDie k f).desc = s.desc ∧
    (s.modDie k f).alloc = s.alloc ∧ (s.modDie k f).sem = s.sem ∧ (s.modDie k f).account = s.account ∧
    (s.modDie k f).tessera = s.tessera ∧ (s.modDie k f).halt = s.halt ∧ (s.modDie k f).pipe = s.pipe ∧
    (s.modDie k f).stack = s.stack ∧ (s.modDie k f).entry = s.entry ∧ (s.modDie k f).handle = s.handle ∧
    (s.modDie k f).slot = s.slot ∧ (s.modDie k f).courier = s.courier ∧ (s.modDie k f).port = s.port ∧
    (s.modDie k f).group = s.group ∧ (s.modDie k f).peer = s.peer ∧ (s.modDie k f).func = s.func ∧
    (s.modDie k f).hport = s.hport ∧ (s.modDie k f).logicTherm = s.logicTherm ∧
    (s.modDie k f).arrayTherm = s.arrayTherm ∧ (s.modDie k f).rail = s.rail ∧ (s.modDie k f).ev = s.ev ∧
    (s.modDie k f).crossing = s.crossing ∧ (s.modDie k f).eccBlock = s.eccBlock ∧ (s.modDie k f).line = s.line ∧
    (s.modDie k f).logSlot = s.logSlot ∧ (s.modDie k f).owner = s.owner :=
  ⟨rfl, rfl, rfl, rfl, rfl, rfl, rfl, rfl, rfl, rfl, rfl, rfl, rfl, rfl, rfl, rfl, rfl, rfl, rfl, rfl, rfl, rfl, rfl,
   rfl, rfl, rfl, rfl, rfl, rfl, rfl, rfl, rfl, rfl, rfl, rfl, rfl, rfl, rfl, rfl, rfl, rfl, rfl, rfl, rfl, rfl, rfl,
   rfl, rfl, rfl, rfl, rfl, rfl, rfl, rfl, rfl, rfl, rfl, rfl, rfl, rfl, rfl, rfl, rfl, rfl, rfl, rfl, rfl, rfl, rfl,
   rfl, rfl, rfl, rfl, rfl, rfl, rfl, rfl, rfl, rfl, rfl, rfl, rfl, rfl, rfl, rfl, rfl, rfl, rfl, rfl, rfl, rfl, rfl,
   rfl, rfl, rfl, rfl, rfl, rfl, rfl, rfl, rfl, rfl, rfl, rfl, rfl, rfl, rfl, rfl, rfl, rfl, rfl, rfl, rfl, rfl, rfl,
   rfl, rfl, rfl, rfl, rfl, rfl, rfl, rfl, rfl, rfl, rfl, rfl, rfl, rfl, rfl, rfl, rfl, rfl, rfl, rfl⟩

/-- A change of one entry of `pipes` keeps every other field. -/
@[simp] theorem State.modPipe_keeps (s : State) (k : Nat) (f : Pipe → Pipe) :
    (s.modPipe k f).pending = s.pending ∧ (s.modPipe k f).out = s.out ∧ (s.modPipe k f).clock = s.clock ∧
    (s.modPipe k f).fresh = s.fresh ∧ (s.modPipe k f).grade = s.grade ∧ (s.modPipe k f).longLife = s.longLife ∧
    (s.modPipe k f).stepping = s.stepping ∧ (s.modPipe k f).board = s.board ∧ (s.modPipe k f).flash = s.flash ∧
    (s.modPipe k f).boot = s.boot ∧ (s.modPipe k f).overlays = s.overlays ∧ (s.modPipe k f).active = s.active ∧
    (s.modPipe k f).ovlKept = s.ovlKept ∧ (s.modPipe k f).fallback = s.fallback ∧
    (s.modPipe k f).ovlBusy = s.ovlBusy ∧ (s.modPipe k f).ovlRefuse = s.ovlRefuse ∧
    (s.modPipe k f).memSplit = s.memSplit ∧ (s.modPipe k f).stripeAll = s.stripeAll ∧
    (s.modPipe k f).resMib = s.resMib ∧ (s.modPipe k f).binMib = s.binMib ∧ (s.modPipe k f).totalVf = s.totalVf ∧
    (s.modPipe k f).vectors = s.vectors ∧ (s.modPipe k f).expert = s.expert ∧ (s.modPipe k f).planReq = s.planReq ∧
    (s.modPipe k f).planEff = s.planEff ∧ (s.modPipe k f).planFromOverlay = s.planFromOverlay ∧
    (s.modPipe k f).relocking = s.relocking ∧ (s.modPipe k f).quiesce = s.quiesce ∧
    (s.modPipe k f).applyReq = s.applyReq ∧ (s.modPipe k f).groupTab = s.groupTab ∧
    (s.modPipe k f).routeTab = s.routeTab ∧ (s.modPipe k f).exportTab = s.exportTab ∧
    (s.modPipe k f).update = s.update ∧ (s.modPipe k f).persistUse = s.persistUse ∧
    (s.modPipe k f).persistSeq = s.persistSeq ∧ (s.modPipe k f).persistBusy = s.persistBusy ∧
    (s.modPipe k f).persistAgain = s.persistAgain ∧ (s.modPipe k f).resetWanted = s.resetWanted ∧
    (s.modPipe k f).resetCause = s.resetCause ∧ (s.modPipe k f).resetDie = s.resetDie ∧
    (s.modPipe k f).resetCount = s.resetCount ∧ (s.modPipe k f).pairRead = s.pairRead ∧
    (s.modPipe k f).pairWrite = s.pairWrite ∧ (s.modPipe k f).cacheCap = s.cacheCap ∧
    (s.modPipe k f).slotCap = s.slotCap ∧ (s.modPipe k f).ctxs = s.ctxs ∧ (s.modPipe k f).queues = s.queues ∧
    (s.modPipe k f).descs = s.descs ∧ (s.modPipe k f).allocs = s.allocs ∧ (s.modPipe k f).sems = s.sems ∧
    (s.modPipe k f).cmds = s.cmds ∧ (s.modPipe k f).accounts = s.accounts ∧ (s.modPipe k f).lastCtx = s.lastCtx ∧
    (s.modPipe k f).tlb = s.tlb ∧ (s.modPipe k f).mem = s.mem ∧ (s.modPipe k f).dcache = s.dcache ∧
    (s.modPipe k f).held = s.held ∧ (s.modPipe k f).bells = s.bells ∧ (s.modPipe k f).reads4 = s.reads4 ∧
    (s.modPipe k f).hits = s.hits ∧ (s.modPipe k f).tess = s.tess ∧ (s.modPipe k f).halts = s.halts ∧
    (s.modPipe k f).dies = s.dies ∧ (s.modPipe k f).stackTab = s.stackTab ∧ (s.modPipe k f).pages = s.pages ∧
    (s.modPipe k f).lastOwner = s.lastOwner ∧ (s.modPipe k f).ledger = s.ledger ∧
    (s.modPipe k f).handles = s.handles ∧ (s.modPipe k f).slots = s.slots ∧ (s.modPipe k f).couriers = s.couriers ∧
    (s.modPipe k f).ports = s.ports ∧ (s.modPipe k f).groups = s.groups ∧ (s.modPipe k f).peers = s.peers ∧
    (s.modPipe k f).reqs = s.reqs ∧ (s.modPipe k f).nextTag = s.nextTag ∧ (s.modPipe k f).inbox = s.inbox ∧
    (s.modPipe k f).frames = s.frames ∧ (s.modPipe k f).funcs = s.funcs ∧ (s.modPipe k f).hports = s.hports ∧
    (s.modPipe k f).therm = s.therm ∧ (s.modPipe k f).atherm = s.atherm ∧ (s.modPipe k f).thermAlert = s.thermAlert ∧
    (s.modPipe k f).rails = s.rails ∧ (s.modPipe k f).dips = s.dips ∧ (s.modPipe k f).asupply = s.asupply ∧
    (s.modPipe k f).packageW = s.packageW ∧ (s.modPipe k f).cdMaxW = s.cdMaxW ∧
    (s.modPipe k f).refreshOp = s.refreshOp ∧ (s.modPipe k f).acts = s.acts ∧ (s.modPipe k f).patina = s.patina ∧
    (s.modPipe k f).vreq = s.vreq ∧ (s.modPipe k f).lpCtl = s.lpCtl ∧ (s.modPipe k f).pkg = s.pkg ∧
    (s.modPipe k f).s2Count = s.s2Count ∧ (s.modPipe k f).offDom = s.offDom ∧ (s.modPipe k f).evd = s.evd ∧
    (s.modPipe k f).evlog = s.evlog ∧ (s.modPipe k f).evTotal = s.evTotal ∧ (s.modPipe k f).snapBusy = s.snapBusy ∧
    (s.modPipe k f).cross = s.cross ∧ (s.modPipe k f).ecc = s.ecc ∧ (s.modPipe k f).i3cAddr = s.i3cAddr ∧
    (s.modPipe k f).eid = s.eid ∧ (s.modPipe k f).eventReceiver = s.eventReceiver ∧
    (s.modPipe k f).sensors = s.sensors ∧ (s.modPipe k f).jtagIr = s.jtagIr ∧ (s.modPipe k f).stalled = s.stalled ∧
    (s.modPipe k f).ctx = s.ctx ∧ (s.modPipe k f).queue = s.queue ∧ (s.modPipe k f).desc = s.desc ∧
    (s.modPipe k f).alloc = s.alloc ∧ (s.modPipe k f).sem = s.sem ∧ (s.modPipe k f).account = s.account ∧
    (s.modPipe k f).tessera = s.tessera ∧ (s.modPipe k f).halt = s.halt ∧ (s.modPipe k f).die = s.die ∧
    (s.modPipe k f).stack = s.stack ∧ (s.modPipe k f).entry = s.entry ∧ (s.modPipe k f).handle = s.handle ∧
    (s.modPipe k f).slot = s.slot ∧ (s.modPipe k f).courier = s.courier ∧ (s.modPipe k f).port = s.port ∧
    (s.modPipe k f).group = s.group ∧ (s.modPipe k f).peer = s.peer ∧ (s.modPipe k f).func = s.func ∧
    (s.modPipe k f).hport = s.hport ∧ (s.modPipe k f).logicTherm = s.logicTherm ∧
    (s.modPipe k f).arrayTherm = s.arrayTherm ∧ (s.modPipe k f).rail = s.rail ∧ (s.modPipe k f).ev = s.ev ∧
    (s.modPipe k f).crossing = s.crossing ∧ (s.modPipe k f).eccBlock = s.eccBlock ∧ (s.modPipe k f).line = s.line ∧
    (s.modPipe k f).logSlot = s.logSlot ∧ (s.modPipe k f).owner = s.owner :=
  ⟨rfl, rfl, rfl, rfl, rfl, rfl, rfl, rfl, rfl, rfl, rfl, rfl, rfl, rfl, rfl, rfl, rfl, rfl, rfl, rfl, rfl, rfl, rfl,
   rfl, rfl, rfl, rfl, rfl, rfl, rfl, rfl, rfl, rfl, rfl, rfl, rfl, rfl, rfl, rfl, rfl, rfl, rfl, rfl, rfl, rfl, rfl,
   rfl, rfl, rfl, rfl, rfl, rfl, rfl, rfl, rfl, rfl, rfl, rfl, rfl, rfl, rfl, rfl, rfl, rfl, rfl, rfl, rfl, rfl, rfl,
   rfl, rfl, rfl, rfl, rfl, rfl, rfl, rfl, rfl, rfl, rfl, rfl, rfl, rfl, rfl, rfl, rfl, rfl, rfl, rfl, rfl, rfl, rfl,
   rfl, rfl, rfl, rfl, rfl, rfl, rfl, rfl, rfl, rfl, rfl, rfl, rfl, rfl, rfl, rfl, rfl, rfl, rfl, rfl, rfl, rfl, rfl,
   rfl, rfl, rfl, rfl, rfl, rfl, rfl, rfl, rfl, rfl, rfl, rfl, rfl, rfl, rfl, rfl, rfl, rfl, rfl, rfl⟩

/-- A change of one entry of `stackTab` keeps every other field. -/
@[simp] theorem State.modStack_keeps (s : State) (k : Nat) (f : Stack → Stack) :
    (s.modStack k f).pending = s.pending ∧ (s.modStack k f).out = s.out ∧ (s.modStack k f).clock = s.clock ∧
    (s.modStack k f).fresh = s.fresh ∧ (s.modStack k f).grade = s.grade ∧ (s.modStack k f).longLife = s.longLife ∧
    (s.modStack k f).stepping = s.stepping ∧ (s.modStack k f).board = s.board ∧ (s.modStack k f).flash = s.flash ∧
    (s.modStack k f).boot = s.boot ∧ (s.modStack k f).overlays = s.overlays ∧ (s.modStack k f).active = s.active ∧
    (s.modStack k f).ovlKept = s.ovlKept ∧ (s.modStack k f).fallback = s.fallback ∧
    (s.modStack k f).ovlBusy = s.ovlBusy ∧ (s.modStack k f).ovlRefuse = s.ovlRefuse ∧
    (s.modStack k f).memSplit = s.memSplit ∧ (s.modStack k f).stripeAll = s.stripeAll ∧
    (s.modStack k f).resMib = s.resMib ∧ (s.modStack k f).binMib = s.binMib ∧ (s.modStack k f).totalVf = s.totalVf ∧
    (s.modStack k f).vectors = s.vectors ∧ (s.modStack k f).expert = s.expert ∧
    (s.modStack k f).planReq = s.planReq ∧ (s.modStack k f).planEff = s.planEff ∧
    (s.modStack k f).planFromOverlay = s.planFromOverlay ∧ (s.modStack k f).relocking = s.relocking ∧
    (s.modStack k f).quiesce = s.quiesce ∧ (s.modStack k f).applyReq = s.applyReq ∧
    (s.modStack k f).groupTab = s.groupTab ∧ (s.modStack k f).routeTab = s.routeTab ∧
    (s.modStack k f).exportTab = s.exportTab ∧ (s.modStack k f).update = s.update ∧
    (s.modStack k f).persistUse = s.persistUse ∧ (s.modStack k f).persistSeq = s.persistSeq ∧
    (s.modStack k f).persistBusy = s.persistBusy ∧ (s.modStack k f).persistAgain = s.persistAgain ∧
    (s.modStack k f).resetWanted = s.resetWanted ∧ (s.modStack k f).resetCause = s.resetCause ∧
    (s.modStack k f).resetDie = s.resetDie ∧ (s.modStack k f).resetCount = s.resetCount ∧
    (s.modStack k f).pairRead = s.pairRead ∧ (s.modStack k f).pairWrite = s.pairWrite ∧
    (s.modStack k f).cacheCap = s.cacheCap ∧ (s.modStack k f).slotCap = s.slotCap ∧ (s.modStack k f).ctxs = s.ctxs ∧
    (s.modStack k f).queues = s.queues ∧ (s.modStack k f).descs = s.descs ∧ (s.modStack k f).allocs = s.allocs ∧
    (s.modStack k f).sems = s.sems ∧ (s.modStack k f).cmds = s.cmds ∧ (s.modStack k f).accounts = s.accounts ∧
    (s.modStack k f).lastCtx = s.lastCtx ∧ (s.modStack k f).tlb = s.tlb ∧ (s.modStack k f).mem = s.mem ∧
    (s.modStack k f).dcache = s.dcache ∧ (s.modStack k f).held = s.held ∧ (s.modStack k f).bells = s.bells ∧
    (s.modStack k f).reads4 = s.reads4 ∧ (s.modStack k f).hits = s.hits ∧ (s.modStack k f).tess = s.tess ∧
    (s.modStack k f).halts = s.halts ∧ (s.modStack k f).dies = s.dies ∧ (s.modStack k f).pipes = s.pipes ∧
    (s.modStack k f).pages = s.pages ∧ (s.modStack k f).lastOwner = s.lastOwner ∧
    (s.modStack k f).ledger = s.ledger ∧ (s.modStack k f).handles = s.handles ∧ (s.modStack k f).slots = s.slots ∧
    (s.modStack k f).couriers = s.couriers ∧ (s.modStack k f).ports = s.ports ∧ (s.modStack k f).groups = s.groups ∧
    (s.modStack k f).peers = s.peers ∧ (s.modStack k f).reqs = s.reqs ∧ (s.modStack k f).nextTag = s.nextTag ∧
    (s.modStack k f).inbox = s.inbox ∧ (s.modStack k f).frames = s.frames ∧ (s.modStack k f).funcs = s.funcs ∧
    (s.modStack k f).hports = s.hports ∧ (s.modStack k f).therm = s.therm ∧ (s.modStack k f).atherm = s.atherm ∧
    (s.modStack k f).thermAlert = s.thermAlert ∧ (s.modStack k f).rails = s.rails ∧ (s.modStack k f).dips = s.dips ∧
    (s.modStack k f).asupply = s.asupply ∧ (s.modStack k f).packageW = s.packageW ∧
    (s.modStack k f).cdMaxW = s.cdMaxW ∧ (s.modStack k f).refreshOp = s.refreshOp ∧ (s.modStack k f).acts = s.acts ∧
    (s.modStack k f).patina = s.patina ∧ (s.modStack k f).vreq = s.vreq ∧ (s.modStack k f).lpCtl = s.lpCtl ∧
    (s.modStack k f).pkg = s.pkg ∧ (s.modStack k f).s2Count = s.s2Count ∧ (s.modStack k f).offDom = s.offDom ∧
    (s.modStack k f).evd = s.evd ∧ (s.modStack k f).evlog = s.evlog ∧ (s.modStack k f).evTotal = s.evTotal ∧
    (s.modStack k f).snapBusy = s.snapBusy ∧ (s.modStack k f).cross = s.cross ∧ (s.modStack k f).ecc = s.ecc ∧
    (s.modStack k f).i3cAddr = s.i3cAddr ∧ (s.modStack k f).eid = s.eid ∧
    (s.modStack k f).eventReceiver = s.eventReceiver ∧ (s.modStack k f).sensors = s.sensors ∧
    (s.modStack k f).jtagIr = s.jtagIr ∧ (s.modStack k f).stalled = s.stalled ∧ (s.modStack k f).ctx = s.ctx ∧
    (s.modStack k f).queue = s.queue ∧ (s.modStack k f).desc = s.desc ∧ (s.modStack k f).alloc = s.alloc ∧
    (s.modStack k f).sem = s.sem ∧ (s.modStack k f).account = s.account ∧ (s.modStack k f).tessera = s.tessera ∧
    (s.modStack k f).halt = s.halt ∧ (s.modStack k f).die = s.die ∧ (s.modStack k f).pipe = s.pipe ∧
    (s.modStack k f).entry = s.entry ∧ (s.modStack k f).handle = s.handle ∧ (s.modStack k f).slot = s.slot ∧
    (s.modStack k f).courier = s.courier ∧ (s.modStack k f).port = s.port ∧ (s.modStack k f).group = s.group ∧
    (s.modStack k f).peer = s.peer ∧ (s.modStack k f).func = s.func ∧ (s.modStack k f).hport = s.hport ∧
    (s.modStack k f).logicTherm = s.logicTherm ∧ (s.modStack k f).arrayTherm = s.arrayTherm ∧
    (s.modStack k f).rail = s.rail ∧ (s.modStack k f).ev = s.ev ∧ (s.modStack k f).crossing = s.crossing ∧
    (s.modStack k f).eccBlock = s.eccBlock ∧ (s.modStack k f).line = s.line ∧ (s.modStack k f).logSlot = s.logSlot ∧
    (s.modStack k f).owner = s.owner :=
  ⟨rfl, rfl, rfl, rfl, rfl, rfl, rfl, rfl, rfl, rfl, rfl, rfl, rfl, rfl, rfl, rfl, rfl, rfl, rfl, rfl, rfl, rfl, rfl,
   rfl, rfl, rfl, rfl, rfl, rfl, rfl, rfl, rfl, rfl, rfl, rfl, rfl, rfl, rfl, rfl, rfl, rfl, rfl, rfl, rfl, rfl, rfl,
   rfl, rfl, rfl, rfl, rfl, rfl, rfl, rfl, rfl, rfl, rfl, rfl, rfl, rfl, rfl, rfl, rfl, rfl, rfl, rfl, rfl, rfl, rfl,
   rfl, rfl, rfl, rfl, rfl, rfl, rfl, rfl, rfl, rfl, rfl, rfl, rfl, rfl, rfl, rfl, rfl, rfl, rfl, rfl, rfl, rfl, rfl,
   rfl, rfl, rfl, rfl, rfl, rfl, rfl, rfl, rfl, rfl, rfl, rfl, rfl, rfl, rfl, rfl, rfl, rfl, rfl, rfl, rfl, rfl, rfl,
   rfl, rfl, rfl, rfl, rfl, rfl, rfl, rfl, rfl, rfl, rfl, rfl, rfl, rfl, rfl, rfl, rfl, rfl, rfl, rfl⟩

/-- A change of one entry of `ledger` keeps every other field. -/
@[simp] theorem State.modEntry_keeps (s : State) (k : Nat) (f : LEntry → LEntry) :
    (s.modEntry k f).pending = s.pending ∧ (s.modEntry k f).out = s.out ∧ (s.modEntry k f).clock = s.clock ∧
    (s.modEntry k f).fresh = s.fresh ∧ (s.modEntry k f).grade = s.grade ∧ (s.modEntry k f).longLife = s.longLife ∧
    (s.modEntry k f).stepping = s.stepping ∧ (s.modEntry k f).board = s.board ∧ (s.modEntry k f).flash = s.flash ∧
    (s.modEntry k f).boot = s.boot ∧ (s.modEntry k f).overlays = s.overlays ∧ (s.modEntry k f).active = s.active ∧
    (s.modEntry k f).ovlKept = s.ovlKept ∧ (s.modEntry k f).fallback = s.fallback ∧
    (s.modEntry k f).ovlBusy = s.ovlBusy ∧ (s.modEntry k f).ovlRefuse = s.ovlRefuse ∧
    (s.modEntry k f).memSplit = s.memSplit ∧ (s.modEntry k f).stripeAll = s.stripeAll ∧
    (s.modEntry k f).resMib = s.resMib ∧ (s.modEntry k f).binMib = s.binMib ∧ (s.modEntry k f).totalVf = s.totalVf ∧
    (s.modEntry k f).vectors = s.vectors ∧ (s.modEntry k f).expert = s.expert ∧
    (s.modEntry k f).planReq = s.planReq ∧ (s.modEntry k f).planEff = s.planEff ∧
    (s.modEntry k f).planFromOverlay = s.planFromOverlay ∧ (s.modEntry k f).relocking = s.relocking ∧
    (s.modEntry k f).quiesce = s.quiesce ∧ (s.modEntry k f).applyReq = s.applyReq ∧
    (s.modEntry k f).groupTab = s.groupTab ∧ (s.modEntry k f).routeTab = s.routeTab ∧
    (s.modEntry k f).exportTab = s.exportTab ∧ (s.modEntry k f).update = s.update ∧
    (s.modEntry k f).persistUse = s.persistUse ∧ (s.modEntry k f).persistSeq = s.persistSeq ∧
    (s.modEntry k f).persistBusy = s.persistBusy ∧ (s.modEntry k f).persistAgain = s.persistAgain ∧
    (s.modEntry k f).resetWanted = s.resetWanted ∧ (s.modEntry k f).resetCause = s.resetCause ∧
    (s.modEntry k f).resetDie = s.resetDie ∧ (s.modEntry k f).resetCount = s.resetCount ∧
    (s.modEntry k f).pairRead = s.pairRead ∧ (s.modEntry k f).pairWrite = s.pairWrite ∧
    (s.modEntry k f).cacheCap = s.cacheCap ∧ (s.modEntry k f).slotCap = s.slotCap ∧ (s.modEntry k f).ctxs = s.ctxs ∧
    (s.modEntry k f).queues = s.queues ∧ (s.modEntry k f).descs = s.descs ∧ (s.modEntry k f).allocs = s.allocs ∧
    (s.modEntry k f).sems = s.sems ∧ (s.modEntry k f).cmds = s.cmds ∧ (s.modEntry k f).accounts = s.accounts ∧
    (s.modEntry k f).lastCtx = s.lastCtx ∧ (s.modEntry k f).tlb = s.tlb ∧ (s.modEntry k f).mem = s.mem ∧
    (s.modEntry k f).dcache = s.dcache ∧ (s.modEntry k f).held = s.held ∧ (s.modEntry k f).bells = s.bells ∧
    (s.modEntry k f).reads4 = s.reads4 ∧ (s.modEntry k f).hits = s.hits ∧ (s.modEntry k f).tess = s.tess ∧
    (s.modEntry k f).halts = s.halts ∧ (s.modEntry k f).dies = s.dies ∧ (s.modEntry k f).pipes = s.pipes ∧
    (s.modEntry k f).stackTab = s.stackTab ∧ (s.modEntry k f).pages = s.pages ∧
    (s.modEntry k f).lastOwner = s.lastOwner ∧ (s.modEntry k f).handles = s.handles ∧
    (s.modEntry k f).slots = s.slots ∧ (s.modEntry k f).couriers = s.couriers ∧ (s.modEntry k f).ports = s.ports ∧
    (s.modEntry k f).groups = s.groups ∧ (s.modEntry k f).peers = s.peers ∧ (s.modEntry k f).reqs = s.reqs ∧
    (s.modEntry k f).nextTag = s.nextTag ∧ (s.modEntry k f).inbox = s.inbox ∧ (s.modEntry k f).frames = s.frames ∧
    (s.modEntry k f).funcs = s.funcs ∧ (s.modEntry k f).hports = s.hports ∧ (s.modEntry k f).therm = s.therm ∧
    (s.modEntry k f).atherm = s.atherm ∧ (s.modEntry k f).thermAlert = s.thermAlert ∧
    (s.modEntry k f).rails = s.rails ∧ (s.modEntry k f).dips = s.dips ∧ (s.modEntry k f).asupply = s.asupply ∧
    (s.modEntry k f).packageW = s.packageW ∧ (s.modEntry k f).cdMaxW = s.cdMaxW ∧
    (s.modEntry k f).refreshOp = s.refreshOp ∧ (s.modEntry k f).acts = s.acts ∧ (s.modEntry k f).patina = s.patina ∧
    (s.modEntry k f).vreq = s.vreq ∧ (s.modEntry k f).lpCtl = s.lpCtl ∧ (s.modEntry k f).pkg = s.pkg ∧
    (s.modEntry k f).s2Count = s.s2Count ∧ (s.modEntry k f).offDom = s.offDom ∧ (s.modEntry k f).evd = s.evd ∧
    (s.modEntry k f).evlog = s.evlog ∧ (s.modEntry k f).evTotal = s.evTotal ∧
    (s.modEntry k f).snapBusy = s.snapBusy ∧ (s.modEntry k f).cross = s.cross ∧ (s.modEntry k f).ecc = s.ecc ∧
    (s.modEntry k f).i3cAddr = s.i3cAddr ∧ (s.modEntry k f).eid = s.eid ∧
    (s.modEntry k f).eventReceiver = s.eventReceiver ∧ (s.modEntry k f).sensors = s.sensors ∧
    (s.modEntry k f).jtagIr = s.jtagIr ∧ (s.modEntry k f).stalled = s.stalled ∧ (s.modEntry k f).ctx = s.ctx ∧
    (s.modEntry k f).queue = s.queue ∧ (s.modEntry k f).desc = s.desc ∧ (s.modEntry k f).alloc = s.alloc ∧
    (s.modEntry k f).sem = s.sem ∧ (s.modEntry k f).account = s.account ∧ (s.modEntry k f).tessera = s.tessera ∧
    (s.modEntry k f).halt = s.halt ∧ (s.modEntry k f).die = s.die ∧ (s.modEntry k f).pipe = s.pipe ∧
    (s.modEntry k f).stack = s.stack ∧ (s.modEntry k f).handle = s.handle ∧ (s.modEntry k f).slot = s.slot ∧
    (s.modEntry k f).courier = s.courier ∧ (s.modEntry k f).port = s.port ∧ (s.modEntry k f).group = s.group ∧
    (s.modEntry k f).peer = s.peer ∧ (s.modEntry k f).func = s.func ∧ (s.modEntry k f).hport = s.hport ∧
    (s.modEntry k f).logicTherm = s.logicTherm ∧ (s.modEntry k f).arrayTherm = s.arrayTherm ∧
    (s.modEntry k f).rail = s.rail ∧ (s.modEntry k f).ev = s.ev ∧ (s.modEntry k f).crossing = s.crossing ∧
    (s.modEntry k f).eccBlock = s.eccBlock ∧ (s.modEntry k f).line = s.line ∧ (s.modEntry k f).logSlot = s.logSlot ∧
    (s.modEntry k f).owner = s.owner :=
  ⟨rfl, rfl, rfl, rfl, rfl, rfl, rfl, rfl, rfl, rfl, rfl, rfl, rfl, rfl, rfl, rfl, rfl, rfl, rfl, rfl, rfl, rfl, rfl,
   rfl, rfl, rfl, rfl, rfl, rfl, rfl, rfl, rfl, rfl, rfl, rfl, rfl, rfl, rfl, rfl, rfl, rfl, rfl, rfl, rfl, rfl, rfl,
   rfl, rfl, rfl, rfl, rfl, rfl, rfl, rfl, rfl, rfl, rfl, rfl, rfl, rfl, rfl, rfl, rfl, rfl, rfl, rfl, rfl, rfl, rfl,
   rfl, rfl, rfl, rfl, rfl, rfl, rfl, rfl, rfl, rfl, rfl, rfl, rfl, rfl, rfl, rfl, rfl, rfl, rfl, rfl, rfl, rfl, rfl,
   rfl, rfl, rfl, rfl, rfl, rfl, rfl, rfl, rfl, rfl, rfl, rfl, rfl, rfl, rfl, rfl, rfl, rfl, rfl, rfl, rfl, rfl, rfl,
   rfl, rfl, rfl, rfl, rfl, rfl, rfl, rfl, rfl, rfl, rfl, rfl, rfl, rfl, rfl, rfl, rfl, rfl, rfl, rfl⟩

/-- A change of one entry of `handles` keeps every other field. -/
@[simp] theorem State.modHandle_keeps (s : State) (k : Nat) (f : Handle → Handle) :
    (s.modHandle k f).pending = s.pending ∧ (s.modHandle k f).out = s.out ∧ (s.modHandle k f).clock = s.clock ∧
    (s.modHandle k f).fresh = s.fresh ∧ (s.modHandle k f).grade = s.grade ∧ (s.modHandle k f).longLife = s.longLife ∧
    (s.modHandle k f).stepping = s.stepping ∧ (s.modHandle k f).board = s.board ∧ (s.modHandle k f).flash = s.flash ∧
    (s.modHandle k f).boot = s.boot ∧ (s.modHandle k f).overlays = s.overlays ∧ (s.modHandle k f).active = s.active ∧
    (s.modHandle k f).ovlKept = s.ovlKept ∧ (s.modHandle k f).fallback = s.fallback ∧
    (s.modHandle k f).ovlBusy = s.ovlBusy ∧ (s.modHandle k f).ovlRefuse = s.ovlRefuse ∧
    (s.modHandle k f).memSplit = s.memSplit ∧ (s.modHandle k f).stripeAll = s.stripeAll ∧
    (s.modHandle k f).resMib = s.resMib ∧ (s.modHandle k f).binMib = s.binMib ∧
    (s.modHandle k f).totalVf = s.totalVf ∧ (s.modHandle k f).vectors = s.vectors ∧
    (s.modHandle k f).expert = s.expert ∧ (s.modHandle k f).planReq = s.planReq ∧
    (s.modHandle k f).planEff = s.planEff ∧ (s.modHandle k f).planFromOverlay = s.planFromOverlay ∧
    (s.modHandle k f).relocking = s.relocking ∧ (s.modHandle k f).quiesce = s.quiesce ∧
    (s.modHandle k f).applyReq = s.applyReq ∧ (s.modHandle k f).groupTab = s.groupTab ∧
    (s.modHandle k f).routeTab = s.routeTab ∧ (s.modHandle k f).exportTab = s.exportTab ∧
    (s.modHandle k f).update = s.update ∧ (s.modHandle k f).persistUse = s.persistUse ∧
    (s.modHandle k f).persistSeq = s.persistSeq ∧ (s.modHandle k f).persistBusy = s.persistBusy ∧
    (s.modHandle k f).persistAgain = s.persistAgain ∧ (s.modHandle k f).resetWanted = s.resetWanted ∧
    (s.modHandle k f).resetCause = s.resetCause ∧ (s.modHandle k f).resetDie = s.resetDie ∧
    (s.modHandle k f).resetCount = s.resetCount ∧ (s.modHandle k f).pairRead = s.pairRead ∧
    (s.modHandle k f).pairWrite = s.pairWrite ∧ (s.modHandle k f).cacheCap = s.cacheCap ∧
    (s.modHandle k f).slotCap = s.slotCap ∧ (s.modHandle k f).ctxs = s.ctxs ∧ (s.modHandle k f).queues = s.queues ∧
    (s.modHandle k f).descs = s.descs ∧ (s.modHandle k f).allocs = s.allocs ∧ (s.modHandle k f).sems = s.sems ∧
    (s.modHandle k f).cmds = s.cmds ∧ (s.modHandle k f).accounts = s.accounts ∧
    (s.modHandle k f).lastCtx = s.lastCtx ∧ (s.modHandle k f).tlb = s.tlb ∧ (s.modHandle k f).mem = s.mem ∧
    (s.modHandle k f).dcache = s.dcache ∧ (s.modHandle k f).held = s.held ∧ (s.modHandle k f).bells = s.bells ∧
    (s.modHandle k f).reads4 = s.reads4 ∧ (s.modHandle k f).hits = s.hits ∧ (s.modHandle k f).tess = s.tess ∧
    (s.modHandle k f).halts = s.halts ∧ (s.modHandle k f).dies = s.dies ∧ (s.modHandle k f).pipes = s.pipes ∧
    (s.modHandle k f).stackTab = s.stackTab ∧ (s.modHandle k f).pages = s.pages ∧
    (s.modHandle k f).lastOwner = s.lastOwner ∧ (s.modHandle k f).ledger = s.ledger ∧
    (s.modHandle k f).slots = s.slots ∧ (s.modHandle k f).couriers = s.couriers ∧ (s.modHandle k f).ports = s.ports ∧
    (s.modHandle k f).groups = s.groups ∧ (s.modHandle k f).peers = s.peers ∧ (s.modHandle k f).reqs = s.reqs ∧
    (s.modHandle k f).nextTag = s.nextTag ∧ (s.modHandle k f).inbox = s.inbox ∧ (s.modHandle k f).frames = s.frames ∧
    (s.modHandle k f).funcs = s.funcs ∧ (s.modHandle k f).hports = s.hports ∧ (s.modHandle k f).therm = s.therm ∧
    (s.modHandle k f).atherm = s.atherm ∧ (s.modHandle k f).thermAlert = s.thermAlert ∧
    (s.modHandle k f).rails = s.rails ∧ (s.modHandle k f).dips = s.dips ∧ (s.modHandle k f).asupply = s.asupply ∧
    (s.modHandle k f).packageW = s.packageW ∧ (s.modHandle k f).cdMaxW = s.cdMaxW ∧
    (s.modHandle k f).refreshOp = s.refreshOp ∧ (s.modHandle k f).acts = s.acts ∧
    (s.modHandle k f).patina = s.patina ∧ (s.modHandle k f).vreq = s.vreq ∧ (s.modHandle k f).lpCtl = s.lpCtl ∧
    (s.modHandle k f).pkg = s.pkg ∧ (s.modHandle k f).s2Count = s.s2Count ∧ (s.modHandle k f).offDom = s.offDom ∧
    (s.modHandle k f).evd = s.evd ∧ (s.modHandle k f).evlog = s.evlog ∧ (s.modHandle k f).evTotal = s.evTotal ∧
    (s.modHandle k f).snapBusy = s.snapBusy ∧ (s.modHandle k f).cross = s.cross ∧ (s.modHandle k f).ecc = s.ecc ∧
    (s.modHandle k f).i3cAddr = s.i3cAddr ∧ (s.modHandle k f).eid = s.eid ∧
    (s.modHandle k f).eventReceiver = s.eventReceiver ∧ (s.modHandle k f).sensors = s.sensors ∧
    (s.modHandle k f).jtagIr = s.jtagIr ∧ (s.modHandle k f).stalled = s.stalled ∧ (s.modHandle k f).ctx = s.ctx ∧
    (s.modHandle k f).queue = s.queue ∧ (s.modHandle k f).desc = s.desc ∧ (s.modHandle k f).alloc = s.alloc ∧
    (s.modHandle k f).sem = s.sem ∧ (s.modHandle k f).account = s.account ∧ (s.modHandle k f).tessera = s.tessera ∧
    (s.modHandle k f).halt = s.halt ∧ (s.modHandle k f).die = s.die ∧ (s.modHandle k f).pipe = s.pipe ∧
    (s.modHandle k f).stack = s.stack ∧ (s.modHandle k f).entry = s.entry ∧ (s.modHandle k f).slot = s.slot ∧
    (s.modHandle k f).courier = s.courier ∧ (s.modHandle k f).port = s.port ∧ (s.modHandle k f).group = s.group ∧
    (s.modHandle k f).peer = s.peer ∧ (s.modHandle k f).func = s.func ∧ (s.modHandle k f).hport = s.hport ∧
    (s.modHandle k f).logicTherm = s.logicTherm ∧ (s.modHandle k f).arrayTherm = s.arrayTherm ∧
    (s.modHandle k f).rail = s.rail ∧ (s.modHandle k f).ev = s.ev ∧ (s.modHandle k f).crossing = s.crossing ∧
    (s.modHandle k f).eccBlock = s.eccBlock ∧ (s.modHandle k f).line = s.line ∧
    (s.modHandle k f).logSlot = s.logSlot ∧ (s.modHandle k f).owner = s.owner :=
  ⟨rfl, rfl, rfl, rfl, rfl, rfl, rfl, rfl, rfl, rfl, rfl, rfl, rfl, rfl, rfl, rfl, rfl, rfl, rfl, rfl, rfl, rfl, rfl,
   rfl, rfl, rfl, rfl, rfl, rfl, rfl, rfl, rfl, rfl, rfl, rfl, rfl, rfl, rfl, rfl, rfl, rfl, rfl, rfl, rfl, rfl, rfl,
   rfl, rfl, rfl, rfl, rfl, rfl, rfl, rfl, rfl, rfl, rfl, rfl, rfl, rfl, rfl, rfl, rfl, rfl, rfl, rfl, rfl, rfl, rfl,
   rfl, rfl, rfl, rfl, rfl, rfl, rfl, rfl, rfl, rfl, rfl, rfl, rfl, rfl, rfl, rfl, rfl, rfl, rfl, rfl, rfl, rfl, rfl,
   rfl, rfl, rfl, rfl, rfl, rfl, rfl, rfl, rfl, rfl, rfl, rfl, rfl, rfl, rfl, rfl, rfl, rfl, rfl, rfl, rfl, rfl, rfl,
   rfl, rfl, rfl, rfl, rfl, rfl, rfl, rfl, rfl, rfl, rfl, rfl, rfl, rfl, rfl, rfl, rfl, rfl, rfl, rfl⟩

/-- A change of one entry of `slots` keeps every other field. -/
@[simp] theorem State.modSlot_keeps (s : State) (k : Nat) (f : Slot → Slot) :
    (s.modSlot k f).pending = s.pending ∧ (s.modSlot k f).out = s.out ∧ (s.modSlot k f).clock = s.clock ∧
    (s.modSlot k f).fresh = s.fresh ∧ (s.modSlot k f).grade = s.grade ∧ (s.modSlot k f).longLife = s.longLife ∧
    (s.modSlot k f).stepping = s.stepping ∧ (s.modSlot k f).board = s.board ∧ (s.modSlot k f).flash = s.flash ∧
    (s.modSlot k f).boot = s.boot ∧ (s.modSlot k f).overlays = s.overlays ∧ (s.modSlot k f).active = s.active ∧
    (s.modSlot k f).ovlKept = s.ovlKept ∧ (s.modSlot k f).fallback = s.fallback ∧
    (s.modSlot k f).ovlBusy = s.ovlBusy ∧ (s.modSlot k f).ovlRefuse = s.ovlRefuse ∧
    (s.modSlot k f).memSplit = s.memSplit ∧ (s.modSlot k f).stripeAll = s.stripeAll ∧
    (s.modSlot k f).resMib = s.resMib ∧ (s.modSlot k f).binMib = s.binMib ∧ (s.modSlot k f).totalVf = s.totalVf ∧
    (s.modSlot k f).vectors = s.vectors ∧ (s.modSlot k f).expert = s.expert ∧ (s.modSlot k f).planReq = s.planReq ∧
    (s.modSlot k f).planEff = s.planEff ∧ (s.modSlot k f).planFromOverlay = s.planFromOverlay ∧
    (s.modSlot k f).relocking = s.relocking ∧ (s.modSlot k f).quiesce = s.quiesce ∧
    (s.modSlot k f).applyReq = s.applyReq ∧ (s.modSlot k f).groupTab = s.groupTab ∧
    (s.modSlot k f).routeTab = s.routeTab ∧ (s.modSlot k f).exportTab = s.exportTab ∧
    (s.modSlot k f).update = s.update ∧ (s.modSlot k f).persistUse = s.persistUse ∧
    (s.modSlot k f).persistSeq = s.persistSeq ∧ (s.modSlot k f).persistBusy = s.persistBusy ∧
    (s.modSlot k f).persistAgain = s.persistAgain ∧ (s.modSlot k f).resetWanted = s.resetWanted ∧
    (s.modSlot k f).resetCause = s.resetCause ∧ (s.modSlot k f).resetDie = s.resetDie ∧
    (s.modSlot k f).resetCount = s.resetCount ∧ (s.modSlot k f).pairRead = s.pairRead ∧
    (s.modSlot k f).pairWrite = s.pairWrite ∧ (s.modSlot k f).cacheCap = s.cacheCap ∧
    (s.modSlot k f).slotCap = s.slotCap ∧ (s.modSlot k f).ctxs = s.ctxs ∧ (s.modSlot k f).queues = s.queues ∧
    (s.modSlot k f).descs = s.descs ∧ (s.modSlot k f).allocs = s.allocs ∧ (s.modSlot k f).sems = s.sems ∧
    (s.modSlot k f).cmds = s.cmds ∧ (s.modSlot k f).accounts = s.accounts ∧ (s.modSlot k f).lastCtx = s.lastCtx ∧
    (s.modSlot k f).tlb = s.tlb ∧ (s.modSlot k f).mem = s.mem ∧ (s.modSlot k f).dcache = s.dcache ∧
    (s.modSlot k f).held = s.held ∧ (s.modSlot k f).bells = s.bells ∧ (s.modSlot k f).reads4 = s.reads4 ∧
    (s.modSlot k f).hits = s.hits ∧ (s.modSlot k f).tess = s.tess ∧ (s.modSlot k f).halts = s.halts ∧
    (s.modSlot k f).dies = s.dies ∧ (s.modSlot k f).pipes = s.pipes ∧ (s.modSlot k f).stackTab = s.stackTab ∧
    (s.modSlot k f).pages = s.pages ∧ (s.modSlot k f).lastOwner = s.lastOwner ∧ (s.modSlot k f).ledger = s.ledger ∧
    (s.modSlot k f).handles = s.handles ∧ (s.modSlot k f).couriers = s.couriers ∧ (s.modSlot k f).ports = s.ports ∧
    (s.modSlot k f).groups = s.groups ∧ (s.modSlot k f).peers = s.peers ∧ (s.modSlot k f).reqs = s.reqs ∧
    (s.modSlot k f).nextTag = s.nextTag ∧ (s.modSlot k f).inbox = s.inbox ∧ (s.modSlot k f).frames = s.frames ∧
    (s.modSlot k f).funcs = s.funcs ∧ (s.modSlot k f).hports = s.hports ∧ (s.modSlot k f).therm = s.therm ∧
    (s.modSlot k f).atherm = s.atherm ∧ (s.modSlot k f).thermAlert = s.thermAlert ∧ (s.modSlot k f).rails = s.rails ∧
    (s.modSlot k f).dips = s.dips ∧ (s.modSlot k f).asupply = s.asupply ∧ (s.modSlot k f).packageW = s.packageW ∧
    (s.modSlot k f).cdMaxW = s.cdMaxW ∧ (s.modSlot k f).refreshOp = s.refreshOp ∧ (s.modSlot k f).acts = s.acts ∧
    (s.modSlot k f).patina = s.patina ∧ (s.modSlot k f).vreq = s.vreq ∧ (s.modSlot k f).lpCtl = s.lpCtl ∧
    (s.modSlot k f).pkg = s.pkg ∧ (s.modSlot k f).s2Count = s.s2Count ∧ (s.modSlot k f).offDom = s.offDom ∧
    (s.modSlot k f).evd = s.evd ∧ (s.modSlot k f).evlog = s.evlog ∧ (s.modSlot k f).evTotal = s.evTotal ∧
    (s.modSlot k f).snapBusy = s.snapBusy ∧ (s.modSlot k f).cross = s.cross ∧ (s.modSlot k f).ecc = s.ecc ∧
    (s.modSlot k f).i3cAddr = s.i3cAddr ∧ (s.modSlot k f).eid = s.eid ∧
    (s.modSlot k f).eventReceiver = s.eventReceiver ∧ (s.modSlot k f).sensors = s.sensors ∧
    (s.modSlot k f).jtagIr = s.jtagIr ∧ (s.modSlot k f).stalled = s.stalled ∧ (s.modSlot k f).ctx = s.ctx ∧
    (s.modSlot k f).queue = s.queue ∧ (s.modSlot k f).desc = s.desc ∧ (s.modSlot k f).alloc = s.alloc ∧
    (s.modSlot k f).sem = s.sem ∧ (s.modSlot k f).account = s.account ∧ (s.modSlot k f).tessera = s.tessera ∧
    (s.modSlot k f).halt = s.halt ∧ (s.modSlot k f).die = s.die ∧ (s.modSlot k f).pipe = s.pipe ∧
    (s.modSlot k f).stack = s.stack ∧ (s.modSlot k f).entry = s.entry ∧ (s.modSlot k f).handle = s.handle ∧
    (s.modSlot k f).courier = s.courier ∧ (s.modSlot k f).port = s.port ∧ (s.modSlot k f).group = s.group ∧
    (s.modSlot k f).peer = s.peer ∧ (s.modSlot k f).func = s.func ∧ (s.modSlot k f).hport = s.hport ∧
    (s.modSlot k f).logicTherm = s.logicTherm ∧ (s.modSlot k f).arrayTherm = s.arrayTherm ∧
    (s.modSlot k f).rail = s.rail ∧ (s.modSlot k f).ev = s.ev ∧ (s.modSlot k f).crossing = s.crossing ∧
    (s.modSlot k f).eccBlock = s.eccBlock ∧ (s.modSlot k f).line = s.line ∧ (s.modSlot k f).logSlot = s.logSlot ∧
    (s.modSlot k f).owner = s.owner :=
  ⟨rfl, rfl, rfl, rfl, rfl, rfl, rfl, rfl, rfl, rfl, rfl, rfl, rfl, rfl, rfl, rfl, rfl, rfl, rfl, rfl, rfl, rfl, rfl,
   rfl, rfl, rfl, rfl, rfl, rfl, rfl, rfl, rfl, rfl, rfl, rfl, rfl, rfl, rfl, rfl, rfl, rfl, rfl, rfl, rfl, rfl, rfl,
   rfl, rfl, rfl, rfl, rfl, rfl, rfl, rfl, rfl, rfl, rfl, rfl, rfl, rfl, rfl, rfl, rfl, rfl, rfl, rfl, rfl, rfl, rfl,
   rfl, rfl, rfl, rfl, rfl, rfl, rfl, rfl, rfl, rfl, rfl, rfl, rfl, rfl, rfl, rfl, rfl, rfl, rfl, rfl, rfl, rfl, rfl,
   rfl, rfl, rfl, rfl, rfl, rfl, rfl, rfl, rfl, rfl, rfl, rfl, rfl, rfl, rfl, rfl, rfl, rfl, rfl, rfl, rfl, rfl, rfl,
   rfl, rfl, rfl, rfl, rfl, rfl, rfl, rfl, rfl, rfl, rfl, rfl, rfl, rfl, rfl, rfl, rfl, rfl, rfl, rfl⟩

/-- A change of one entry of `couriers` keeps every other field. -/
@[simp] theorem State.modCourier_keeps (s : State) (k : Nat) (f : Courier → Courier) :
    (s.modCourier k f).pending = s.pending ∧ (s.modCourier k f).out = s.out ∧ (s.modCourier k f).clock = s.clock ∧
    (s.modCourier k f).fresh = s.fresh ∧ (s.modCourier k f).grade = s.grade ∧
    (s.modCourier k f).longLife = s.longLife ∧ (s.modCourier k f).stepping = s.stepping ∧
    (s.modCourier k f).board = s.board ∧ (s.modCourier k f).flash = s.flash ∧ (s.modCourier k f).boot = s.boot ∧
    (s.modCourier k f).overlays = s.overlays ∧ (s.modCourier k f).active = s.active ∧
    (s.modCourier k f).ovlKept = s.ovlKept ∧ (s.modCourier k f).fallback = s.fallback ∧
    (s.modCourier k f).ovlBusy = s.ovlBusy ∧ (s.modCourier k f).ovlRefuse = s.ovlRefuse ∧
    (s.modCourier k f).memSplit = s.memSplit ∧ (s.modCourier k f).stripeAll = s.stripeAll ∧
    (s.modCourier k f).resMib = s.resMib ∧ (s.modCourier k f).binMib = s.binMib ∧
    (s.modCourier k f).totalVf = s.totalVf ∧ (s.modCourier k f).vectors = s.vectors ∧
    (s.modCourier k f).expert = s.expert ∧ (s.modCourier k f).planReq = s.planReq ∧
    (s.modCourier k f).planEff = s.planEff ∧ (s.modCourier k f).planFromOverlay = s.planFromOverlay ∧
    (s.modCourier k f).relocking = s.relocking ∧ (s.modCourier k f).quiesce = s.quiesce ∧
    (s.modCourier k f).applyReq = s.applyReq ∧ (s.modCourier k f).groupTab = s.groupTab ∧
    (s.modCourier k f).routeTab = s.routeTab ∧ (s.modCourier k f).exportTab = s.exportTab ∧
    (s.modCourier k f).update = s.update ∧ (s.modCourier k f).persistUse = s.persistUse ∧
    (s.modCourier k f).persistSeq = s.persistSeq ∧ (s.modCourier k f).persistBusy = s.persistBusy ∧
    (s.modCourier k f).persistAgain = s.persistAgain ∧ (s.modCourier k f).resetWanted = s.resetWanted ∧
    (s.modCourier k f).resetCause = s.resetCause ∧ (s.modCourier k f).resetDie = s.resetDie ∧
    (s.modCourier k f).resetCount = s.resetCount ∧ (s.modCourier k f).pairRead = s.pairRead ∧
    (s.modCourier k f).pairWrite = s.pairWrite ∧ (s.modCourier k f).cacheCap = s.cacheCap ∧
    (s.modCourier k f).slotCap = s.slotCap ∧ (s.modCourier k f).ctxs = s.ctxs ∧
    (s.modCourier k f).queues = s.queues ∧ (s.modCourier k f).descs = s.descs ∧
    (s.modCourier k f).allocs = s.allocs ∧ (s.modCourier k f).sems = s.sems ∧ (s.modCourier k f).cmds = s.cmds ∧
    (s.modCourier k f).accounts = s.accounts ∧ (s.modCourier k f).lastCtx = s.lastCtx ∧
    (s.modCourier k f).tlb = s.tlb ∧ (s.modCourier k f).mem = s.mem ∧ (s.modCourier k f).dcache = s.dcache ∧
    (s.modCourier k f).held = s.held ∧ (s.modCourier k f).bells = s.bells ∧ (s.modCourier k f).reads4 = s.reads4 ∧
    (s.modCourier k f).hits = s.hits ∧ (s.modCourier k f).tess = s.tess ∧ (s.modCourier k f).halts = s.halts ∧
    (s.modCourier k f).dies = s.dies ∧ (s.modCourier k f).pipes = s.pipes ∧
    (s.modCourier k f).stackTab = s.stackTab ∧ (s.modCourier k f).pages = s.pages ∧
    (s.modCourier k f).lastOwner = s.lastOwner ∧ (s.modCourier k f).ledger = s.ledger ∧
    (s.modCourier k f).handles = s.handles ∧ (s.modCourier k f).slots = s.slots ∧
    (s.modCourier k f).ports = s.ports ∧ (s.modCourier k f).groups = s.groups ∧ (s.modCourier k f).peers = s.peers ∧
    (s.modCourier k f).reqs = s.reqs ∧ (s.modCourier k f).nextTag = s.nextTag ∧ (s.modCourier k f).inbox = s.inbox ∧
    (s.modCourier k f).frames = s.frames ∧ (s.modCourier k f).funcs = s.funcs ∧
    (s.modCourier k f).hports = s.hports ∧ (s.modCourier k f).therm = s.therm ∧
    (s.modCourier k f).atherm = s.atherm ∧ (s.modCourier k f).thermAlert = s.thermAlert ∧
    (s.modCourier k f).rails = s.rails ∧ (s.modCourier k f).dips = s.dips ∧ (s.modCourier k f).asupply = s.asupply ∧
    (s.modCourier k f).packageW = s.packageW ∧ (s.modCourier k f).cdMaxW = s.cdMaxW ∧
    (s.modCourier k f).refreshOp = s.refreshOp ∧ (s.modCourier k f).acts = s.acts ∧
    (s.modCourier k f).patina = s.patina ∧ (s.modCourier k f).vreq = s.vreq ∧ (s.modCourier k f).lpCtl = s.lpCtl ∧
    (s.modCourier k f).pkg = s.pkg ∧ (s.modCourier k f).s2Count = s.s2Count ∧ (s.modCourier k f).offDom = s.offDom ∧
    (s.modCourier k f).evd = s.evd ∧ (s.modCourier k f).evlog = s.evlog ∧ (s.modCourier k f).evTotal = s.evTotal ∧
    (s.modCourier k f).snapBusy = s.snapBusy ∧ (s.modCourier k f).cross = s.cross ∧ (s.modCourier k f).ecc = s.ecc ∧
    (s.modCourier k f).i3cAddr = s.i3cAddr ∧ (s.modCourier k f).eid = s.eid ∧
    (s.modCourier k f).eventReceiver = s.eventReceiver ∧ (s.modCourier k f).sensors = s.sensors ∧
    (s.modCourier k f).jtagIr = s.jtagIr ∧ (s.modCourier k f).stalled = s.stalled ∧ (s.modCourier k f).ctx = s.ctx ∧
    (s.modCourier k f).queue = s.queue ∧ (s.modCourier k f).desc = s.desc ∧ (s.modCourier k f).alloc = s.alloc ∧
    (s.modCourier k f).sem = s.sem ∧ (s.modCourier k f).account = s.account ∧
    (s.modCourier k f).tessera = s.tessera ∧ (s.modCourier k f).halt = s.halt ∧ (s.modCourier k f).die = s.die ∧
    (s.modCourier k f).pipe = s.pipe ∧ (s.modCourier k f).stack = s.stack ∧ (s.modCourier k f).entry = s.entry ∧
    (s.modCourier k f).handle = s.handle ∧ (s.modCourier k f).slot = s.slot ∧ (s.modCourier k f).port = s.port ∧
    (s.modCourier k f).group = s.group ∧ (s.modCourier k f).peer = s.peer ∧ (s.modCourier k f).func = s.func ∧
    (s.modCourier k f).hport = s.hport ∧ (s.modCourier k f).logicTherm = s.logicTherm ∧
    (s.modCourier k f).arrayTherm = s.arrayTherm ∧ (s.modCourier k f).rail = s.rail ∧ (s.modCourier k f).ev = s.ev ∧
    (s.modCourier k f).crossing = s.crossing ∧ (s.modCourier k f).eccBlock = s.eccBlock ∧
    (s.modCourier k f).line = s.line ∧ (s.modCourier k f).logSlot = s.logSlot ∧ (s.modCourier k f).owner = s.owner :=
  ⟨rfl, rfl, rfl, rfl, rfl, rfl, rfl, rfl, rfl, rfl, rfl, rfl, rfl, rfl, rfl, rfl, rfl, rfl, rfl, rfl, rfl, rfl, rfl,
   rfl, rfl, rfl, rfl, rfl, rfl, rfl, rfl, rfl, rfl, rfl, rfl, rfl, rfl, rfl, rfl, rfl, rfl, rfl, rfl, rfl, rfl, rfl,
   rfl, rfl, rfl, rfl, rfl, rfl, rfl, rfl, rfl, rfl, rfl, rfl, rfl, rfl, rfl, rfl, rfl, rfl, rfl, rfl, rfl, rfl, rfl,
   rfl, rfl, rfl, rfl, rfl, rfl, rfl, rfl, rfl, rfl, rfl, rfl, rfl, rfl, rfl, rfl, rfl, rfl, rfl, rfl, rfl, rfl, rfl,
   rfl, rfl, rfl, rfl, rfl, rfl, rfl, rfl, rfl, rfl, rfl, rfl, rfl, rfl, rfl, rfl, rfl, rfl, rfl, rfl, rfl, rfl, rfl,
   rfl, rfl, rfl, rfl, rfl, rfl, rfl, rfl, rfl, rfl, rfl, rfl, rfl, rfl, rfl, rfl, rfl, rfl, rfl, rfl⟩

/-- A change of one entry of `ports` keeps every other field. -/
@[simp] theorem State.modPort_keeps (s : State) (k : Nat) (f : Port → Port) :
    (s.modPort k f).pending = s.pending ∧ (s.modPort k f).out = s.out ∧ (s.modPort k f).clock = s.clock ∧
    (s.modPort k f).fresh = s.fresh ∧ (s.modPort k f).grade = s.grade ∧ (s.modPort k f).longLife = s.longLife ∧
    (s.modPort k f).stepping = s.stepping ∧ (s.modPort k f).board = s.board ∧ (s.modPort k f).flash = s.flash ∧
    (s.modPort k f).boot = s.boot ∧ (s.modPort k f).overlays = s.overlays ∧ (s.modPort k f).active = s.active ∧
    (s.modPort k f).ovlKept = s.ovlKept ∧ (s.modPort k f).fallback = s.fallback ∧
    (s.modPort k f).ovlBusy = s.ovlBusy ∧ (s.modPort k f).ovlRefuse = s.ovlRefuse ∧
    (s.modPort k f).memSplit = s.memSplit ∧ (s.modPort k f).stripeAll = s.stripeAll ∧
    (s.modPort k f).resMib = s.resMib ∧ (s.modPort k f).binMib = s.binMib ∧ (s.modPort k f).totalVf = s.totalVf ∧
    (s.modPort k f).vectors = s.vectors ∧ (s.modPort k f).expert = s.expert ∧ (s.modPort k f).planReq = s.planReq ∧
    (s.modPort k f).planEff = s.planEff ∧ (s.modPort k f).planFromOverlay = s.planFromOverlay ∧
    (s.modPort k f).relocking = s.relocking ∧ (s.modPort k f).quiesce = s.quiesce ∧
    (s.modPort k f).applyReq = s.applyReq ∧ (s.modPort k f).groupTab = s.groupTab ∧
    (s.modPort k f).routeTab = s.routeTab ∧ (s.modPort k f).exportTab = s.exportTab ∧
    (s.modPort k f).update = s.update ∧ (s.modPort k f).persistUse = s.persistUse ∧
    (s.modPort k f).persistSeq = s.persistSeq ∧ (s.modPort k f).persistBusy = s.persistBusy ∧
    (s.modPort k f).persistAgain = s.persistAgain ∧ (s.modPort k f).resetWanted = s.resetWanted ∧
    (s.modPort k f).resetCause = s.resetCause ∧ (s.modPort k f).resetDie = s.resetDie ∧
    (s.modPort k f).resetCount = s.resetCount ∧ (s.modPort k f).pairRead = s.pairRead ∧
    (s.modPort k f).pairWrite = s.pairWrite ∧ (s.modPort k f).cacheCap = s.cacheCap ∧
    (s.modPort k f).slotCap = s.slotCap ∧ (s.modPort k f).ctxs = s.ctxs ∧ (s.modPort k f).queues = s.queues ∧
    (s.modPort k f).descs = s.descs ∧ (s.modPort k f).allocs = s.allocs ∧ (s.modPort k f).sems = s.sems ∧
    (s.modPort k f).cmds = s.cmds ∧ (s.modPort k f).accounts = s.accounts ∧ (s.modPort k f).lastCtx = s.lastCtx ∧
    (s.modPort k f).tlb = s.tlb ∧ (s.modPort k f).mem = s.mem ∧ (s.modPort k f).dcache = s.dcache ∧
    (s.modPort k f).held = s.held ∧ (s.modPort k f).bells = s.bells ∧ (s.modPort k f).reads4 = s.reads4 ∧
    (s.modPort k f).hits = s.hits ∧ (s.modPort k f).tess = s.tess ∧ (s.modPort k f).halts = s.halts ∧
    (s.modPort k f).dies = s.dies ∧ (s.modPort k f).pipes = s.pipes ∧ (s.modPort k f).stackTab = s.stackTab ∧
    (s.modPort k f).pages = s.pages ∧ (s.modPort k f).lastOwner = s.lastOwner ∧ (s.modPort k f).ledger = s.ledger ∧
    (s.modPort k f).handles = s.handles ∧ (s.modPort k f).slots = s.slots ∧ (s.modPort k f).couriers = s.couriers ∧
    (s.modPort k f).groups = s.groups ∧ (s.modPort k f).peers = s.peers ∧ (s.modPort k f).reqs = s.reqs ∧
    (s.modPort k f).nextTag = s.nextTag ∧ (s.modPort k f).inbox = s.inbox ∧ (s.modPort k f).frames = s.frames ∧
    (s.modPort k f).funcs = s.funcs ∧ (s.modPort k f).hports = s.hports ∧ (s.modPort k f).therm = s.therm ∧
    (s.modPort k f).atherm = s.atherm ∧ (s.modPort k f).thermAlert = s.thermAlert ∧ (s.modPort k f).rails = s.rails ∧
    (s.modPort k f).dips = s.dips ∧ (s.modPort k f).asupply = s.asupply ∧ (s.modPort k f).packageW = s.packageW ∧
    (s.modPort k f).cdMaxW = s.cdMaxW ∧ (s.modPort k f).refreshOp = s.refreshOp ∧ (s.modPort k f).acts = s.acts ∧
    (s.modPort k f).patina = s.patina ∧ (s.modPort k f).vreq = s.vreq ∧ (s.modPort k f).lpCtl = s.lpCtl ∧
    (s.modPort k f).pkg = s.pkg ∧ (s.modPort k f).s2Count = s.s2Count ∧ (s.modPort k f).offDom = s.offDom ∧
    (s.modPort k f).evd = s.evd ∧ (s.modPort k f).evlog = s.evlog ∧ (s.modPort k f).evTotal = s.evTotal ∧
    (s.modPort k f).snapBusy = s.snapBusy ∧ (s.modPort k f).cross = s.cross ∧ (s.modPort k f).ecc = s.ecc ∧
    (s.modPort k f).i3cAddr = s.i3cAddr ∧ (s.modPort k f).eid = s.eid ∧
    (s.modPort k f).eventReceiver = s.eventReceiver ∧ (s.modPort k f).sensors = s.sensors ∧
    (s.modPort k f).jtagIr = s.jtagIr ∧ (s.modPort k f).stalled = s.stalled ∧ (s.modPort k f).ctx = s.ctx ∧
    (s.modPort k f).queue = s.queue ∧ (s.modPort k f).desc = s.desc ∧ (s.modPort k f).alloc = s.alloc ∧
    (s.modPort k f).sem = s.sem ∧ (s.modPort k f).account = s.account ∧ (s.modPort k f).tessera = s.tessera ∧
    (s.modPort k f).halt = s.halt ∧ (s.modPort k f).die = s.die ∧ (s.modPort k f).pipe = s.pipe ∧
    (s.modPort k f).stack = s.stack ∧ (s.modPort k f).entry = s.entry ∧ (s.modPort k f).handle = s.handle ∧
    (s.modPort k f).slot = s.slot ∧ (s.modPort k f).courier = s.courier ∧ (s.modPort k f).group = s.group ∧
    (s.modPort k f).peer = s.peer ∧ (s.modPort k f).func = s.func ∧ (s.modPort k f).hport = s.hport ∧
    (s.modPort k f).logicTherm = s.logicTherm ∧ (s.modPort k f).arrayTherm = s.arrayTherm ∧
    (s.modPort k f).rail = s.rail ∧ (s.modPort k f).ev = s.ev ∧ (s.modPort k f).crossing = s.crossing ∧
    (s.modPort k f).eccBlock = s.eccBlock ∧ (s.modPort k f).line = s.line ∧ (s.modPort k f).logSlot = s.logSlot ∧
    (s.modPort k f).owner = s.owner :=
  ⟨rfl, rfl, rfl, rfl, rfl, rfl, rfl, rfl, rfl, rfl, rfl, rfl, rfl, rfl, rfl, rfl, rfl, rfl, rfl, rfl, rfl, rfl, rfl,
   rfl, rfl, rfl, rfl, rfl, rfl, rfl, rfl, rfl, rfl, rfl, rfl, rfl, rfl, rfl, rfl, rfl, rfl, rfl, rfl, rfl, rfl, rfl,
   rfl, rfl, rfl, rfl, rfl, rfl, rfl, rfl, rfl, rfl, rfl, rfl, rfl, rfl, rfl, rfl, rfl, rfl, rfl, rfl, rfl, rfl, rfl,
   rfl, rfl, rfl, rfl, rfl, rfl, rfl, rfl, rfl, rfl, rfl, rfl, rfl, rfl, rfl, rfl, rfl, rfl, rfl, rfl, rfl, rfl, rfl,
   rfl, rfl, rfl, rfl, rfl, rfl, rfl, rfl, rfl, rfl, rfl, rfl, rfl, rfl, rfl, rfl, rfl, rfl, rfl, rfl, rfl, rfl, rfl,
   rfl, rfl, rfl, rfl, rfl, rfl, rfl, rfl, rfl, rfl, rfl, rfl, rfl, rfl, rfl, rfl, rfl, rfl, rfl, rfl⟩

/-- A change of one entry of `groups` keeps every other field. -/
@[simp] theorem State.modGroup_keeps (s : State) (k : Nat) (f : Group → Group) :
    (s.modGroup k f).pending = s.pending ∧ (s.modGroup k f).out = s.out ∧ (s.modGroup k f).clock = s.clock ∧
    (s.modGroup k f).fresh = s.fresh ∧ (s.modGroup k f).grade = s.grade ∧ (s.modGroup k f).longLife = s.longLife ∧
    (s.modGroup k f).stepping = s.stepping ∧ (s.modGroup k f).board = s.board ∧ (s.modGroup k f).flash = s.flash ∧
    (s.modGroup k f).boot = s.boot ∧ (s.modGroup k f).overlays = s.overlays ∧ (s.modGroup k f).active = s.active ∧
    (s.modGroup k f).ovlKept = s.ovlKept ∧ (s.modGroup k f).fallback = s.fallback ∧
    (s.modGroup k f).ovlBusy = s.ovlBusy ∧ (s.modGroup k f).ovlRefuse = s.ovlRefuse ∧
    (s.modGroup k f).memSplit = s.memSplit ∧ (s.modGroup k f).stripeAll = s.stripeAll ∧
    (s.modGroup k f).resMib = s.resMib ∧ (s.modGroup k f).binMib = s.binMib ∧ (s.modGroup k f).totalVf = s.totalVf ∧
    (s.modGroup k f).vectors = s.vectors ∧ (s.modGroup k f).expert = s.expert ∧
    (s.modGroup k f).planReq = s.planReq ∧ (s.modGroup k f).planEff = s.planEff ∧
    (s.modGroup k f).planFromOverlay = s.planFromOverlay ∧ (s.modGroup k f).relocking = s.relocking ∧
    (s.modGroup k f).quiesce = s.quiesce ∧ (s.modGroup k f).applyReq = s.applyReq ∧
    (s.modGroup k f).groupTab = s.groupTab ∧ (s.modGroup k f).routeTab = s.routeTab ∧
    (s.modGroup k f).exportTab = s.exportTab ∧ (s.modGroup k f).update = s.update ∧
    (s.modGroup k f).persistUse = s.persistUse ∧ (s.modGroup k f).persistSeq = s.persistSeq ∧
    (s.modGroup k f).persistBusy = s.persistBusy ∧ (s.modGroup k f).persistAgain = s.persistAgain ∧
    (s.modGroup k f).resetWanted = s.resetWanted ∧ (s.modGroup k f).resetCause = s.resetCause ∧
    (s.modGroup k f).resetDie = s.resetDie ∧ (s.modGroup k f).resetCount = s.resetCount ∧
    (s.modGroup k f).pairRead = s.pairRead ∧ (s.modGroup k f).pairWrite = s.pairWrite ∧
    (s.modGroup k f).cacheCap = s.cacheCap ∧ (s.modGroup k f).slotCap = s.slotCap ∧ (s.modGroup k f).ctxs = s.ctxs ∧
    (s.modGroup k f).queues = s.queues ∧ (s.modGroup k f).descs = s.descs ∧ (s.modGroup k f).allocs = s.allocs ∧
    (s.modGroup k f).sems = s.sems ∧ (s.modGroup k f).cmds = s.cmds ∧ (s.modGroup k f).accounts = s.accounts ∧
    (s.modGroup k f).lastCtx = s.lastCtx ∧ (s.modGroup k f).tlb = s.tlb ∧ (s.modGroup k f).mem = s.mem ∧
    (s.modGroup k f).dcache = s.dcache ∧ (s.modGroup k f).held = s.held ∧ (s.modGroup k f).bells = s.bells ∧
    (s.modGroup k f).reads4 = s.reads4 ∧ (s.modGroup k f).hits = s.hits ∧ (s.modGroup k f).tess = s.tess ∧
    (s.modGroup k f).halts = s.halts ∧ (s.modGroup k f).dies = s.dies ∧ (s.modGroup k f).pipes = s.pipes ∧
    (s.modGroup k f).stackTab = s.stackTab ∧ (s.modGroup k f).pages = s.pages ∧
    (s.modGroup k f).lastOwner = s.lastOwner ∧ (s.modGroup k f).ledger = s.ledger ∧
    (s.modGroup k f).handles = s.handles ∧ (s.modGroup k f).slots = s.slots ∧
    (s.modGroup k f).couriers = s.couriers ∧ (s.modGroup k f).ports = s.ports ∧ (s.modGroup k f).peers = s.peers ∧
    (s.modGroup k f).reqs = s.reqs ∧ (s.modGroup k f).nextTag = s.nextTag ∧ (s.modGroup k f).inbox = s.inbox ∧
    (s.modGroup k f).frames = s.frames ∧ (s.modGroup k f).funcs = s.funcs ∧ (s.modGroup k f).hports = s.hports ∧
    (s.modGroup k f).therm = s.therm ∧ (s.modGroup k f).atherm = s.atherm ∧
    (s.modGroup k f).thermAlert = s.thermAlert ∧ (s.modGroup k f).rails = s.rails ∧ (s.modGroup k f).dips = s.dips ∧
    (s.modGroup k f).asupply = s.asupply ∧ (s.modGroup k f).packageW = s.packageW ∧
    (s.modGroup k f).cdMaxW = s.cdMaxW ∧ (s.modGroup k f).refreshOp = s.refreshOp ∧ (s.modGroup k f).acts = s.acts ∧
    (s.modGroup k f).patina = s.patina ∧ (s.modGroup k f).vreq = s.vreq ∧ (s.modGroup k f).lpCtl = s.lpCtl ∧
    (s.modGroup k f).pkg = s.pkg ∧ (s.modGroup k f).s2Count = s.s2Count ∧ (s.modGroup k f).offDom = s.offDom ∧
    (s.modGroup k f).evd = s.evd ∧ (s.modGroup k f).evlog = s.evlog ∧ (s.modGroup k f).evTotal = s.evTotal ∧
    (s.modGroup k f).snapBusy = s.snapBusy ∧ (s.modGroup k f).cross = s.cross ∧ (s.modGroup k f).ecc = s.ecc ∧
    (s.modGroup k f).i3cAddr = s.i3cAddr ∧ (s.modGroup k f).eid = s.eid ∧
    (s.modGroup k f).eventReceiver = s.eventReceiver ∧ (s.modGroup k f).sensors = s.sensors ∧
    (s.modGroup k f).jtagIr = s.jtagIr ∧ (s.modGroup k f).stalled = s.stalled ∧ (s.modGroup k f).ctx = s.ctx ∧
    (s.modGroup k f).queue = s.queue ∧ (s.modGroup k f).desc = s.desc ∧ (s.modGroup k f).alloc = s.alloc ∧
    (s.modGroup k f).sem = s.sem ∧ (s.modGroup k f).account = s.account ∧ (s.modGroup k f).tessera = s.tessera ∧
    (s.modGroup k f).halt = s.halt ∧ (s.modGroup k f).die = s.die ∧ (s.modGroup k f).pipe = s.pipe ∧
    (s.modGroup k f).stack = s.stack ∧ (s.modGroup k f).entry = s.entry ∧ (s.modGroup k f).handle = s.handle ∧
    (s.modGroup k f).slot = s.slot ∧ (s.modGroup k f).courier = s.courier ∧ (s.modGroup k f).port = s.port ∧
    (s.modGroup k f).peer = s.peer ∧ (s.modGroup k f).func = s.func ∧ (s.modGroup k f).hport = s.hport ∧
    (s.modGroup k f).logicTherm = s.logicTherm ∧ (s.modGroup k f).arrayTherm = s.arrayTherm ∧
    (s.modGroup k f).rail = s.rail ∧ (s.modGroup k f).ev = s.ev ∧ (s.modGroup k f).crossing = s.crossing ∧
    (s.modGroup k f).eccBlock = s.eccBlock ∧ (s.modGroup k f).line = s.line ∧ (s.modGroup k f).logSlot = s.logSlot ∧
    (s.modGroup k f).owner = s.owner :=
  ⟨rfl, rfl, rfl, rfl, rfl, rfl, rfl, rfl, rfl, rfl, rfl, rfl, rfl, rfl, rfl, rfl, rfl, rfl, rfl, rfl, rfl, rfl, rfl,
   rfl, rfl, rfl, rfl, rfl, rfl, rfl, rfl, rfl, rfl, rfl, rfl, rfl, rfl, rfl, rfl, rfl, rfl, rfl, rfl, rfl, rfl, rfl,
   rfl, rfl, rfl, rfl, rfl, rfl, rfl, rfl, rfl, rfl, rfl, rfl, rfl, rfl, rfl, rfl, rfl, rfl, rfl, rfl, rfl, rfl, rfl,
   rfl, rfl, rfl, rfl, rfl, rfl, rfl, rfl, rfl, rfl, rfl, rfl, rfl, rfl, rfl, rfl, rfl, rfl, rfl, rfl, rfl, rfl, rfl,
   rfl, rfl, rfl, rfl, rfl, rfl, rfl, rfl, rfl, rfl, rfl, rfl, rfl, rfl, rfl, rfl, rfl, rfl, rfl, rfl, rfl, rfl, rfl,
   rfl, rfl, rfl, rfl, rfl, rfl, rfl, rfl, rfl, rfl, rfl, rfl, rfl, rfl, rfl, rfl, rfl, rfl, rfl, rfl⟩

/-- A change of one entry of `peers` keeps every other field. -/
@[simp] theorem State.modPeer_keeps (s : State) (k : Nat) (f : Peer → Peer) :
    (s.modPeer k f).pending = s.pending ∧ (s.modPeer k f).out = s.out ∧ (s.modPeer k f).clock = s.clock ∧
    (s.modPeer k f).fresh = s.fresh ∧ (s.modPeer k f).grade = s.grade ∧ (s.modPeer k f).longLife = s.longLife ∧
    (s.modPeer k f).stepping = s.stepping ∧ (s.modPeer k f).board = s.board ∧ (s.modPeer k f).flash = s.flash ∧
    (s.modPeer k f).boot = s.boot ∧ (s.modPeer k f).overlays = s.overlays ∧ (s.modPeer k f).active = s.active ∧
    (s.modPeer k f).ovlKept = s.ovlKept ∧ (s.modPeer k f).fallback = s.fallback ∧
    (s.modPeer k f).ovlBusy = s.ovlBusy ∧ (s.modPeer k f).ovlRefuse = s.ovlRefuse ∧
    (s.modPeer k f).memSplit = s.memSplit ∧ (s.modPeer k f).stripeAll = s.stripeAll ∧
    (s.modPeer k f).resMib = s.resMib ∧ (s.modPeer k f).binMib = s.binMib ∧ (s.modPeer k f).totalVf = s.totalVf ∧
    (s.modPeer k f).vectors = s.vectors ∧ (s.modPeer k f).expert = s.expert ∧ (s.modPeer k f).planReq = s.planReq ∧
    (s.modPeer k f).planEff = s.planEff ∧ (s.modPeer k f).planFromOverlay = s.planFromOverlay ∧
    (s.modPeer k f).relocking = s.relocking ∧ (s.modPeer k f).quiesce = s.quiesce ∧
    (s.modPeer k f).applyReq = s.applyReq ∧ (s.modPeer k f).groupTab = s.groupTab ∧
    (s.modPeer k f).routeTab = s.routeTab ∧ (s.modPeer k f).exportTab = s.exportTab ∧
    (s.modPeer k f).update = s.update ∧ (s.modPeer k f).persistUse = s.persistUse ∧
    (s.modPeer k f).persistSeq = s.persistSeq ∧ (s.modPeer k f).persistBusy = s.persistBusy ∧
    (s.modPeer k f).persistAgain = s.persistAgain ∧ (s.modPeer k f).resetWanted = s.resetWanted ∧
    (s.modPeer k f).resetCause = s.resetCause ∧ (s.modPeer k f).resetDie = s.resetDie ∧
    (s.modPeer k f).resetCount = s.resetCount ∧ (s.modPeer k f).pairRead = s.pairRead ∧
    (s.modPeer k f).pairWrite = s.pairWrite ∧ (s.modPeer k f).cacheCap = s.cacheCap ∧
    (s.modPeer k f).slotCap = s.slotCap ∧ (s.modPeer k f).ctxs = s.ctxs ∧ (s.modPeer k f).queues = s.queues ∧
    (s.modPeer k f).descs = s.descs ∧ (s.modPeer k f).allocs = s.allocs ∧ (s.modPeer k f).sems = s.sems ∧
    (s.modPeer k f).cmds = s.cmds ∧ (s.modPeer k f).accounts = s.accounts ∧ (s.modPeer k f).lastCtx = s.lastCtx ∧
    (s.modPeer k f).tlb = s.tlb ∧ (s.modPeer k f).mem = s.mem ∧ (s.modPeer k f).dcache = s.dcache ∧
    (s.modPeer k f).held = s.held ∧ (s.modPeer k f).bells = s.bells ∧ (s.modPeer k f).reads4 = s.reads4 ∧
    (s.modPeer k f).hits = s.hits ∧ (s.modPeer k f).tess = s.tess ∧ (s.modPeer k f).halts = s.halts ∧
    (s.modPeer k f).dies = s.dies ∧ (s.modPeer k f).pipes = s.pipes ∧ (s.modPeer k f).stackTab = s.stackTab ∧
    (s.modPeer k f).pages = s.pages ∧ (s.modPeer k f).lastOwner = s.lastOwner ∧ (s.modPeer k f).ledger = s.ledger ∧
    (s.modPeer k f).handles = s.handles ∧ (s.modPeer k f).slots = s.slots ∧ (s.modPeer k f).couriers = s.couriers ∧
    (s.modPeer k f).ports = s.ports ∧ (s.modPeer k f).groups = s.groups ∧ (s.modPeer k f).reqs = s.reqs ∧
    (s.modPeer k f).nextTag = s.nextTag ∧ (s.modPeer k f).inbox = s.inbox ∧ (s.modPeer k f).frames = s.frames ∧
    (s.modPeer k f).funcs = s.funcs ∧ (s.modPeer k f).hports = s.hports ∧ (s.modPeer k f).therm = s.therm ∧
    (s.modPeer k f).atherm = s.atherm ∧ (s.modPeer k f).thermAlert = s.thermAlert ∧ (s.modPeer k f).rails = s.rails ∧
    (s.modPeer k f).dips = s.dips ∧ (s.modPeer k f).asupply = s.asupply ∧ (s.modPeer k f).packageW = s.packageW ∧
    (s.modPeer k f).cdMaxW = s.cdMaxW ∧ (s.modPeer k f).refreshOp = s.refreshOp ∧ (s.modPeer k f).acts = s.acts ∧
    (s.modPeer k f).patina = s.patina ∧ (s.modPeer k f).vreq = s.vreq ∧ (s.modPeer k f).lpCtl = s.lpCtl ∧
    (s.modPeer k f).pkg = s.pkg ∧ (s.modPeer k f).s2Count = s.s2Count ∧ (s.modPeer k f).offDom = s.offDom ∧
    (s.modPeer k f).evd = s.evd ∧ (s.modPeer k f).evlog = s.evlog ∧ (s.modPeer k f).evTotal = s.evTotal ∧
    (s.modPeer k f).snapBusy = s.snapBusy ∧ (s.modPeer k f).cross = s.cross ∧ (s.modPeer k f).ecc = s.ecc ∧
    (s.modPeer k f).i3cAddr = s.i3cAddr ∧ (s.modPeer k f).eid = s.eid ∧
    (s.modPeer k f).eventReceiver = s.eventReceiver ∧ (s.modPeer k f).sensors = s.sensors ∧
    (s.modPeer k f).jtagIr = s.jtagIr ∧ (s.modPeer k f).stalled = s.stalled ∧ (s.modPeer k f).ctx = s.ctx ∧
    (s.modPeer k f).queue = s.queue ∧ (s.modPeer k f).desc = s.desc ∧ (s.modPeer k f).alloc = s.alloc ∧
    (s.modPeer k f).sem = s.sem ∧ (s.modPeer k f).account = s.account ∧ (s.modPeer k f).tessera = s.tessera ∧
    (s.modPeer k f).halt = s.halt ∧ (s.modPeer k f).die = s.die ∧ (s.modPeer k f).pipe = s.pipe ∧
    (s.modPeer k f).stack = s.stack ∧ (s.modPeer k f).entry = s.entry ∧ (s.modPeer k f).handle = s.handle ∧
    (s.modPeer k f).slot = s.slot ∧ (s.modPeer k f).courier = s.courier ∧ (s.modPeer k f).port = s.port ∧
    (s.modPeer k f).group = s.group ∧ (s.modPeer k f).func = s.func ∧ (s.modPeer k f).hport = s.hport ∧
    (s.modPeer k f).logicTherm = s.logicTherm ∧ (s.modPeer k f).arrayTherm = s.arrayTherm ∧
    (s.modPeer k f).rail = s.rail ∧ (s.modPeer k f).ev = s.ev ∧ (s.modPeer k f).crossing = s.crossing ∧
    (s.modPeer k f).eccBlock = s.eccBlock ∧ (s.modPeer k f).line = s.line ∧ (s.modPeer k f).logSlot = s.logSlot ∧
    (s.modPeer k f).owner = s.owner :=
  ⟨rfl, rfl, rfl, rfl, rfl, rfl, rfl, rfl, rfl, rfl, rfl, rfl, rfl, rfl, rfl, rfl, rfl, rfl, rfl, rfl, rfl, rfl, rfl,
   rfl, rfl, rfl, rfl, rfl, rfl, rfl, rfl, rfl, rfl, rfl, rfl, rfl, rfl, rfl, rfl, rfl, rfl, rfl, rfl, rfl, rfl, rfl,
   rfl, rfl, rfl, rfl, rfl, rfl, rfl, rfl, rfl, rfl, rfl, rfl, rfl, rfl, rfl, rfl, rfl, rfl, rfl, rfl, rfl, rfl, rfl,
   rfl, rfl, rfl, rfl, rfl, rfl, rfl, rfl, rfl, rfl, rfl, rfl, rfl, rfl, rfl, rfl, rfl, rfl, rfl, rfl, rfl, rfl, rfl,
   rfl, rfl, rfl, rfl, rfl, rfl, rfl, rfl, rfl, rfl, rfl, rfl, rfl, rfl, rfl, rfl, rfl, rfl, rfl, rfl, rfl, rfl, rfl,
   rfl, rfl, rfl, rfl, rfl, rfl, rfl, rfl, rfl, rfl, rfl, rfl, rfl, rfl, rfl, rfl, rfl, rfl, rfl, rfl⟩

/-- A change of one entry of `funcs` keeps every other field. -/
@[simp] theorem State.modFunc_keeps (s : State) (k : Nat) (f : Func → Func) :
    (s.modFunc k f).pending = s.pending ∧ (s.modFunc k f).out = s.out ∧ (s.modFunc k f).clock = s.clock ∧
    (s.modFunc k f).fresh = s.fresh ∧ (s.modFunc k f).grade = s.grade ∧ (s.modFunc k f).longLife = s.longLife ∧
    (s.modFunc k f).stepping = s.stepping ∧ (s.modFunc k f).board = s.board ∧ (s.modFunc k f).flash = s.flash ∧
    (s.modFunc k f).boot = s.boot ∧ (s.modFunc k f).overlays = s.overlays ∧ (s.modFunc k f).active = s.active ∧
    (s.modFunc k f).ovlKept = s.ovlKept ∧ (s.modFunc k f).fallback = s.fallback ∧
    (s.modFunc k f).ovlBusy = s.ovlBusy ∧ (s.modFunc k f).ovlRefuse = s.ovlRefuse ∧
    (s.modFunc k f).memSplit = s.memSplit ∧ (s.modFunc k f).stripeAll = s.stripeAll ∧
    (s.modFunc k f).resMib = s.resMib ∧ (s.modFunc k f).binMib = s.binMib ∧ (s.modFunc k f).totalVf = s.totalVf ∧
    (s.modFunc k f).vectors = s.vectors ∧ (s.modFunc k f).expert = s.expert ∧ (s.modFunc k f).planReq = s.planReq ∧
    (s.modFunc k f).planEff = s.planEff ∧ (s.modFunc k f).planFromOverlay = s.planFromOverlay ∧
    (s.modFunc k f).relocking = s.relocking ∧ (s.modFunc k f).quiesce = s.quiesce ∧
    (s.modFunc k f).applyReq = s.applyReq ∧ (s.modFunc k f).groupTab = s.groupTab ∧
    (s.modFunc k f).routeTab = s.routeTab ∧ (s.modFunc k f).exportTab = s.exportTab ∧
    (s.modFunc k f).update = s.update ∧ (s.modFunc k f).persistUse = s.persistUse ∧
    (s.modFunc k f).persistSeq = s.persistSeq ∧ (s.modFunc k f).persistBusy = s.persistBusy ∧
    (s.modFunc k f).persistAgain = s.persistAgain ∧ (s.modFunc k f).resetWanted = s.resetWanted ∧
    (s.modFunc k f).resetCause = s.resetCause ∧ (s.modFunc k f).resetDie = s.resetDie ∧
    (s.modFunc k f).resetCount = s.resetCount ∧ (s.modFunc k f).pairRead = s.pairRead ∧
    (s.modFunc k f).pairWrite = s.pairWrite ∧ (s.modFunc k f).cacheCap = s.cacheCap ∧
    (s.modFunc k f).slotCap = s.slotCap ∧ (s.modFunc k f).ctxs = s.ctxs ∧ (s.modFunc k f).queues = s.queues ∧
    (s.modFunc k f).descs = s.descs ∧ (s.modFunc k f).allocs = s.allocs ∧ (s.modFunc k f).sems = s.sems ∧
    (s.modFunc k f).cmds = s.cmds ∧ (s.modFunc k f).accounts = s.accounts ∧ (s.modFunc k f).lastCtx = s.lastCtx ∧
    (s.modFunc k f).tlb = s.tlb ∧ (s.modFunc k f).mem = s.mem ∧ (s.modFunc k f).dcache = s.dcache ∧
    (s.modFunc k f).held = s.held ∧ (s.modFunc k f).bells = s.bells ∧ (s.modFunc k f).reads4 = s.reads4 ∧
    (s.modFunc k f).hits = s.hits ∧ (s.modFunc k f).tess = s.tess ∧ (s.modFunc k f).halts = s.halts ∧
    (s.modFunc k f).dies = s.dies ∧ (s.modFunc k f).pipes = s.pipes ∧ (s.modFunc k f).stackTab = s.stackTab ∧
    (s.modFunc k f).pages = s.pages ∧ (s.modFunc k f).lastOwner = s.lastOwner ∧ (s.modFunc k f).ledger = s.ledger ∧
    (s.modFunc k f).handles = s.handles ∧ (s.modFunc k f).slots = s.slots ∧ (s.modFunc k f).couriers = s.couriers ∧
    (s.modFunc k f).ports = s.ports ∧ (s.modFunc k f).groups = s.groups ∧ (s.modFunc k f).peers = s.peers ∧
    (s.modFunc k f).reqs = s.reqs ∧ (s.modFunc k f).nextTag = s.nextTag ∧ (s.modFunc k f).inbox = s.inbox ∧
    (s.modFunc k f).frames = s.frames ∧ (s.modFunc k f).hports = s.hports ∧ (s.modFunc k f).therm = s.therm ∧
    (s.modFunc k f).atherm = s.atherm ∧ (s.modFunc k f).thermAlert = s.thermAlert ∧ (s.modFunc k f).rails = s.rails ∧
    (s.modFunc k f).dips = s.dips ∧ (s.modFunc k f).asupply = s.asupply ∧ (s.modFunc k f).packageW = s.packageW ∧
    (s.modFunc k f).cdMaxW = s.cdMaxW ∧ (s.modFunc k f).refreshOp = s.refreshOp ∧ (s.modFunc k f).acts = s.acts ∧
    (s.modFunc k f).patina = s.patina ∧ (s.modFunc k f).vreq = s.vreq ∧ (s.modFunc k f).lpCtl = s.lpCtl ∧
    (s.modFunc k f).pkg = s.pkg ∧ (s.modFunc k f).s2Count = s.s2Count ∧ (s.modFunc k f).offDom = s.offDom ∧
    (s.modFunc k f).evd = s.evd ∧ (s.modFunc k f).evlog = s.evlog ∧ (s.modFunc k f).evTotal = s.evTotal ∧
    (s.modFunc k f).snapBusy = s.snapBusy ∧ (s.modFunc k f).cross = s.cross ∧ (s.modFunc k f).ecc = s.ecc ∧
    (s.modFunc k f).i3cAddr = s.i3cAddr ∧ (s.modFunc k f).eid = s.eid ∧
    (s.modFunc k f).eventReceiver = s.eventReceiver ∧ (s.modFunc k f).sensors = s.sensors ∧
    (s.modFunc k f).jtagIr = s.jtagIr ∧ (s.modFunc k f).stalled = s.stalled ∧ (s.modFunc k f).ctx = s.ctx ∧
    (s.modFunc k f).queue = s.queue ∧ (s.modFunc k f).desc = s.desc ∧ (s.modFunc k f).alloc = s.alloc ∧
    (s.modFunc k f).sem = s.sem ∧ (s.modFunc k f).account = s.account ∧ (s.modFunc k f).tessera = s.tessera ∧
    (s.modFunc k f).halt = s.halt ∧ (s.modFunc k f).die = s.die ∧ (s.modFunc k f).pipe = s.pipe ∧
    (s.modFunc k f).stack = s.stack ∧ (s.modFunc k f).entry = s.entry ∧ (s.modFunc k f).handle = s.handle ∧
    (s.modFunc k f).slot = s.slot ∧ (s.modFunc k f).courier = s.courier ∧ (s.modFunc k f).port = s.port ∧
    (s.modFunc k f).group = s.group ∧ (s.modFunc k f).peer = s.peer ∧ (s.modFunc k f).hport = s.hport ∧
    (s.modFunc k f).logicTherm = s.logicTherm ∧ (s.modFunc k f).arrayTherm = s.arrayTherm ∧
    (s.modFunc k f).rail = s.rail ∧ (s.modFunc k f).ev = s.ev ∧ (s.modFunc k f).crossing = s.crossing ∧
    (s.modFunc k f).eccBlock = s.eccBlock ∧ (s.modFunc k f).line = s.line ∧ (s.modFunc k f).logSlot = s.logSlot ∧
    (s.modFunc k f).owner = s.owner :=
  ⟨rfl, rfl, rfl, rfl, rfl, rfl, rfl, rfl, rfl, rfl, rfl, rfl, rfl, rfl, rfl, rfl, rfl, rfl, rfl, rfl, rfl, rfl, rfl,
   rfl, rfl, rfl, rfl, rfl, rfl, rfl, rfl, rfl, rfl, rfl, rfl, rfl, rfl, rfl, rfl, rfl, rfl, rfl, rfl, rfl, rfl, rfl,
   rfl, rfl, rfl, rfl, rfl, rfl, rfl, rfl, rfl, rfl, rfl, rfl, rfl, rfl, rfl, rfl, rfl, rfl, rfl, rfl, rfl, rfl, rfl,
   rfl, rfl, rfl, rfl, rfl, rfl, rfl, rfl, rfl, rfl, rfl, rfl, rfl, rfl, rfl, rfl, rfl, rfl, rfl, rfl, rfl, rfl, rfl,
   rfl, rfl, rfl, rfl, rfl, rfl, rfl, rfl, rfl, rfl, rfl, rfl, rfl, rfl, rfl, rfl, rfl, rfl, rfl, rfl, rfl, rfl, rfl,
   rfl, rfl, rfl, rfl, rfl, rfl, rfl, rfl, rfl, rfl, rfl, rfl, rfl, rfl, rfl, rfl, rfl, rfl, rfl, rfl⟩

/-- A change of one entry of `hports` keeps every other field. -/
@[simp] theorem State.modHport_keeps (s : State) (k : Nat) (f : HPort → HPort) :
    (s.modHport k f).pending = s.pending ∧ (s.modHport k f).out = s.out ∧ (s.modHport k f).clock = s.clock ∧
    (s.modHport k f).fresh = s.fresh ∧ (s.modHport k f).grade = s.grade ∧ (s.modHport k f).longLife = s.longLife ∧
    (s.modHport k f).stepping = s.stepping ∧ (s.modHport k f).board = s.board ∧ (s.modHport k f).flash = s.flash ∧
    (s.modHport k f).boot = s.boot ∧ (s.modHport k f).overlays = s.overlays ∧ (s.modHport k f).active = s.active ∧
    (s.modHport k f).ovlKept = s.ovlKept ∧ (s.modHport k f).fallback = s.fallback ∧
    (s.modHport k f).ovlBusy = s.ovlBusy ∧ (s.modHport k f).ovlRefuse = s.ovlRefuse ∧
    (s.modHport k f).memSplit = s.memSplit ∧ (s.modHport k f).stripeAll = s.stripeAll ∧
    (s.modHport k f).resMib = s.resMib ∧ (s.modHport k f).binMib = s.binMib ∧ (s.modHport k f).totalVf = s.totalVf ∧
    (s.modHport k f).vectors = s.vectors ∧ (s.modHport k f).expert = s.expert ∧
    (s.modHport k f).planReq = s.planReq ∧ (s.modHport k f).planEff = s.planEff ∧
    (s.modHport k f).planFromOverlay = s.planFromOverlay ∧ (s.modHport k f).relocking = s.relocking ∧
    (s.modHport k f).quiesce = s.quiesce ∧ (s.modHport k f).applyReq = s.applyReq ∧
    (s.modHport k f).groupTab = s.groupTab ∧ (s.modHport k f).routeTab = s.routeTab ∧
    (s.modHport k f).exportTab = s.exportTab ∧ (s.modHport k f).update = s.update ∧
    (s.modHport k f).persistUse = s.persistUse ∧ (s.modHport k f).persistSeq = s.persistSeq ∧
    (s.modHport k f).persistBusy = s.persistBusy ∧ (s.modHport k f).persistAgain = s.persistAgain ∧
    (s.modHport k f).resetWanted = s.resetWanted ∧ (s.modHport k f).resetCause = s.resetCause ∧
    (s.modHport k f).resetDie = s.resetDie ∧ (s.modHport k f).resetCount = s.resetCount ∧
    (s.modHport k f).pairRead = s.pairRead ∧ (s.modHport k f).pairWrite = s.pairWrite ∧
    (s.modHport k f).cacheCap = s.cacheCap ∧ (s.modHport k f).slotCap = s.slotCap ∧ (s.modHport k f).ctxs = s.ctxs ∧
    (s.modHport k f).queues = s.queues ∧ (s.modHport k f).descs = s.descs ∧ (s.modHport k f).allocs = s.allocs ∧
    (s.modHport k f).sems = s.sems ∧ (s.modHport k f).cmds = s.cmds ∧ (s.modHport k f).accounts = s.accounts ∧
    (s.modHport k f).lastCtx = s.lastCtx ∧ (s.modHport k f).tlb = s.tlb ∧ (s.modHport k f).mem = s.mem ∧
    (s.modHport k f).dcache = s.dcache ∧ (s.modHport k f).held = s.held ∧ (s.modHport k f).bells = s.bells ∧
    (s.modHport k f).reads4 = s.reads4 ∧ (s.modHport k f).hits = s.hits ∧ (s.modHport k f).tess = s.tess ∧
    (s.modHport k f).halts = s.halts ∧ (s.modHport k f).dies = s.dies ∧ (s.modHport k f).pipes = s.pipes ∧
    (s.modHport k f).stackTab = s.stackTab ∧ (s.modHport k f).pages = s.pages ∧
    (s.modHport k f).lastOwner = s.lastOwner ∧ (s.modHport k f).ledger = s.ledger ∧
    (s.modHport k f).handles = s.handles ∧ (s.modHport k f).slots = s.slots ∧
    (s.modHport k f).couriers = s.couriers ∧ (s.modHport k f).ports = s.ports ∧ (s.modHport k f).groups = s.groups ∧
    (s.modHport k f).peers = s.peers ∧ (s.modHport k f).reqs = s.reqs ∧ (s.modHport k f).nextTag = s.nextTag ∧
    (s.modHport k f).inbox = s.inbox ∧ (s.modHport k f).frames = s.frames ∧ (s.modHport k f).funcs = s.funcs ∧
    (s.modHport k f).therm = s.therm ∧ (s.modHport k f).atherm = s.atherm ∧
    (s.modHport k f).thermAlert = s.thermAlert ∧ (s.modHport k f).rails = s.rails ∧ (s.modHport k f).dips = s.dips ∧
    (s.modHport k f).asupply = s.asupply ∧ (s.modHport k f).packageW = s.packageW ∧
    (s.modHport k f).cdMaxW = s.cdMaxW ∧ (s.modHport k f).refreshOp = s.refreshOp ∧ (s.modHport k f).acts = s.acts ∧
    (s.modHport k f).patina = s.patina ∧ (s.modHport k f).vreq = s.vreq ∧ (s.modHport k f).lpCtl = s.lpCtl ∧
    (s.modHport k f).pkg = s.pkg ∧ (s.modHport k f).s2Count = s.s2Count ∧ (s.modHport k f).offDom = s.offDom ∧
    (s.modHport k f).evd = s.evd ∧ (s.modHport k f).evlog = s.evlog ∧ (s.modHport k f).evTotal = s.evTotal ∧
    (s.modHport k f).snapBusy = s.snapBusy ∧ (s.modHport k f).cross = s.cross ∧ (s.modHport k f).ecc = s.ecc ∧
    (s.modHport k f).i3cAddr = s.i3cAddr ∧ (s.modHport k f).eid = s.eid ∧
    (s.modHport k f).eventReceiver = s.eventReceiver ∧ (s.modHport k f).sensors = s.sensors ∧
    (s.modHport k f).jtagIr = s.jtagIr ∧ (s.modHport k f).stalled = s.stalled ∧ (s.modHport k f).ctx = s.ctx ∧
    (s.modHport k f).queue = s.queue ∧ (s.modHport k f).desc = s.desc ∧ (s.modHport k f).alloc = s.alloc ∧
    (s.modHport k f).sem = s.sem ∧ (s.modHport k f).account = s.account ∧ (s.modHport k f).tessera = s.tessera ∧
    (s.modHport k f).halt = s.halt ∧ (s.modHport k f).die = s.die ∧ (s.modHport k f).pipe = s.pipe ∧
    (s.modHport k f).stack = s.stack ∧ (s.modHport k f).entry = s.entry ∧ (s.modHport k f).handle = s.handle ∧
    (s.modHport k f).slot = s.slot ∧ (s.modHport k f).courier = s.courier ∧ (s.modHport k f).port = s.port ∧
    (s.modHport k f).group = s.group ∧ (s.modHport k f).peer = s.peer ∧ (s.modHport k f).func = s.func ∧
    (s.modHport k f).logicTherm = s.logicTherm ∧ (s.modHport k f).arrayTherm = s.arrayTherm ∧
    (s.modHport k f).rail = s.rail ∧ (s.modHport k f).ev = s.ev ∧ (s.modHport k f).crossing = s.crossing ∧
    (s.modHport k f).eccBlock = s.eccBlock ∧ (s.modHport k f).line = s.line ∧ (s.modHport k f).logSlot = s.logSlot ∧
    (s.modHport k f).owner = s.owner :=
  ⟨rfl, rfl, rfl, rfl, rfl, rfl, rfl, rfl, rfl, rfl, rfl, rfl, rfl, rfl, rfl, rfl, rfl, rfl, rfl, rfl, rfl, rfl, rfl,
   rfl, rfl, rfl, rfl, rfl, rfl, rfl, rfl, rfl, rfl, rfl, rfl, rfl, rfl, rfl, rfl, rfl, rfl, rfl, rfl, rfl, rfl, rfl,
   rfl, rfl, rfl, rfl, rfl, rfl, rfl, rfl, rfl, rfl, rfl, rfl, rfl, rfl, rfl, rfl, rfl, rfl, rfl, rfl, rfl, rfl, rfl,
   rfl, rfl, rfl, rfl, rfl, rfl, rfl, rfl, rfl, rfl, rfl, rfl, rfl, rfl, rfl, rfl, rfl, rfl, rfl, rfl, rfl, rfl, rfl,
   rfl, rfl, rfl, rfl, rfl, rfl, rfl, rfl, rfl, rfl, rfl, rfl, rfl, rfl, rfl, rfl, rfl, rfl, rfl, rfl, rfl, rfl, rfl,
   rfl, rfl, rfl, rfl, rfl, rfl, rfl, rfl, rfl, rfl, rfl, rfl, rfl, rfl, rfl, rfl, rfl, rfl, rfl, rfl⟩

/-- A change of one entry of `therm` keeps every other field. -/
@[simp] theorem State.modLogicTherm_keeps (s : State) (k : Nat) (f : Therm → Therm) :
    (s.modLogicTherm k f).pending = s.pending ∧ (s.modLogicTherm k f).out = s.out ∧
    (s.modLogicTherm k f).clock = s.clock ∧ (s.modLogicTherm k f).fresh = s.fresh ∧
    (s.modLogicTherm k f).grade = s.grade ∧ (s.modLogicTherm k f).longLife = s.longLife ∧
    (s.modLogicTherm k f).stepping = s.stepping ∧ (s.modLogicTherm k f).board = s.board ∧
    (s.modLogicTherm k f).flash = s.flash ∧ (s.modLogicTherm k f).boot = s.boot ∧
    (s.modLogicTherm k f).overlays = s.overlays ∧ (s.modLogicTherm k f).active = s.active ∧
    (s.modLogicTherm k f).ovlKept = s.ovlKept ∧ (s.modLogicTherm k f).fallback = s.fallback ∧
    (s.modLogicTherm k f).ovlBusy = s.ovlBusy ∧ (s.modLogicTherm k f).ovlRefuse = s.ovlRefuse ∧
    (s.modLogicTherm k f).memSplit = s.memSplit ∧ (s.modLogicTherm k f).stripeAll = s.stripeAll ∧
    (s.modLogicTherm k f).resMib = s.resMib ∧ (s.modLogicTherm k f).binMib = s.binMib ∧
    (s.modLogicTherm k f).totalVf = s.totalVf ∧ (s.modLogicTherm k f).vectors = s.vectors ∧
    (s.modLogicTherm k f).expert = s.expert ∧ (s.modLogicTherm k f).planReq = s.planReq ∧
    (s.modLogicTherm k f).planEff = s.planEff ∧ (s.modLogicTherm k f).planFromOverlay = s.planFromOverlay ∧
    (s.modLogicTherm k f).relocking = s.relocking ∧ (s.modLogicTherm k f).quiesce = s.quiesce ∧
    (s.modLogicTherm k f).applyReq = s.applyReq ∧ (s.modLogicTherm k f).groupTab = s.groupTab ∧
    (s.modLogicTherm k f).routeTab = s.routeTab ∧ (s.modLogicTherm k f).exportTab = s.exportTab ∧
    (s.modLogicTherm k f).update = s.update ∧ (s.modLogicTherm k f).persistUse = s.persistUse ∧
    (s.modLogicTherm k f).persistSeq = s.persistSeq ∧ (s.modLogicTherm k f).persistBusy = s.persistBusy ∧
    (s.modLogicTherm k f).persistAgain = s.persistAgain ∧ (s.modLogicTherm k f).resetWanted = s.resetWanted ∧
    (s.modLogicTherm k f).resetCause = s.resetCause ∧ (s.modLogicTherm k f).resetDie = s.resetDie ∧
    (s.modLogicTherm k f).resetCount = s.resetCount ∧ (s.modLogicTherm k f).pairRead = s.pairRead ∧
    (s.modLogicTherm k f).pairWrite = s.pairWrite ∧ (s.modLogicTherm k f).cacheCap = s.cacheCap ∧
    (s.modLogicTherm k f).slotCap = s.slotCap ∧ (s.modLogicTherm k f).ctxs = s.ctxs ∧
    (s.modLogicTherm k f).queues = s.queues ∧ (s.modLogicTherm k f).descs = s.descs ∧
    (s.modLogicTherm k f).allocs = s.allocs ∧ (s.modLogicTherm k f).sems = s.sems ∧
    (s.modLogicTherm k f).cmds = s.cmds ∧ (s.modLogicTherm k f).accounts = s.accounts ∧
    (s.modLogicTherm k f).lastCtx = s.lastCtx ∧ (s.modLogicTherm k f).tlb = s.tlb ∧
    (s.modLogicTherm k f).mem = s.mem ∧ (s.modLogicTherm k f).dcache = s.dcache ∧
    (s.modLogicTherm k f).held = s.held ∧ (s.modLogicTherm k f).bells = s.bells ∧
    (s.modLogicTherm k f).reads4 = s.reads4 ∧ (s.modLogicTherm k f).hits = s.hits ∧
    (s.modLogicTherm k f).tess = s.tess ∧ (s.modLogicTherm k f).halts = s.halts ∧
    (s.modLogicTherm k f).dies = s.dies ∧ (s.modLogicTherm k f).pipes = s.pipes ∧
    (s.modLogicTherm k f).stackTab = s.stackTab ∧ (s.modLogicTherm k f).pages = s.pages ∧
    (s.modLogicTherm k f).lastOwner = s.lastOwner ∧ (s.modLogicTherm k f).ledger = s.ledger ∧
    (s.modLogicTherm k f).handles = s.handles ∧ (s.modLogicTherm k f).slots = s.slots ∧
    (s.modLogicTherm k f).couriers = s.couriers ∧ (s.modLogicTherm k f).ports = s.ports ∧
    (s.modLogicTherm k f).groups = s.groups ∧ (s.modLogicTherm k f).peers = s.peers ∧
    (s.modLogicTherm k f).reqs = s.reqs ∧ (s.modLogicTherm k f).nextTag = s.nextTag ∧
    (s.modLogicTherm k f).inbox = s.inbox ∧ (s.modLogicTherm k f).frames = s.frames ∧
    (s.modLogicTherm k f).funcs = s.funcs ∧ (s.modLogicTherm k f).hports = s.hports ∧
    (s.modLogicTherm k f).atherm = s.atherm ∧ (s.modLogicTherm k f).thermAlert = s.thermAlert ∧
    (s.modLogicTherm k f).rails = s.rails ∧ (s.modLogicTherm k f).dips = s.dips ∧
    (s.modLogicTherm k f).asupply = s.asupply ∧ (s.modLogicTherm k f).packageW = s.packageW ∧
    (s.modLogicTherm k f).cdMaxW = s.cdMaxW ∧ (s.modLogicTherm k f).refreshOp = s.refreshOp ∧
    (s.modLogicTherm k f).acts = s.acts ∧ (s.modLogicTherm k f).patina = s.patina ∧
    (s.modLogicTherm k f).vreq = s.vreq ∧ (s.modLogicTherm k f).lpCtl = s.lpCtl ∧ (s.modLogicTherm k f).pkg = s.pkg ∧
    (s.modLogicTherm k f).s2Count = s.s2Count ∧ (s.modLogicTherm k f).offDom = s.offDom ∧
    (s.modLogicTherm k f).evd = s.evd ∧ (s.modLogicTherm k f).evlog = s.evlog ∧
    (s.modLogicTherm k f).evTotal = s.evTotal ∧ (s.modLogicTherm k f).snapBusy = s.snapBusy ∧
    (s.modLogicTherm k f).cross = s.cross ∧ (s.modLogicTherm k f).ecc = s.ecc ∧
    (s.modLogicTherm k f).i3cAddr = s.i3cAddr ∧ (s.modLogicTherm k f).eid = s.eid ∧
    (s.modLogicTherm k f).eventReceiver = s.eventReceiver ∧ (s.modLogicTherm k f).sensors = s.sensors ∧
    (s.modLogicTherm k f).jtagIr = s.jtagIr ∧ (s.modLogicTherm k f).stalled = s.stalled ∧
    (s.modLogicTherm k f).ctx = s.ctx ∧ (s.modLogicTherm k f).queue = s.queue ∧ (s.modLogicTherm k f).desc = s.desc ∧
    (s.modLogicTherm k f).alloc = s.alloc ∧ (s.modLogicTherm k f).sem = s.sem ∧
    (s.modLogicTherm k f).account = s.account ∧ (s.modLogicTherm k f).tessera = s.tessera ∧
    (s.modLogicTherm k f).halt = s.halt ∧ (s.modLogicTherm k f).die = s.die ∧ (s.modLogicTherm k f).pipe = s.pipe ∧
    (s.modLogicTherm k f).stack = s.stack ∧ (s.modLogicTherm k f).entry = s.entry ∧
    (s.modLogicTherm k f).handle = s.handle ∧ (s.modLogicTherm k f).slot = s.slot ∧
    (s.modLogicTherm k f).courier = s.courier ∧ (s.modLogicTherm k f).port = s.port ∧
    (s.modLogicTherm k f).group = s.group ∧ (s.modLogicTherm k f).peer = s.peer ∧
    (s.modLogicTherm k f).func = s.func ∧ (s.modLogicTherm k f).hport = s.hport ∧
    (s.modLogicTherm k f).arrayTherm = s.arrayTherm ∧ (s.modLogicTherm k f).rail = s.rail ∧
    (s.modLogicTherm k f).ev = s.ev ∧ (s.modLogicTherm k f).crossing = s.crossing ∧
    (s.modLogicTherm k f).eccBlock = s.eccBlock ∧ (s.modLogicTherm k f).line = s.line ∧
    (s.modLogicTherm k f).logSlot = s.logSlot ∧ (s.modLogicTherm k f).owner = s.owner :=
  ⟨rfl, rfl, rfl, rfl, rfl, rfl, rfl, rfl, rfl, rfl, rfl, rfl, rfl, rfl, rfl, rfl, rfl, rfl, rfl, rfl, rfl, rfl, rfl,
   rfl, rfl, rfl, rfl, rfl, rfl, rfl, rfl, rfl, rfl, rfl, rfl, rfl, rfl, rfl, rfl, rfl, rfl, rfl, rfl, rfl, rfl, rfl,
   rfl, rfl, rfl, rfl, rfl, rfl, rfl, rfl, rfl, rfl, rfl, rfl, rfl, rfl, rfl, rfl, rfl, rfl, rfl, rfl, rfl, rfl, rfl,
   rfl, rfl, rfl, rfl, rfl, rfl, rfl, rfl, rfl, rfl, rfl, rfl, rfl, rfl, rfl, rfl, rfl, rfl, rfl, rfl, rfl, rfl, rfl,
   rfl, rfl, rfl, rfl, rfl, rfl, rfl, rfl, rfl, rfl, rfl, rfl, rfl, rfl, rfl, rfl, rfl, rfl, rfl, rfl, rfl, rfl, rfl,
   rfl, rfl, rfl, rfl, rfl, rfl, rfl, rfl, rfl, rfl, rfl, rfl, rfl, rfl, rfl, rfl, rfl, rfl, rfl, rfl⟩

/-- A change of one entry of `atherm` keeps every other field. -/
@[simp] theorem State.modArrayTherm_keeps (s : State) (k : Nat) (f : Therm → Therm) :
    (s.modArrayTherm k f).pending = s.pending ∧ (s.modArrayTherm k f).out = s.out ∧
    (s.modArrayTherm k f).clock = s.clock ∧ (s.modArrayTherm k f).fresh = s.fresh ∧
    (s.modArrayTherm k f).grade = s.grade ∧ (s.modArrayTherm k f).longLife = s.longLife ∧
    (s.modArrayTherm k f).stepping = s.stepping ∧ (s.modArrayTherm k f).board = s.board ∧
    (s.modArrayTherm k f).flash = s.flash ∧ (s.modArrayTherm k f).boot = s.boot ∧
    (s.modArrayTherm k f).overlays = s.overlays ∧ (s.modArrayTherm k f).active = s.active ∧
    (s.modArrayTherm k f).ovlKept = s.ovlKept ∧ (s.modArrayTherm k f).fallback = s.fallback ∧
    (s.modArrayTherm k f).ovlBusy = s.ovlBusy ∧ (s.modArrayTherm k f).ovlRefuse = s.ovlRefuse ∧
    (s.modArrayTherm k f).memSplit = s.memSplit ∧ (s.modArrayTherm k f).stripeAll = s.stripeAll ∧
    (s.modArrayTherm k f).resMib = s.resMib ∧ (s.modArrayTherm k f).binMib = s.binMib ∧
    (s.modArrayTherm k f).totalVf = s.totalVf ∧ (s.modArrayTherm k f).vectors = s.vectors ∧
    (s.modArrayTherm k f).expert = s.expert ∧ (s.modArrayTherm k f).planReq = s.planReq ∧
    (s.modArrayTherm k f).planEff = s.planEff ∧ (s.modArrayTherm k f).planFromOverlay = s.planFromOverlay ∧
    (s.modArrayTherm k f).relocking = s.relocking ∧ (s.modArrayTherm k f).quiesce = s.quiesce ∧
    (s.modArrayTherm k f).applyReq = s.applyReq ∧ (s.modArrayTherm k f).groupTab = s.groupTab ∧
    (s.modArrayTherm k f).routeTab = s.routeTab ∧ (s.modArrayTherm k f).exportTab = s.exportTab ∧
    (s.modArrayTherm k f).update = s.update ∧ (s.modArrayTherm k f).persistUse = s.persistUse ∧
    (s.modArrayTherm k f).persistSeq = s.persistSeq ∧ (s.modArrayTherm k f).persistBusy = s.persistBusy ∧
    (s.modArrayTherm k f).persistAgain = s.persistAgain ∧ (s.modArrayTherm k f).resetWanted = s.resetWanted ∧
    (s.modArrayTherm k f).resetCause = s.resetCause ∧ (s.modArrayTherm k f).resetDie = s.resetDie ∧
    (s.modArrayTherm k f).resetCount = s.resetCount ∧ (s.modArrayTherm k f).pairRead = s.pairRead ∧
    (s.modArrayTherm k f).pairWrite = s.pairWrite ∧ (s.modArrayTherm k f).cacheCap = s.cacheCap ∧
    (s.modArrayTherm k f).slotCap = s.slotCap ∧ (s.modArrayTherm k f).ctxs = s.ctxs ∧
    (s.modArrayTherm k f).queues = s.queues ∧ (s.modArrayTherm k f).descs = s.descs ∧
    (s.modArrayTherm k f).allocs = s.allocs ∧ (s.modArrayTherm k f).sems = s.sems ∧
    (s.modArrayTherm k f).cmds = s.cmds ∧ (s.modArrayTherm k f).accounts = s.accounts ∧
    (s.modArrayTherm k f).lastCtx = s.lastCtx ∧ (s.modArrayTherm k f).tlb = s.tlb ∧
    (s.modArrayTherm k f).mem = s.mem ∧ (s.modArrayTherm k f).dcache = s.dcache ∧
    (s.modArrayTherm k f).held = s.held ∧ (s.modArrayTherm k f).bells = s.bells ∧
    (s.modArrayTherm k f).reads4 = s.reads4 ∧ (s.modArrayTherm k f).hits = s.hits ∧
    (s.modArrayTherm k f).tess = s.tess ∧ (s.modArrayTherm k f).halts = s.halts ∧
    (s.modArrayTherm k f).dies = s.dies ∧ (s.modArrayTherm k f).pipes = s.pipes ∧
    (s.modArrayTherm k f).stackTab = s.stackTab ∧ (s.modArrayTherm k f).pages = s.pages ∧
    (s.modArrayTherm k f).lastOwner = s.lastOwner ∧ (s.modArrayTherm k f).ledger = s.ledger ∧
    (s.modArrayTherm k f).handles = s.handles ∧ (s.modArrayTherm k f).slots = s.slots ∧
    (s.modArrayTherm k f).couriers = s.couriers ∧ (s.modArrayTherm k f).ports = s.ports ∧
    (s.modArrayTherm k f).groups = s.groups ∧ (s.modArrayTherm k f).peers = s.peers ∧
    (s.modArrayTherm k f).reqs = s.reqs ∧ (s.modArrayTherm k f).nextTag = s.nextTag ∧
    (s.modArrayTherm k f).inbox = s.inbox ∧ (s.modArrayTherm k f).frames = s.frames ∧
    (s.modArrayTherm k f).funcs = s.funcs ∧ (s.modArrayTherm k f).hports = s.hports ∧
    (s.modArrayTherm k f).therm = s.therm ∧ (s.modArrayTherm k f).thermAlert = s.thermAlert ∧
    (s.modArrayTherm k f).rails = s.rails ∧ (s.modArrayTherm k f).dips = s.dips ∧
    (s.modArrayTherm k f).asupply = s.asupply ∧ (s.modArrayTherm k f).packageW = s.packageW ∧
    (s.modArrayTherm k f).cdMaxW = s.cdMaxW ∧ (s.modArrayTherm k f).refreshOp = s.refreshOp ∧
    (s.modArrayTherm k f).acts = s.acts ∧ (s.modArrayTherm k f).patina = s.patina ∧
    (s.modArrayTherm k f).vreq = s.vreq ∧ (s.modArrayTherm k f).lpCtl = s.lpCtl ∧ (s.modArrayTherm k f).pkg = s.pkg ∧
    (s.modArrayTherm k f).s2Count = s.s2Count ∧ (s.modArrayTherm k f).offDom = s.offDom ∧
    (s.modArrayTherm k f).evd = s.evd ∧ (s.modArrayTherm k f).evlog = s.evlog ∧
    (s.modArrayTherm k f).evTotal = s.evTotal ∧ (s.modArrayTherm k f).snapBusy = s.snapBusy ∧
    (s.modArrayTherm k f).cross = s.cross ∧ (s.modArrayTherm k f).ecc = s.ecc ∧
    (s.modArrayTherm k f).i3cAddr = s.i3cAddr ∧ (s.modArrayTherm k f).eid = s.eid ∧
    (s.modArrayTherm k f).eventReceiver = s.eventReceiver ∧ (s.modArrayTherm k f).sensors = s.sensors ∧
    (s.modArrayTherm k f).jtagIr = s.jtagIr ∧ (s.modArrayTherm k f).stalled = s.stalled ∧
    (s.modArrayTherm k f).ctx = s.ctx ∧ (s.modArrayTherm k f).queue = s.queue ∧ (s.modArrayTherm k f).desc = s.desc ∧
    (s.modArrayTherm k f).alloc = s.alloc ∧ (s.modArrayTherm k f).sem = s.sem ∧
    (s.modArrayTherm k f).account = s.account ∧ (s.modArrayTherm k f).tessera = s.tessera ∧
    (s.modArrayTherm k f).halt = s.halt ∧ (s.modArrayTherm k f).die = s.die ∧ (s.modArrayTherm k f).pipe = s.pipe ∧
    (s.modArrayTherm k f).stack = s.stack ∧ (s.modArrayTherm k f).entry = s.entry ∧
    (s.modArrayTherm k f).handle = s.handle ∧ (s.modArrayTherm k f).slot = s.slot ∧
    (s.modArrayTherm k f).courier = s.courier ∧ (s.modArrayTherm k f).port = s.port ∧
    (s.modArrayTherm k f).group = s.group ∧ (s.modArrayTherm k f).peer = s.peer ∧
    (s.modArrayTherm k f).func = s.func ∧ (s.modArrayTherm k f).hport = s.hport ∧
    (s.modArrayTherm k f).logicTherm = s.logicTherm ∧ (s.modArrayTherm k f).rail = s.rail ∧
    (s.modArrayTherm k f).ev = s.ev ∧ (s.modArrayTherm k f).crossing = s.crossing ∧
    (s.modArrayTherm k f).eccBlock = s.eccBlock ∧ (s.modArrayTherm k f).line = s.line ∧
    (s.modArrayTherm k f).logSlot = s.logSlot ∧ (s.modArrayTherm k f).owner = s.owner :=
  ⟨rfl, rfl, rfl, rfl, rfl, rfl, rfl, rfl, rfl, rfl, rfl, rfl, rfl, rfl, rfl, rfl, rfl, rfl, rfl, rfl, rfl, rfl, rfl,
   rfl, rfl, rfl, rfl, rfl, rfl, rfl, rfl, rfl, rfl, rfl, rfl, rfl, rfl, rfl, rfl, rfl, rfl, rfl, rfl, rfl, rfl, rfl,
   rfl, rfl, rfl, rfl, rfl, rfl, rfl, rfl, rfl, rfl, rfl, rfl, rfl, rfl, rfl, rfl, rfl, rfl, rfl, rfl, rfl, rfl, rfl,
   rfl, rfl, rfl, rfl, rfl, rfl, rfl, rfl, rfl, rfl, rfl, rfl, rfl, rfl, rfl, rfl, rfl, rfl, rfl, rfl, rfl, rfl, rfl,
   rfl, rfl, rfl, rfl, rfl, rfl, rfl, rfl, rfl, rfl, rfl, rfl, rfl, rfl, rfl, rfl, rfl, rfl, rfl, rfl, rfl, rfl, rfl,
   rfl, rfl, rfl, rfl, rfl, rfl, rfl, rfl, rfl, rfl, rfl, rfl, rfl, rfl, rfl, rfl, rfl, rfl, rfl, rfl⟩

/-- A change of one entry of `rails` keeps every other field. -/
@[simp] theorem State.modRail_keeps (s : State) (k : Nat) (f : Rail → Rail) :
    (s.modRail k f).pending = s.pending ∧ (s.modRail k f).out = s.out ∧ (s.modRail k f).clock = s.clock ∧
    (s.modRail k f).fresh = s.fresh ∧ (s.modRail k f).grade = s.grade ∧ (s.modRail k f).longLife = s.longLife ∧
    (s.modRail k f).stepping = s.stepping ∧ (s.modRail k f).board = s.board ∧ (s.modRail k f).flash = s.flash ∧
    (s.modRail k f).boot = s.boot ∧ (s.modRail k f).overlays = s.overlays ∧ (s.modRail k f).active = s.active ∧
    (s.modRail k f).ovlKept = s.ovlKept ∧ (s.modRail k f).fallback = s.fallback ∧
    (s.modRail k f).ovlBusy = s.ovlBusy ∧ (s.modRail k f).ovlRefuse = s.ovlRefuse ∧
    (s.modRail k f).memSplit = s.memSplit ∧ (s.modRail k f).stripeAll = s.stripeAll ∧
    (s.modRail k f).resMib = s.resMib ∧ (s.modRail k f).binMib = s.binMib ∧ (s.modRail k f).totalVf = s.totalVf ∧
    (s.modRail k f).vectors = s.vectors ∧ (s.modRail k f).expert = s.expert ∧ (s.modRail k f).planReq = s.planReq ∧
    (s.modRail k f).planEff = s.planEff ∧ (s.modRail k f).planFromOverlay = s.planFromOverlay ∧
    (s.modRail k f).relocking = s.relocking ∧ (s.modRail k f).quiesce = s.quiesce ∧
    (s.modRail k f).applyReq = s.applyReq ∧ (s.modRail k f).groupTab = s.groupTab ∧
    (s.modRail k f).routeTab = s.routeTab ∧ (s.modRail k f).exportTab = s.exportTab ∧
    (s.modRail k f).update = s.update ∧ (s.modRail k f).persistUse = s.persistUse ∧
    (s.modRail k f).persistSeq = s.persistSeq ∧ (s.modRail k f).persistBusy = s.persistBusy ∧
    (s.modRail k f).persistAgain = s.persistAgain ∧ (s.modRail k f).resetWanted = s.resetWanted ∧
    (s.modRail k f).resetCause = s.resetCause ∧ (s.modRail k f).resetDie = s.resetDie ∧
    (s.modRail k f).resetCount = s.resetCount ∧ (s.modRail k f).pairRead = s.pairRead ∧
    (s.modRail k f).pairWrite = s.pairWrite ∧ (s.modRail k f).cacheCap = s.cacheCap ∧
    (s.modRail k f).slotCap = s.slotCap ∧ (s.modRail k f).ctxs = s.ctxs ∧ (s.modRail k f).queues = s.queues ∧
    (s.modRail k f).descs = s.descs ∧ (s.modRail k f).allocs = s.allocs ∧ (s.modRail k f).sems = s.sems ∧
    (s.modRail k f).cmds = s.cmds ∧ (s.modRail k f).accounts = s.accounts ∧ (s.modRail k f).lastCtx = s.lastCtx ∧
    (s.modRail k f).tlb = s.tlb ∧ (s.modRail k f).mem = s.mem ∧ (s.modRail k f).dcache = s.dcache ∧
    (s.modRail k f).held = s.held ∧ (s.modRail k f).bells = s.bells ∧ (s.modRail k f).reads4 = s.reads4 ∧
    (s.modRail k f).hits = s.hits ∧ (s.modRail k f).tess = s.tess ∧ (s.modRail k f).halts = s.halts ∧
    (s.modRail k f).dies = s.dies ∧ (s.modRail k f).pipes = s.pipes ∧ (s.modRail k f).stackTab = s.stackTab ∧
    (s.modRail k f).pages = s.pages ∧ (s.modRail k f).lastOwner = s.lastOwner ∧ (s.modRail k f).ledger = s.ledger ∧
    (s.modRail k f).handles = s.handles ∧ (s.modRail k f).slots = s.slots ∧ (s.modRail k f).couriers = s.couriers ∧
    (s.modRail k f).ports = s.ports ∧ (s.modRail k f).groups = s.groups ∧ (s.modRail k f).peers = s.peers ∧
    (s.modRail k f).reqs = s.reqs ∧ (s.modRail k f).nextTag = s.nextTag ∧ (s.modRail k f).inbox = s.inbox ∧
    (s.modRail k f).frames = s.frames ∧ (s.modRail k f).funcs = s.funcs ∧ (s.modRail k f).hports = s.hports ∧
    (s.modRail k f).therm = s.therm ∧ (s.modRail k f).atherm = s.atherm ∧ (s.modRail k f).thermAlert = s.thermAlert ∧
    (s.modRail k f).dips = s.dips ∧ (s.modRail k f).asupply = s.asupply ∧ (s.modRail k f).packageW = s.packageW ∧
    (s.modRail k f).cdMaxW = s.cdMaxW ∧ (s.modRail k f).refreshOp = s.refreshOp ∧ (s.modRail k f).acts = s.acts ∧
    (s.modRail k f).patina = s.patina ∧ (s.modRail k f).vreq = s.vreq ∧ (s.modRail k f).lpCtl = s.lpCtl ∧
    (s.modRail k f).pkg = s.pkg ∧ (s.modRail k f).s2Count = s.s2Count ∧ (s.modRail k f).offDom = s.offDom ∧
    (s.modRail k f).evd = s.evd ∧ (s.modRail k f).evlog = s.evlog ∧ (s.modRail k f).evTotal = s.evTotal ∧
    (s.modRail k f).snapBusy = s.snapBusy ∧ (s.modRail k f).cross = s.cross ∧ (s.modRail k f).ecc = s.ecc ∧
    (s.modRail k f).i3cAddr = s.i3cAddr ∧ (s.modRail k f).eid = s.eid ∧
    (s.modRail k f).eventReceiver = s.eventReceiver ∧ (s.modRail k f).sensors = s.sensors ∧
    (s.modRail k f).jtagIr = s.jtagIr ∧ (s.modRail k f).stalled = s.stalled ∧ (s.modRail k f).ctx = s.ctx ∧
    (s.modRail k f).queue = s.queue ∧ (s.modRail k f).desc = s.desc ∧ (s.modRail k f).alloc = s.alloc ∧
    (s.modRail k f).sem = s.sem ∧ (s.modRail k f).account = s.account ∧ (s.modRail k f).tessera = s.tessera ∧
    (s.modRail k f).halt = s.halt ∧ (s.modRail k f).die = s.die ∧ (s.modRail k f).pipe = s.pipe ∧
    (s.modRail k f).stack = s.stack ∧ (s.modRail k f).entry = s.entry ∧ (s.modRail k f).handle = s.handle ∧
    (s.modRail k f).slot = s.slot ∧ (s.modRail k f).courier = s.courier ∧ (s.modRail k f).port = s.port ∧
    (s.modRail k f).group = s.group ∧ (s.modRail k f).peer = s.peer ∧ (s.modRail k f).func = s.func ∧
    (s.modRail k f).hport = s.hport ∧ (s.modRail k f).logicTherm = s.logicTherm ∧
    (s.modRail k f).arrayTherm = s.arrayTherm ∧ (s.modRail k f).ev = s.ev ∧ (s.modRail k f).crossing = s.crossing ∧
    (s.modRail k f).eccBlock = s.eccBlock ∧ (s.modRail k f).line = s.line ∧ (s.modRail k f).logSlot = s.logSlot ∧
    (s.modRail k f).owner = s.owner :=
  ⟨rfl, rfl, rfl, rfl, rfl, rfl, rfl, rfl, rfl, rfl, rfl, rfl, rfl, rfl, rfl, rfl, rfl, rfl, rfl, rfl, rfl, rfl, rfl,
   rfl, rfl, rfl, rfl, rfl, rfl, rfl, rfl, rfl, rfl, rfl, rfl, rfl, rfl, rfl, rfl, rfl, rfl, rfl, rfl, rfl, rfl, rfl,
   rfl, rfl, rfl, rfl, rfl, rfl, rfl, rfl, rfl, rfl, rfl, rfl, rfl, rfl, rfl, rfl, rfl, rfl, rfl, rfl, rfl, rfl, rfl,
   rfl, rfl, rfl, rfl, rfl, rfl, rfl, rfl, rfl, rfl, rfl, rfl, rfl, rfl, rfl, rfl, rfl, rfl, rfl, rfl, rfl, rfl, rfl,
   rfl, rfl, rfl, rfl, rfl, rfl, rfl, rfl, rfl, rfl, rfl, rfl, rfl, rfl, rfl, rfl, rfl, rfl, rfl, rfl, rfl, rfl, rfl,
   rfl, rfl, rfl, rfl, rfl, rfl, rfl, rfl, rfl, rfl, rfl, rfl, rfl, rfl, rfl, rfl, rfl, rfl, rfl, rfl⟩

/-- A change of one entry of `evd` keeps every other field. -/
@[simp] theorem State.modEv_keeps (s : State) (k : Nat) (f : EvDie → EvDie) :
    (s.modEv k f).pending = s.pending ∧ (s.modEv k f).out = s.out ∧ (s.modEv k f).clock = s.clock ∧
    (s.modEv k f).fresh = s.fresh ∧ (s.modEv k f).grade = s.grade ∧ (s.modEv k f).longLife = s.longLife ∧
    (s.modEv k f).stepping = s.stepping ∧ (s.modEv k f).board = s.board ∧ (s.modEv k f).flash = s.flash ∧
    (s.modEv k f).boot = s.boot ∧ (s.modEv k f).overlays = s.overlays ∧ (s.modEv k f).active = s.active ∧
    (s.modEv k f).ovlKept = s.ovlKept ∧ (s.modEv k f).fallback = s.fallback ∧ (s.modEv k f).ovlBusy = s.ovlBusy ∧
    (s.modEv k f).ovlRefuse = s.ovlRefuse ∧ (s.modEv k f).memSplit = s.memSplit ∧
    (s.modEv k f).stripeAll = s.stripeAll ∧ (s.modEv k f).resMib = s.resMib ∧ (s.modEv k f).binMib = s.binMib ∧
    (s.modEv k f).totalVf = s.totalVf ∧ (s.modEv k f).vectors = s.vectors ∧ (s.modEv k f).expert = s.expert ∧
    (s.modEv k f).planReq = s.planReq ∧ (s.modEv k f).planEff = s.planEff ∧
    (s.modEv k f).planFromOverlay = s.planFromOverlay ∧ (s.modEv k f).relocking = s.relocking ∧
    (s.modEv k f).quiesce = s.quiesce ∧ (s.modEv k f).applyReq = s.applyReq ∧ (s.modEv k f).groupTab = s.groupTab ∧
    (s.modEv k f).routeTab = s.routeTab ∧ (s.modEv k f).exportTab = s.exportTab ∧ (s.modEv k f).update = s.update ∧
    (s.modEv k f).persistUse = s.persistUse ∧ (s.modEv k f).persistSeq = s.persistSeq ∧
    (s.modEv k f).persistBusy = s.persistBusy ∧ (s.modEv k f).persistAgain = s.persistAgain ∧
    (s.modEv k f).resetWanted = s.resetWanted ∧ (s.modEv k f).resetCause = s.resetCause ∧
    (s.modEv k f).resetDie = s.resetDie ∧ (s.modEv k f).resetCount = s.resetCount ∧
    (s.modEv k f).pairRead = s.pairRead ∧ (s.modEv k f).pairWrite = s.pairWrite ∧
    (s.modEv k f).cacheCap = s.cacheCap ∧ (s.modEv k f).slotCap = s.slotCap ∧ (s.modEv k f).ctxs = s.ctxs ∧
    (s.modEv k f).queues = s.queues ∧ (s.modEv k f).descs = s.descs ∧ (s.modEv k f).allocs = s.allocs ∧
    (s.modEv k f).sems = s.sems ∧ (s.modEv k f).cmds = s.cmds ∧ (s.modEv k f).accounts = s.accounts ∧
    (s.modEv k f).lastCtx = s.lastCtx ∧ (s.modEv k f).tlb = s.tlb ∧ (s.modEv k f).mem = s.mem ∧
    (s.modEv k f).dcache = s.dcache ∧ (s.modEv k f).held = s.held ∧ (s.modEv k f).bells = s.bells ∧
    (s.modEv k f).reads4 = s.reads4 ∧ (s.modEv k f).hits = s.hits ∧ (s.modEv k f).tess = s.tess ∧
    (s.modEv k f).halts = s.halts ∧ (s.modEv k f).dies = s.dies ∧ (s.modEv k f).pipes = s.pipes ∧
    (s.modEv k f).stackTab = s.stackTab ∧ (s.modEv k f).pages = s.pages ∧ (s.modEv k f).lastOwner = s.lastOwner ∧
    (s.modEv k f).ledger = s.ledger ∧ (s.modEv k f).handles = s.handles ∧ (s.modEv k f).slots = s.slots ∧
    (s.modEv k f).couriers = s.couriers ∧ (s.modEv k f).ports = s.ports ∧ (s.modEv k f).groups = s.groups ∧
    (s.modEv k f).peers = s.peers ∧ (s.modEv k f).reqs = s.reqs ∧ (s.modEv k f).nextTag = s.nextTag ∧
    (s.modEv k f).inbox = s.inbox ∧ (s.modEv k f).frames = s.frames ∧ (s.modEv k f).funcs = s.funcs ∧
    (s.modEv k f).hports = s.hports ∧ (s.modEv k f).therm = s.therm ∧ (s.modEv k f).atherm = s.atherm ∧
    (s.modEv k f).thermAlert = s.thermAlert ∧ (s.modEv k f).rails = s.rails ∧ (s.modEv k f).dips = s.dips ∧
    (s.modEv k f).asupply = s.asupply ∧ (s.modEv k f).packageW = s.packageW ∧ (s.modEv k f).cdMaxW = s.cdMaxW ∧
    (s.modEv k f).refreshOp = s.refreshOp ∧ (s.modEv k f).acts = s.acts ∧ (s.modEv k f).patina = s.patina ∧
    (s.modEv k f).vreq = s.vreq ∧ (s.modEv k f).lpCtl = s.lpCtl ∧ (s.modEv k f).pkg = s.pkg ∧
    (s.modEv k f).s2Count = s.s2Count ∧ (s.modEv k f).offDom = s.offDom ∧ (s.modEv k f).evlog = s.evlog ∧
    (s.modEv k f).evTotal = s.evTotal ∧ (s.modEv k f).snapBusy = s.snapBusy ∧ (s.modEv k f).cross = s.cross ∧
    (s.modEv k f).ecc = s.ecc ∧ (s.modEv k f).i3cAddr = s.i3cAddr ∧ (s.modEv k f).eid = s.eid ∧
    (s.modEv k f).eventReceiver = s.eventReceiver ∧ (s.modEv k f).sensors = s.sensors ∧
    (s.modEv k f).jtagIr = s.jtagIr ∧ (s.modEv k f).stalled = s.stalled ∧ (s.modEv k f).ctx = s.ctx ∧
    (s.modEv k f).queue = s.queue ∧ (s.modEv k f).desc = s.desc ∧ (s.modEv k f).alloc = s.alloc ∧
    (s.modEv k f).sem = s.sem ∧ (s.modEv k f).account = s.account ∧ (s.modEv k f).tessera = s.tessera ∧
    (s.modEv k f).halt = s.halt ∧ (s.modEv k f).die = s.die ∧ (s.modEv k f).pipe = s.pipe ∧
    (s.modEv k f).stack = s.stack ∧ (s.modEv k f).entry = s.entry ∧ (s.modEv k f).handle = s.handle ∧
    (s.modEv k f).slot = s.slot ∧ (s.modEv k f).courier = s.courier ∧ (s.modEv k f).port = s.port ∧
    (s.modEv k f).group = s.group ∧ (s.modEv k f).peer = s.peer ∧ (s.modEv k f).func = s.func ∧
    (s.modEv k f).hport = s.hport ∧ (s.modEv k f).logicTherm = s.logicTherm ∧
    (s.modEv k f).arrayTherm = s.arrayTherm ∧ (s.modEv k f).rail = s.rail ∧ (s.modEv k f).crossing = s.crossing ∧
    (s.modEv k f).eccBlock = s.eccBlock ∧ (s.modEv k f).line = s.line ∧ (s.modEv k f).logSlot = s.logSlot ∧
    (s.modEv k f).owner = s.owner :=
  ⟨rfl, rfl, rfl, rfl, rfl, rfl, rfl, rfl, rfl, rfl, rfl, rfl, rfl, rfl, rfl, rfl, rfl, rfl, rfl, rfl, rfl, rfl, rfl,
   rfl, rfl, rfl, rfl, rfl, rfl, rfl, rfl, rfl, rfl, rfl, rfl, rfl, rfl, rfl, rfl, rfl, rfl, rfl, rfl, rfl, rfl, rfl,
   rfl, rfl, rfl, rfl, rfl, rfl, rfl, rfl, rfl, rfl, rfl, rfl, rfl, rfl, rfl, rfl, rfl, rfl, rfl, rfl, rfl, rfl, rfl,
   rfl, rfl, rfl, rfl, rfl, rfl, rfl, rfl, rfl, rfl, rfl, rfl, rfl, rfl, rfl, rfl, rfl, rfl, rfl, rfl, rfl, rfl, rfl,
   rfl, rfl, rfl, rfl, rfl, rfl, rfl, rfl, rfl, rfl, rfl, rfl, rfl, rfl, rfl, rfl, rfl, rfl, rfl, rfl, rfl, rfl, rfl,
   rfl, rfl, rfl, rfl, rfl, rfl, rfl, rfl, rfl, rfl, rfl, rfl, rfl, rfl, rfl, rfl, rfl, rfl, rfl, rfl⟩

/-- A change of one entry of `cross` keeps every other field. -/
@[simp] theorem State.modCrossing_keeps (s : State) (k : Nat) (f : Cross → Cross) :
    (s.modCrossing k f).pending = s.pending ∧ (s.modCrossing k f).out = s.out ∧ (s.modCrossing k f).clock = s.clock ∧
    (s.modCrossing k f).fresh = s.fresh ∧ (s.modCrossing k f).grade = s.grade ∧
    (s.modCrossing k f).longLife = s.longLife ∧ (s.modCrossing k f).stepping = s.stepping ∧
    (s.modCrossing k f).board = s.board ∧ (s.modCrossing k f).flash = s.flash ∧ (s.modCrossing k f).boot = s.boot ∧
    (s.modCrossing k f).overlays = s.overlays ∧ (s.modCrossing k f).active = s.active ∧
    (s.modCrossing k f).ovlKept = s.ovlKept ∧ (s.modCrossing k f).fallback = s.fallback ∧
    (s.modCrossing k f).ovlBusy = s.ovlBusy ∧ (s.modCrossing k f).ovlRefuse = s.ovlRefuse ∧
    (s.modCrossing k f).memSplit = s.memSplit ∧ (s.modCrossing k f).stripeAll = s.stripeAll ∧
    (s.modCrossing k f).resMib = s.resMib ∧ (s.modCrossing k f).binMib = s.binMib ∧
    (s.modCrossing k f).totalVf = s.totalVf ∧ (s.modCrossing k f).vectors = s.vectors ∧
    (s.modCrossing k f).expert = s.expert ∧ (s.modCrossing k f).planReq = s.planReq ∧
    (s.modCrossing k f).planEff = s.planEff ∧ (s.modCrossing k f).planFromOverlay = s.planFromOverlay ∧
    (s.modCrossing k f).relocking = s.relocking ∧ (s.modCrossing k f).quiesce = s.quiesce ∧
    (s.modCrossing k f).applyReq = s.applyReq ∧ (s.modCrossing k f).groupTab = s.groupTab ∧
    (s.modCrossing k f).routeTab = s.routeTab ∧ (s.modCrossing k f).exportTab = s.exportTab ∧
    (s.modCrossing k f).update = s.update ∧ (s.modCrossing k f).persistUse = s.persistUse ∧
    (s.modCrossing k f).persistSeq = s.persistSeq ∧ (s.modCrossing k f).persistBusy = s.persistBusy ∧
    (s.modCrossing k f).persistAgain = s.persistAgain ∧ (s.modCrossing k f).resetWanted = s.resetWanted ∧
    (s.modCrossing k f).resetCause = s.resetCause ∧ (s.modCrossing k f).resetDie = s.resetDie ∧
    (s.modCrossing k f).resetCount = s.resetCount ∧ (s.modCrossing k f).pairRead = s.pairRead ∧
    (s.modCrossing k f).pairWrite = s.pairWrite ∧ (s.modCrossing k f).cacheCap = s.cacheCap ∧
    (s.modCrossing k f).slotCap = s.slotCap ∧ (s.modCrossing k f).ctxs = s.ctxs ∧
    (s.modCrossing k f).queues = s.queues ∧ (s.modCrossing k f).descs = s.descs ∧
    (s.modCrossing k f).allocs = s.allocs ∧ (s.modCrossing k f).sems = s.sems ∧ (s.modCrossing k f).cmds = s.cmds ∧
    (s.modCrossing k f).accounts = s.accounts ∧ (s.modCrossing k f).lastCtx = s.lastCtx ∧
    (s.modCrossing k f).tlb = s.tlb ∧ (s.modCrossing k f).mem = s.mem ∧ (s.modCrossing k f).dcache = s.dcache ∧
    (s.modCrossing k f).held = s.held ∧ (s.modCrossing k f).bells = s.bells ∧ (s.modCrossing k f).reads4 = s.reads4 ∧
    (s.modCrossing k f).hits = s.hits ∧ (s.modCrossing k f).tess = s.tess ∧ (s.modCrossing k f).halts = s.halts ∧
    (s.modCrossing k f).dies = s.dies ∧ (s.modCrossing k f).pipes = s.pipes ∧
    (s.modCrossing k f).stackTab = s.stackTab ∧ (s.modCrossing k f).pages = s.pages ∧
    (s.modCrossing k f).lastOwner = s.lastOwner ∧ (s.modCrossing k f).ledger = s.ledger ∧
    (s.modCrossing k f).handles = s.handles ∧ (s.modCrossing k f).slots = s.slots ∧
    (s.modCrossing k f).couriers = s.couriers ∧ (s.modCrossing k f).ports = s.ports ∧
    (s.modCrossing k f).groups = s.groups ∧ (s.modCrossing k f).peers = s.peers ∧ (s.modCrossing k f).reqs = s.reqs ∧
    (s.modCrossing k f).nextTag = s.nextTag ∧ (s.modCrossing k f).inbox = s.inbox ∧
    (s.modCrossing k f).frames = s.frames ∧ (s.modCrossing k f).funcs = s.funcs ∧
    (s.modCrossing k f).hports = s.hports ∧ (s.modCrossing k f).therm = s.therm ∧
    (s.modCrossing k f).atherm = s.atherm ∧ (s.modCrossing k f).thermAlert = s.thermAlert ∧
    (s.modCrossing k f).rails = s.rails ∧ (s.modCrossing k f).dips = s.dips ∧
    (s.modCrossing k f).asupply = s.asupply ∧ (s.modCrossing k f).packageW = s.packageW ∧
    (s.modCrossing k f).cdMaxW = s.cdMaxW ∧ (s.modCrossing k f).refreshOp = s.refreshOp ∧
    (s.modCrossing k f).acts = s.acts ∧ (s.modCrossing k f).patina = s.patina ∧ (s.modCrossing k f).vreq = s.vreq ∧
    (s.modCrossing k f).lpCtl = s.lpCtl ∧ (s.modCrossing k f).pkg = s.pkg ∧ (s.modCrossing k f).s2Count = s.s2Count ∧
    (s.modCrossing k f).offDom = s.offDom ∧ (s.modCrossing k f).evd = s.evd ∧ (s.modCrossing k f).evlog = s.evlog ∧
    (s.modCrossing k f).evTotal = s.evTotal ∧ (s.modCrossing k f).snapBusy = s.snapBusy ∧
    (s.modCrossing k f).ecc = s.ecc ∧ (s.modCrossing k f).i3cAddr = s.i3cAddr ∧ (s.modCrossing k f).eid = s.eid ∧
    (s.modCrossing k f).eventReceiver = s.eventReceiver ∧ (s.modCrossing k f).sensors = s.sensors ∧
    (s.modCrossing k f).jtagIr = s.jtagIr ∧ (s.modCrossing k f).stalled = s.stalled ∧
    (s.modCrossing k f).ctx = s.ctx ∧ (s.modCrossing k f).queue = s.queue ∧ (s.modCrossing k f).desc = s.desc ∧
    (s.modCrossing k f).alloc = s.alloc ∧ (s.modCrossing k f).sem = s.sem ∧ (s.modCrossing k f).account = s.account ∧
    (s.modCrossing k f).tessera = s.tessera ∧ (s.modCrossing k f).halt = s.halt ∧ (s.modCrossing k f).die = s.die ∧
    (s.modCrossing k f).pipe = s.pipe ∧ (s.modCrossing k f).stack = s.stack ∧ (s.modCrossing k f).entry = s.entry ∧
    (s.modCrossing k f).handle = s.handle ∧ (s.modCrossing k f).slot = s.slot ∧
    (s.modCrossing k f).courier = s.courier ∧ (s.modCrossing k f).port = s.port ∧
    (s.modCrossing k f).group = s.group ∧ (s.modCrossing k f).peer = s.peer ∧ (s.modCrossing k f).func = s.func ∧
    (s.modCrossing k f).hport = s.hport ∧ (s.modCrossing k f).logicTherm = s.logicTherm ∧
    (s.modCrossing k f).arrayTherm = s.arrayTherm ∧ (s.modCrossing k f).rail = s.rail ∧
    (s.modCrossing k f).ev = s.ev ∧ (s.modCrossing k f).eccBlock = s.eccBlock ∧ (s.modCrossing k f).line = s.line ∧
    (s.modCrossing k f).logSlot = s.logSlot ∧ (s.modCrossing k f).owner = s.owner :=
  ⟨rfl, rfl, rfl, rfl, rfl, rfl, rfl, rfl, rfl, rfl, rfl, rfl, rfl, rfl, rfl, rfl, rfl, rfl, rfl, rfl, rfl, rfl, rfl,
   rfl, rfl, rfl, rfl, rfl, rfl, rfl, rfl, rfl, rfl, rfl, rfl, rfl, rfl, rfl, rfl, rfl, rfl, rfl, rfl, rfl, rfl, rfl,
   rfl, rfl, rfl, rfl, rfl, rfl, rfl, rfl, rfl, rfl, rfl, rfl, rfl, rfl, rfl, rfl, rfl, rfl, rfl, rfl, rfl, rfl, rfl,
   rfl, rfl, rfl, rfl, rfl, rfl, rfl, rfl, rfl, rfl, rfl, rfl, rfl, rfl, rfl, rfl, rfl, rfl, rfl, rfl, rfl, rfl, rfl,
   rfl, rfl, rfl, rfl, rfl, rfl, rfl, rfl, rfl, rfl, rfl, rfl, rfl, rfl, rfl, rfl, rfl, rfl, rfl, rfl, rfl, rfl, rfl,
   rfl, rfl, rfl, rfl, rfl, rfl, rfl, rfl, rfl, rfl, rfl, rfl, rfl, rfl, rfl, rfl, rfl, rfl, rfl, rfl⟩

/-- A change of one entry of `ecc` keeps every other field. -/
@[simp] theorem State.modEccBlock_keeps (s : State) (k : Nat) (f : Ecc → Ecc) :
    (s.modEccBlock k f).pending = s.pending ∧ (s.modEccBlock k f).out = s.out ∧ (s.modEccBlock k f).clock = s.clock ∧
    (s.modEccBlock k f).fresh = s.fresh ∧ (s.modEccBlock k f).grade = s.grade ∧
    (s.modEccBlock k f).longLife = s.longLife ∧ (s.modEccBlock k f).stepping = s.stepping ∧
    (s.modEccBlock k f).board = s.board ∧ (s.modEccBlock k f).flash = s.flash ∧ (s.modEccBlock k f).boot = s.boot ∧
    (s.modEccBlock k f).overlays = s.overlays ∧ (s.modEccBlock k f).active = s.active ∧
    (s.modEccBlock k f).ovlKept = s.ovlKept ∧ (s.modEccBlock k f).fallback = s.fallback ∧
    (s.modEccBlock k f).ovlBusy = s.ovlBusy ∧ (s.modEccBlock k f).ovlRefuse = s.ovlRefuse ∧
    (s.modEccBlock k f).memSplit = s.memSplit ∧ (s.modEccBlock k f).stripeAll = s.stripeAll ∧
    (s.modEccBlock k f).resMib = s.resMib ∧ (s.modEccBlock k f).binMib = s.binMib ∧
    (s.modEccBlock k f).totalVf = s.totalVf ∧ (s.modEccBlock k f).vectors = s.vectors ∧
    (s.modEccBlock k f).expert = s.expert ∧ (s.modEccBlock k f).planReq = s.planReq ∧
    (s.modEccBlock k f).planEff = s.planEff ∧ (s.modEccBlock k f).planFromOverlay = s.planFromOverlay ∧
    (s.modEccBlock k f).relocking = s.relocking ∧ (s.modEccBlock k f).quiesce = s.quiesce ∧
    (s.modEccBlock k f).applyReq = s.applyReq ∧ (s.modEccBlock k f).groupTab = s.groupTab ∧
    (s.modEccBlock k f).routeTab = s.routeTab ∧ (s.modEccBlock k f).exportTab = s.exportTab ∧
    (s.modEccBlock k f).update = s.update ∧ (s.modEccBlock k f).persistUse = s.persistUse ∧
    (s.modEccBlock k f).persistSeq = s.persistSeq ∧ (s.modEccBlock k f).persistBusy = s.persistBusy ∧
    (s.modEccBlock k f).persistAgain = s.persistAgain ∧ (s.modEccBlock k f).resetWanted = s.resetWanted ∧
    (s.modEccBlock k f).resetCause = s.resetCause ∧ (s.modEccBlock k f).resetDie = s.resetDie ∧
    (s.modEccBlock k f).resetCount = s.resetCount ∧ (s.modEccBlock k f).pairRead = s.pairRead ∧
    (s.modEccBlock k f).pairWrite = s.pairWrite ∧ (s.modEccBlock k f).cacheCap = s.cacheCap ∧
    (s.modEccBlock k f).slotCap = s.slotCap ∧ (s.modEccBlock k f).ctxs = s.ctxs ∧
    (s.modEccBlock k f).queues = s.queues ∧ (s.modEccBlock k f).descs = s.descs ∧
    (s.modEccBlock k f).allocs = s.allocs ∧ (s.modEccBlock k f).sems = s.sems ∧ (s.modEccBlock k f).cmds = s.cmds ∧
    (s.modEccBlock k f).accounts = s.accounts ∧ (s.modEccBlock k f).lastCtx = s.lastCtx ∧
    (s.modEccBlock k f).tlb = s.tlb ∧ (s.modEccBlock k f).mem = s.mem ∧ (s.modEccBlock k f).dcache = s.dcache ∧
    (s.modEccBlock k f).held = s.held ∧ (s.modEccBlock k f).bells = s.bells ∧ (s.modEccBlock k f).reads4 = s.reads4 ∧
    (s.modEccBlock k f).hits = s.hits ∧ (s.modEccBlock k f).tess = s.tess ∧ (s.modEccBlock k f).halts = s.halts ∧
    (s.modEccBlock k f).dies = s.dies ∧ (s.modEccBlock k f).pipes = s.pipes ∧
    (s.modEccBlock k f).stackTab = s.stackTab ∧ (s.modEccBlock k f).pages = s.pages ∧
    (s.modEccBlock k f).lastOwner = s.lastOwner ∧ (s.modEccBlock k f).ledger = s.ledger ∧
    (s.modEccBlock k f).handles = s.handles ∧ (s.modEccBlock k f).slots = s.slots ∧
    (s.modEccBlock k f).couriers = s.couriers ∧ (s.modEccBlock k f).ports = s.ports ∧
    (s.modEccBlock k f).groups = s.groups ∧ (s.modEccBlock k f).peers = s.peers ∧ (s.modEccBlock k f).reqs = s.reqs ∧
    (s.modEccBlock k f).nextTag = s.nextTag ∧ (s.modEccBlock k f).inbox = s.inbox ∧
    (s.modEccBlock k f).frames = s.frames ∧ (s.modEccBlock k f).funcs = s.funcs ∧
    (s.modEccBlock k f).hports = s.hports ∧ (s.modEccBlock k f).therm = s.therm ∧
    (s.modEccBlock k f).atherm = s.atherm ∧ (s.modEccBlock k f).thermAlert = s.thermAlert ∧
    (s.modEccBlock k f).rails = s.rails ∧ (s.modEccBlock k f).dips = s.dips ∧
    (s.modEccBlock k f).asupply = s.asupply ∧ (s.modEccBlock k f).packageW = s.packageW ∧
    (s.modEccBlock k f).cdMaxW = s.cdMaxW ∧ (s.modEccBlock k f).refreshOp = s.refreshOp ∧
    (s.modEccBlock k f).acts = s.acts ∧ (s.modEccBlock k f).patina = s.patina ∧ (s.modEccBlock k f).vreq = s.vreq ∧
    (s.modEccBlock k f).lpCtl = s.lpCtl ∧ (s.modEccBlock k f).pkg = s.pkg ∧ (s.modEccBlock k f).s2Count = s.s2Count ∧
    (s.modEccBlock k f).offDom = s.offDom ∧ (s.modEccBlock k f).evd = s.evd ∧ (s.modEccBlock k f).evlog = s.evlog ∧
    (s.modEccBlock k f).evTotal = s.evTotal ∧ (s.modEccBlock k f).snapBusy = s.snapBusy ∧
    (s.modEccBlock k f).cross = s.cross ∧ (s.modEccBlock k f).i3cAddr = s.i3cAddr ∧ (s.modEccBlock k f).eid = s.eid ∧
    (s.modEccBlock k f).eventReceiver = s.eventReceiver ∧ (s.modEccBlock k f).sensors = s.sensors ∧
    (s.modEccBlock k f).jtagIr = s.jtagIr ∧ (s.modEccBlock k f).stalled = s.stalled ∧
    (s.modEccBlock k f).ctx = s.ctx ∧ (s.modEccBlock k f).queue = s.queue ∧ (s.modEccBlock k f).desc = s.desc ∧
    (s.modEccBlock k f).alloc = s.alloc ∧ (s.modEccBlock k f).sem = s.sem ∧ (s.modEccBlock k f).account = s.account ∧
    (s.modEccBlock k f).tessera = s.tessera ∧ (s.modEccBlock k f).halt = s.halt ∧ (s.modEccBlock k f).die = s.die ∧
    (s.modEccBlock k f).pipe = s.pipe ∧ (s.modEccBlock k f).stack = s.stack ∧ (s.modEccBlock k f).entry = s.entry ∧
    (s.modEccBlock k f).handle = s.handle ∧ (s.modEccBlock k f).slot = s.slot ∧
    (s.modEccBlock k f).courier = s.courier ∧ (s.modEccBlock k f).port = s.port ∧
    (s.modEccBlock k f).group = s.group ∧ (s.modEccBlock k f).peer = s.peer ∧ (s.modEccBlock k f).func = s.func ∧
    (s.modEccBlock k f).hport = s.hport ∧ (s.modEccBlock k f).logicTherm = s.logicTherm ∧
    (s.modEccBlock k f).arrayTherm = s.arrayTherm ∧ (s.modEccBlock k f).rail = s.rail ∧
    (s.modEccBlock k f).ev = s.ev ∧ (s.modEccBlock k f).crossing = s.crossing ∧ (s.modEccBlock k f).line = s.line ∧
    (s.modEccBlock k f).logSlot = s.logSlot ∧ (s.modEccBlock k f).owner = s.owner :=
  ⟨rfl, rfl, rfl, rfl, rfl, rfl, rfl, rfl, rfl, rfl, rfl, rfl, rfl, rfl, rfl, rfl, rfl, rfl, rfl, rfl, rfl, rfl, rfl,
   rfl, rfl, rfl, rfl, rfl, rfl, rfl, rfl, rfl, rfl, rfl, rfl, rfl, rfl, rfl, rfl, rfl, rfl, rfl, rfl, rfl, rfl, rfl,
   rfl, rfl, rfl, rfl, rfl, rfl, rfl, rfl, rfl, rfl, rfl, rfl, rfl, rfl, rfl, rfl, rfl, rfl, rfl, rfl, rfl, rfl, rfl,
   rfl, rfl, rfl, rfl, rfl, rfl, rfl, rfl, rfl, rfl, rfl, rfl, rfl, rfl, rfl, rfl, rfl, rfl, rfl, rfl, rfl, rfl, rfl,
   rfl, rfl, rfl, rfl, rfl, rfl, rfl, rfl, rfl, rfl, rfl, rfl, rfl, rfl, rfl, rfl, rfl, rfl, rfl, rfl, rfl, rfl, rfl,
   rfl, rfl, rfl, rfl, rfl, rfl, rfl, rfl, rfl, rfl, rfl, rfl, rfl, rfl, rfl, rfl, rfl, rfl, rfl, rfl⟩

/-- A change of one entry of `dcache` keeps every other field. -/
@[simp] theorem State.modLine_keeps (s : State) (k : Nat) (f : Option (List Byte) → Option (List Byte)) :
    (s.modLine k f).pending = s.pending ∧ (s.modLine k f).out = s.out ∧ (s.modLine k f).clock = s.clock ∧
    (s.modLine k f).fresh = s.fresh ∧ (s.modLine k f).grade = s.grade ∧ (s.modLine k f).longLife = s.longLife ∧
    (s.modLine k f).stepping = s.stepping ∧ (s.modLine k f).board = s.board ∧ (s.modLine k f).flash = s.flash ∧
    (s.modLine k f).boot = s.boot ∧ (s.modLine k f).overlays = s.overlays ∧ (s.modLine k f).active = s.active ∧
    (s.modLine k f).ovlKept = s.ovlKept ∧ (s.modLine k f).fallback = s.fallback ∧
    (s.modLine k f).ovlBusy = s.ovlBusy ∧ (s.modLine k f).ovlRefuse = s.ovlRefuse ∧
    (s.modLine k f).memSplit = s.memSplit ∧ (s.modLine k f).stripeAll = s.stripeAll ∧
    (s.modLine k f).resMib = s.resMib ∧ (s.modLine k f).binMib = s.binMib ∧ (s.modLine k f).totalVf = s.totalVf ∧
    (s.modLine k f).vectors = s.vectors ∧ (s.modLine k f).expert = s.expert ∧ (s.modLine k f).planReq = s.planReq ∧
    (s.modLine k f).planEff = s.planEff ∧ (s.modLine k f).planFromOverlay = s.planFromOverlay ∧
    (s.modLine k f).relocking = s.relocking ∧ (s.modLine k f).quiesce = s.quiesce ∧
    (s.modLine k f).applyReq = s.applyReq ∧ (s.modLine k f).groupTab = s.groupTab ∧
    (s.modLine k f).routeTab = s.routeTab ∧ (s.modLine k f).exportTab = s.exportTab ∧
    (s.modLine k f).update = s.update ∧ (s.modLine k f).persistUse = s.persistUse ∧
    (s.modLine k f).persistSeq = s.persistSeq ∧ (s.modLine k f).persistBusy = s.persistBusy ∧
    (s.modLine k f).persistAgain = s.persistAgain ∧ (s.modLine k f).resetWanted = s.resetWanted ∧
    (s.modLine k f).resetCause = s.resetCause ∧ (s.modLine k f).resetDie = s.resetDie ∧
    (s.modLine k f).resetCount = s.resetCount ∧ (s.modLine k f).pairRead = s.pairRead ∧
    (s.modLine k f).pairWrite = s.pairWrite ∧ (s.modLine k f).cacheCap = s.cacheCap ∧
    (s.modLine k f).slotCap = s.slotCap ∧ (s.modLine k f).ctxs = s.ctxs ∧ (s.modLine k f).queues = s.queues ∧
    (s.modLine k f).descs = s.descs ∧ (s.modLine k f).allocs = s.allocs ∧ (s.modLine k f).sems = s.sems ∧
    (s.modLine k f).cmds = s.cmds ∧ (s.modLine k f).accounts = s.accounts ∧ (s.modLine k f).lastCtx = s.lastCtx ∧
    (s.modLine k f).tlb = s.tlb ∧ (s.modLine k f).mem = s.mem ∧ (s.modLine k f).held = s.held ∧
    (s.modLine k f).bells = s.bells ∧ (s.modLine k f).reads4 = s.reads4 ∧ (s.modLine k f).hits = s.hits ∧
    (s.modLine k f).tess = s.tess ∧ (s.modLine k f).halts = s.halts ∧ (s.modLine k f).dies = s.dies ∧
    (s.modLine k f).pipes = s.pipes ∧ (s.modLine k f).stackTab = s.stackTab ∧ (s.modLine k f).pages = s.pages ∧
    (s.modLine k f).lastOwner = s.lastOwner ∧ (s.modLine k f).ledger = s.ledger ∧
    (s.modLine k f).handles = s.handles ∧ (s.modLine k f).slots = s.slots ∧ (s.modLine k f).couriers = s.couriers ∧
    (s.modLine k f).ports = s.ports ∧ (s.modLine k f).groups = s.groups ∧ (s.modLine k f).peers = s.peers ∧
    (s.modLine k f).reqs = s.reqs ∧ (s.modLine k f).nextTag = s.nextTag ∧ (s.modLine k f).inbox = s.inbox ∧
    (s.modLine k f).frames = s.frames ∧ (s.modLine k f).funcs = s.funcs ∧ (s.modLine k f).hports = s.hports ∧
    (s.modLine k f).therm = s.therm ∧ (s.modLine k f).atherm = s.atherm ∧ (s.modLine k f).thermAlert = s.thermAlert ∧
    (s.modLine k f).rails = s.rails ∧ (s.modLine k f).dips = s.dips ∧ (s.modLine k f).asupply = s.asupply ∧
    (s.modLine k f).packageW = s.packageW ∧ (s.modLine k f).cdMaxW = s.cdMaxW ∧
    (s.modLine k f).refreshOp = s.refreshOp ∧ (s.modLine k f).acts = s.acts ∧ (s.modLine k f).patina = s.patina ∧
    (s.modLine k f).vreq = s.vreq ∧ (s.modLine k f).lpCtl = s.lpCtl ∧ (s.modLine k f).pkg = s.pkg ∧
    (s.modLine k f).s2Count = s.s2Count ∧ (s.modLine k f).offDom = s.offDom ∧ (s.modLine k f).evd = s.evd ∧
    (s.modLine k f).evlog = s.evlog ∧ (s.modLine k f).evTotal = s.evTotal ∧ (s.modLine k f).snapBusy = s.snapBusy ∧
    (s.modLine k f).cross = s.cross ∧ (s.modLine k f).ecc = s.ecc ∧ (s.modLine k f).i3cAddr = s.i3cAddr ∧
    (s.modLine k f).eid = s.eid ∧ (s.modLine k f).eventReceiver = s.eventReceiver ∧
    (s.modLine k f).sensors = s.sensors ∧ (s.modLine k f).jtagIr = s.jtagIr ∧ (s.modLine k f).stalled = s.stalled ∧
    (s.modLine k f).ctx = s.ctx ∧ (s.modLine k f).queue = s.queue ∧ (s.modLine k f).desc = s.desc ∧
    (s.modLine k f).alloc = s.alloc ∧ (s.modLine k f).sem = s.sem ∧ (s.modLine k f).account = s.account ∧
    (s.modLine k f).tessera = s.tessera ∧ (s.modLine k f).halt = s.halt ∧ (s.modLine k f).die = s.die ∧
    (s.modLine k f).pipe = s.pipe ∧ (s.modLine k f).stack = s.stack ∧ (s.modLine k f).entry = s.entry ∧
    (s.modLine k f).handle = s.handle ∧ (s.modLine k f).slot = s.slot ∧ (s.modLine k f).courier = s.courier ∧
    (s.modLine k f).port = s.port ∧ (s.modLine k f).group = s.group ∧ (s.modLine k f).peer = s.peer ∧
    (s.modLine k f).func = s.func ∧ (s.modLine k f).hport = s.hport ∧ (s.modLine k f).logicTherm = s.logicTherm ∧
    (s.modLine k f).arrayTherm = s.arrayTherm ∧ (s.modLine k f).rail = s.rail ∧ (s.modLine k f).ev = s.ev ∧
    (s.modLine k f).crossing = s.crossing ∧ (s.modLine k f).eccBlock = s.eccBlock ∧
    (s.modLine k f).logSlot = s.logSlot ∧ (s.modLine k f).owner = s.owner :=
  ⟨rfl, rfl, rfl, rfl, rfl, rfl, rfl, rfl, rfl, rfl, rfl, rfl, rfl, rfl, rfl, rfl, rfl, rfl, rfl, rfl, rfl, rfl, rfl,
   rfl, rfl, rfl, rfl, rfl, rfl, rfl, rfl, rfl, rfl, rfl, rfl, rfl, rfl, rfl, rfl, rfl, rfl, rfl, rfl, rfl, rfl, rfl,
   rfl, rfl, rfl, rfl, rfl, rfl, rfl, rfl, rfl, rfl, rfl, rfl, rfl, rfl, rfl, rfl, rfl, rfl, rfl, rfl, rfl, rfl, rfl,
   rfl, rfl, rfl, rfl, rfl, rfl, rfl, rfl, rfl, rfl, rfl, rfl, rfl, rfl, rfl, rfl, rfl, rfl, rfl, rfl, rfl, rfl, rfl,
   rfl, rfl, rfl, rfl, rfl, rfl, rfl, rfl, rfl, rfl, rfl, rfl, rfl, rfl, rfl, rfl, rfl, rfl, rfl, rfl, rfl, rfl, rfl,
   rfl, rfl, rfl, rfl, rfl, rfl, rfl, rfl, rfl, rfl, rfl, rfl, rfl, rfl, rfl, rfl, rfl, rfl, rfl, rfl⟩

/-- A change of one entry of `evlog` keeps every other field. -/
@[simp] theorem State.modLogSlot_keeps (s : State) (k : Nat) (f : Option EvRec → Option EvRec) :
    (s.modLogSlot k f).pending = s.pending ∧ (s.modLogSlot k f).out = s.out ∧ (s.modLogSlot k f).clock = s.clock ∧
    (s.modLogSlot k f).fresh = s.fresh ∧ (s.modLogSlot k f).grade = s.grade ∧
    (s.modLogSlot k f).longLife = s.longLife ∧ (s.modLogSlot k f).stepping = s.stepping ∧
    (s.modLogSlot k f).board = s.board ∧ (s.modLogSlot k f).flash = s.flash ∧ (s.modLogSlot k f).boot = s.boot ∧
    (s.modLogSlot k f).overlays = s.overlays ∧ (s.modLogSlot k f).active = s.active ∧
    (s.modLogSlot k f).ovlKept = s.ovlKept ∧ (s.modLogSlot k f).fallback = s.fallback ∧
    (s.modLogSlot k f).ovlBusy = s.ovlBusy ∧ (s.modLogSlot k f).ovlRefuse = s.ovlRefuse ∧
    (s.modLogSlot k f).memSplit = s.memSplit ∧ (s.modLogSlot k f).stripeAll = s.stripeAll ∧
    (s.modLogSlot k f).resMib = s.resMib ∧ (s.modLogSlot k f).binMib = s.binMib ∧
    (s.modLogSlot k f).totalVf = s.totalVf ∧ (s.modLogSlot k f).vectors = s.vectors ∧
    (s.modLogSlot k f).expert = s.expert ∧ (s.modLogSlot k f).planReq = s.planReq ∧
    (s.modLogSlot k f).planEff = s.planEff ∧ (s.modLogSlot k f).planFromOverlay = s.planFromOverlay ∧
    (s.modLogSlot k f).relocking = s.relocking ∧ (s.modLogSlot k f).quiesce = s.quiesce ∧
    (s.modLogSlot k f).applyReq = s.applyReq ∧ (s.modLogSlot k f).groupTab = s.groupTab ∧
    (s.modLogSlot k f).routeTab = s.routeTab ∧ (s.modLogSlot k f).exportTab = s.exportTab ∧
    (s.modLogSlot k f).update = s.update ∧ (s.modLogSlot k f).persistUse = s.persistUse ∧
    (s.modLogSlot k f).persistSeq = s.persistSeq ∧ (s.modLogSlot k f).persistBusy = s.persistBusy ∧
    (s.modLogSlot k f).persistAgain = s.persistAgain ∧ (s.modLogSlot k f).resetWanted = s.resetWanted ∧
    (s.modLogSlot k f).resetCause = s.resetCause ∧ (s.modLogSlot k f).resetDie = s.resetDie ∧
    (s.modLogSlot k f).resetCount = s.resetCount ∧ (s.modLogSlot k f).pairRead = s.pairRead ∧
    (s.modLogSlot k f).pairWrite = s.pairWrite ∧ (s.modLogSlot k f).cacheCap = s.cacheCap ∧
    (s.modLogSlot k f).slotCap = s.slotCap ∧ (s.modLogSlot k f).ctxs = s.ctxs ∧
    (s.modLogSlot k f).queues = s.queues ∧ (s.modLogSlot k f).descs = s.descs ∧
    (s.modLogSlot k f).allocs = s.allocs ∧ (s.modLogSlot k f).sems = s.sems ∧ (s.modLogSlot k f).cmds = s.cmds ∧
    (s.modLogSlot k f).accounts = s.accounts ∧ (s.modLogSlot k f).lastCtx = s.lastCtx ∧
    (s.modLogSlot k f).tlb = s.tlb ∧ (s.modLogSlot k f).mem = s.mem ∧ (s.modLogSlot k f).dcache = s.dcache ∧
    (s.modLogSlot k f).held = s.held ∧ (s.modLogSlot k f).bells = s.bells ∧ (s.modLogSlot k f).reads4 = s.reads4 ∧
    (s.modLogSlot k f).hits = s.hits ∧ (s.modLogSlot k f).tess = s.tess ∧ (s.modLogSlot k f).halts = s.halts ∧
    (s.modLogSlot k f).dies = s.dies ∧ (s.modLogSlot k f).pipes = s.pipes ∧
    (s.modLogSlot k f).stackTab = s.stackTab ∧ (s.modLogSlot k f).pages = s.pages ∧
    (s.modLogSlot k f).lastOwner = s.lastOwner ∧ (s.modLogSlot k f).ledger = s.ledger ∧
    (s.modLogSlot k f).handles = s.handles ∧ (s.modLogSlot k f).slots = s.slots ∧
    (s.modLogSlot k f).couriers = s.couriers ∧ (s.modLogSlot k f).ports = s.ports ∧
    (s.modLogSlot k f).groups = s.groups ∧ (s.modLogSlot k f).peers = s.peers ∧ (s.modLogSlot k f).reqs = s.reqs ∧
    (s.modLogSlot k f).nextTag = s.nextTag ∧ (s.modLogSlot k f).inbox = s.inbox ∧
    (s.modLogSlot k f).frames = s.frames ∧ (s.modLogSlot k f).funcs = s.funcs ∧
    (s.modLogSlot k f).hports = s.hports ∧ (s.modLogSlot k f).therm = s.therm ∧
    (s.modLogSlot k f).atherm = s.atherm ∧ (s.modLogSlot k f).thermAlert = s.thermAlert ∧
    (s.modLogSlot k f).rails = s.rails ∧ (s.modLogSlot k f).dips = s.dips ∧ (s.modLogSlot k f).asupply = s.asupply ∧
    (s.modLogSlot k f).packageW = s.packageW ∧ (s.modLogSlot k f).cdMaxW = s.cdMaxW ∧
    (s.modLogSlot k f).refreshOp = s.refreshOp ∧ (s.modLogSlot k f).acts = s.acts ∧
    (s.modLogSlot k f).patina = s.patina ∧ (s.modLogSlot k f).vreq = s.vreq ∧ (s.modLogSlot k f).lpCtl = s.lpCtl ∧
    (s.modLogSlot k f).pkg = s.pkg ∧ (s.modLogSlot k f).s2Count = s.s2Count ∧ (s.modLogSlot k f).offDom = s.offDom ∧
    (s.modLogSlot k f).evd = s.evd ∧ (s.modLogSlot k f).evTotal = s.evTotal ∧
    (s.modLogSlot k f).snapBusy = s.snapBusy ∧ (s.modLogSlot k f).cross = s.cross ∧ (s.modLogSlot k f).ecc = s.ecc ∧
    (s.modLogSlot k f).i3cAddr = s.i3cAddr ∧ (s.modLogSlot k f).eid = s.eid ∧
    (s.modLogSlot k f).eventReceiver = s.eventReceiver ∧ (s.modLogSlot k f).sensors = s.sensors ∧
    (s.modLogSlot k f).jtagIr = s.jtagIr ∧ (s.modLogSlot k f).stalled = s.stalled ∧ (s.modLogSlot k f).ctx = s.ctx ∧
    (s.modLogSlot k f).queue = s.queue ∧ (s.modLogSlot k f).desc = s.desc ∧ (s.modLogSlot k f).alloc = s.alloc ∧
    (s.modLogSlot k f).sem = s.sem ∧ (s.modLogSlot k f).account = s.account ∧
    (s.modLogSlot k f).tessera = s.tessera ∧ (s.modLogSlot k f).halt = s.halt ∧ (s.modLogSlot k f).die = s.die ∧
    (s.modLogSlot k f).pipe = s.pipe ∧ (s.modLogSlot k f).stack = s.stack ∧ (s.modLogSlot k f).entry = s.entry ∧
    (s.modLogSlot k f).handle = s.handle ∧ (s.modLogSlot k f).slot = s.slot ∧
    (s.modLogSlot k f).courier = s.courier ∧ (s.modLogSlot k f).port = s.port ∧ (s.modLogSlot k f).group = s.group ∧
    (s.modLogSlot k f).peer = s.peer ∧ (s.modLogSlot k f).func = s.func ∧ (s.modLogSlot k f).hport = s.hport ∧
    (s.modLogSlot k f).logicTherm = s.logicTherm ∧ (s.modLogSlot k f).arrayTherm = s.arrayTherm ∧
    (s.modLogSlot k f).rail = s.rail ∧ (s.modLogSlot k f).ev = s.ev ∧ (s.modLogSlot k f).crossing = s.crossing ∧
    (s.modLogSlot k f).eccBlock = s.eccBlock ∧ (s.modLogSlot k f).line = s.line ∧ (s.modLogSlot k f).owner = s.owner :=
  ⟨rfl, rfl, rfl, rfl, rfl, rfl, rfl, rfl, rfl, rfl, rfl, rfl, rfl, rfl, rfl, rfl, rfl, rfl, rfl, rfl, rfl, rfl, rfl,
   rfl, rfl, rfl, rfl, rfl, rfl, rfl, rfl, rfl, rfl, rfl, rfl, rfl, rfl, rfl, rfl, rfl, rfl, rfl, rfl, rfl, rfl, rfl,
   rfl, rfl, rfl, rfl, rfl, rfl, rfl, rfl, rfl, rfl, rfl, rfl, rfl, rfl, rfl, rfl, rfl, rfl, rfl, rfl, rfl, rfl, rfl,
   rfl, rfl, rfl, rfl, rfl, rfl, rfl, rfl, rfl, rfl, rfl, rfl, rfl, rfl, rfl, rfl, rfl, rfl, rfl, rfl, rfl, rfl, rfl,
   rfl, rfl, rfl, rfl, rfl, rfl, rfl, rfl, rfl, rfl, rfl, rfl, rfl, rfl, rfl, rfl, rfl, rfl, rfl, rfl, rfl, rfl, rfl,
   rfl, rfl, rfl, rfl, rfl, rfl, rfl, rfl, rfl, rfl, rfl, rfl, rfl, rfl, rfl, rfl, rfl, rfl, rfl, rfl⟩

/-- A change of one entry of `lastOwner` keeps every other field. -/
@[simp] theorem State.modOwner_keeps (s : State) (k : Nat) (f : Option Nat → Option Nat) :
    (s.modOwner k f).pending = s.pending ∧ (s.modOwner k f).out = s.out ∧ (s.modOwner k f).clock = s.clock ∧
    (s.modOwner k f).fresh = s.fresh ∧ (s.modOwner k f).grade = s.grade ∧ (s.modOwner k f).longLife = s.longLife ∧
    (s.modOwner k f).stepping = s.stepping ∧ (s.modOwner k f).board = s.board ∧ (s.modOwner k f).flash = s.flash ∧
    (s.modOwner k f).boot = s.boot ∧ (s.modOwner k f).overlays = s.overlays ∧ (s.modOwner k f).active = s.active ∧
    (s.modOwner k f).ovlKept = s.ovlKept ∧ (s.modOwner k f).fallback = s.fallback ∧
    (s.modOwner k f).ovlBusy = s.ovlBusy ∧ (s.modOwner k f).ovlRefuse = s.ovlRefuse ∧
    (s.modOwner k f).memSplit = s.memSplit ∧ (s.modOwner k f).stripeAll = s.stripeAll ∧
    (s.modOwner k f).resMib = s.resMib ∧ (s.modOwner k f).binMib = s.binMib ∧ (s.modOwner k f).totalVf = s.totalVf ∧
    (s.modOwner k f).vectors = s.vectors ∧ (s.modOwner k f).expert = s.expert ∧
    (s.modOwner k f).planReq = s.planReq ∧ (s.modOwner k f).planEff = s.planEff ∧
    (s.modOwner k f).planFromOverlay = s.planFromOverlay ∧ (s.modOwner k f).relocking = s.relocking ∧
    (s.modOwner k f).quiesce = s.quiesce ∧ (s.modOwner k f).applyReq = s.applyReq ∧
    (s.modOwner k f).groupTab = s.groupTab ∧ (s.modOwner k f).routeTab = s.routeTab ∧
    (s.modOwner k f).exportTab = s.exportTab ∧ (s.modOwner k f).update = s.update ∧
    (s.modOwner k f).persistUse = s.persistUse ∧ (s.modOwner k f).persistSeq = s.persistSeq ∧
    (s.modOwner k f).persistBusy = s.persistBusy ∧ (s.modOwner k f).persistAgain = s.persistAgain ∧
    (s.modOwner k f).resetWanted = s.resetWanted ∧ (s.modOwner k f).resetCause = s.resetCause ∧
    (s.modOwner k f).resetDie = s.resetDie ∧ (s.modOwner k f).resetCount = s.resetCount ∧
    (s.modOwner k f).pairRead = s.pairRead ∧ (s.modOwner k f).pairWrite = s.pairWrite ∧
    (s.modOwner k f).cacheCap = s.cacheCap ∧ (s.modOwner k f).slotCap = s.slotCap ∧ (s.modOwner k f).ctxs = s.ctxs ∧
    (s.modOwner k f).queues = s.queues ∧ (s.modOwner k f).descs = s.descs ∧ (s.modOwner k f).allocs = s.allocs ∧
    (s.modOwner k f).sems = s.sems ∧ (s.modOwner k f).cmds = s.cmds ∧ (s.modOwner k f).accounts = s.accounts ∧
    (s.modOwner k f).lastCtx = s.lastCtx ∧ (s.modOwner k f).tlb = s.tlb ∧ (s.modOwner k f).mem = s.mem ∧
    (s.modOwner k f).dcache = s.dcache ∧ (s.modOwner k f).held = s.held ∧ (s.modOwner k f).bells = s.bells ∧
    (s.modOwner k f).reads4 = s.reads4 ∧ (s.modOwner k f).hits = s.hits ∧ (s.modOwner k f).tess = s.tess ∧
    (s.modOwner k f).halts = s.halts ∧ (s.modOwner k f).dies = s.dies ∧ (s.modOwner k f).pipes = s.pipes ∧
    (s.modOwner k f).stackTab = s.stackTab ∧ (s.modOwner k f).pages = s.pages ∧ (s.modOwner k f).ledger = s.ledger ∧
    (s.modOwner k f).handles = s.handles ∧ (s.modOwner k f).slots = s.slots ∧
    (s.modOwner k f).couriers = s.couriers ∧ (s.modOwner k f).ports = s.ports ∧ (s.modOwner k f).groups = s.groups ∧
    (s.modOwner k f).peers = s.peers ∧ (s.modOwner k f).reqs = s.reqs ∧ (s.modOwner k f).nextTag = s.nextTag ∧
    (s.modOwner k f).inbox = s.inbox ∧ (s.modOwner k f).frames = s.frames ∧ (s.modOwner k f).funcs = s.funcs ∧
    (s.modOwner k f).hports = s.hports ∧ (s.modOwner k f).therm = s.therm ∧ (s.modOwner k f).atherm = s.atherm ∧
    (s.modOwner k f).thermAlert = s.thermAlert ∧ (s.modOwner k f).rails = s.rails ∧ (s.modOwner k f).dips = s.dips ∧
    (s.modOwner k f).asupply = s.asupply ∧ (s.modOwner k f).packageW = s.packageW ∧
    (s.modOwner k f).cdMaxW = s.cdMaxW ∧ (s.modOwner k f).refreshOp = s.refreshOp ∧ (s.modOwner k f).acts = s.acts ∧
    (s.modOwner k f).patina = s.patina ∧ (s.modOwner k f).vreq = s.vreq ∧ (s.modOwner k f).lpCtl = s.lpCtl ∧
    (s.modOwner k f).pkg = s.pkg ∧ (s.modOwner k f).s2Count = s.s2Count ∧ (s.modOwner k f).offDom = s.offDom ∧
    (s.modOwner k f).evd = s.evd ∧ (s.modOwner k f).evlog = s.evlog ∧ (s.modOwner k f).evTotal = s.evTotal ∧
    (s.modOwner k f).snapBusy = s.snapBusy ∧ (s.modOwner k f).cross = s.cross ∧ (s.modOwner k f).ecc = s.ecc ∧
    (s.modOwner k f).i3cAddr = s.i3cAddr ∧ (s.modOwner k f).eid = s.eid ∧
    (s.modOwner k f).eventReceiver = s.eventReceiver ∧ (s.modOwner k f).sensors = s.sensors ∧
    (s.modOwner k f).jtagIr = s.jtagIr ∧ (s.modOwner k f).stalled = s.stalled ∧ (s.modOwner k f).ctx = s.ctx ∧
    (s.modOwner k f).queue = s.queue ∧ (s.modOwner k f).desc = s.desc ∧ (s.modOwner k f).alloc = s.alloc ∧
    (s.modOwner k f).sem = s.sem ∧ (s.modOwner k f).account = s.account ∧ (s.modOwner k f).tessera = s.tessera ∧
    (s.modOwner k f).halt = s.halt ∧ (s.modOwner k f).die = s.die ∧ (s.modOwner k f).pipe = s.pipe ∧
    (s.modOwner k f).stack = s.stack ∧ (s.modOwner k f).entry = s.entry ∧ (s.modOwner k f).handle = s.handle ∧
    (s.modOwner k f).slot = s.slot ∧ (s.modOwner k f).courier = s.courier ∧ (s.modOwner k f).port = s.port ∧
    (s.modOwner k f).group = s.group ∧ (s.modOwner k f).peer = s.peer ∧ (s.modOwner k f).func = s.func ∧
    (s.modOwner k f).hport = s.hport ∧ (s.modOwner k f).logicTherm = s.logicTherm ∧
    (s.modOwner k f).arrayTherm = s.arrayTherm ∧ (s.modOwner k f).rail = s.rail ∧ (s.modOwner k f).ev = s.ev ∧
    (s.modOwner k f).crossing = s.crossing ∧ (s.modOwner k f).eccBlock = s.eccBlock ∧
    (s.modOwner k f).line = s.line ∧ (s.modOwner k f).logSlot = s.logSlot :=
  ⟨rfl, rfl, rfl, rfl, rfl, rfl, rfl, rfl, rfl, rfl, rfl, rfl, rfl, rfl, rfl, rfl, rfl, rfl, rfl, rfl, rfl, rfl, rfl,
   rfl, rfl, rfl, rfl, rfl, rfl, rfl, rfl, rfl, rfl, rfl, rfl, rfl, rfl, rfl, rfl, rfl, rfl, rfl, rfl, rfl, rfl, rfl,
   rfl, rfl, rfl, rfl, rfl, rfl, rfl, rfl, rfl, rfl, rfl, rfl, rfl, rfl, rfl, rfl, rfl, rfl, rfl, rfl, rfl, rfl, rfl,
   rfl, rfl, rfl, rfl, rfl, rfl, rfl, rfl, rfl, rfl, rfl, rfl, rfl, rfl, rfl, rfl, rfl, rfl, rfl, rfl, rfl, rfl, rfl,
   rfl, rfl, rfl, rfl, rfl, rfl, rfl, rfl, rfl, rfl, rfl, rfl, rfl, rfl, rfl, rfl, rfl, rfl, rfl, rfl, rfl, rfl, rfl,
   rfl, rfl, rfl, rfl, rfl, rfl, rfl, rfl, rfl, rfl, rfl, rfl, rfl, rfl, rfl, rfl, rfl, rfl, rfl, rfl⟩

/-- Sending something outward keeps every other field. -/
@[simp] theorem State.emit_keeps (s : State) (o : Out) :
    (s.emit o).pending = s.pending ∧ (s.emit o).clock = s.clock ∧ (s.emit o).fresh = s.fresh ∧
    (s.emit o).grade = s.grade ∧ (s.emit o).longLife = s.longLife ∧ (s.emit o).stepping = s.stepping ∧
    (s.emit o).board = s.board ∧ (s.emit o).flash = s.flash ∧ (s.emit o).boot = s.boot ∧
    (s.emit o).overlays = s.overlays ∧ (s.emit o).active = s.active ∧ (s.emit o).ovlKept = s.ovlKept ∧
    (s.emit o).fallback = s.fallback ∧ (s.emit o).ovlBusy = s.ovlBusy ∧ (s.emit o).ovlRefuse = s.ovlRefuse ∧
    (s.emit o).memSplit = s.memSplit ∧ (s.emit o).stripeAll = s.stripeAll ∧ (s.emit o).resMib = s.resMib ∧
    (s.emit o).binMib = s.binMib ∧ (s.emit o).totalVf = s.totalVf ∧ (s.emit o).vectors = s.vectors ∧
    (s.emit o).expert = s.expert ∧ (s.emit o).planReq = s.planReq ∧ (s.emit o).planEff = s.planEff ∧
    (s.emit o).planFromOverlay = s.planFromOverlay ∧ (s.emit o).relocking = s.relocking ∧
    (s.emit o).quiesce = s.quiesce ∧ (s.emit o).applyReq = s.applyReq ∧ (s.emit o).groupTab = s.groupTab ∧
    (s.emit o).routeTab = s.routeTab ∧ (s.emit o).exportTab = s.exportTab ∧ (s.emit o).update = s.update ∧
    (s.emit o).persistUse = s.persistUse ∧ (s.emit o).persistSeq = s.persistSeq ∧
    (s.emit o).persistBusy = s.persistBusy ∧ (s.emit o).persistAgain = s.persistAgain ∧
    (s.emit o).resetWanted = s.resetWanted ∧ (s.emit o).resetCause = s.resetCause ∧
    (s.emit o).resetDie = s.resetDie ∧ (s.emit o).resetCount = s.resetCount ∧ (s.emit o).pairRead = s.pairRead ∧
    (s.emit o).pairWrite = s.pairWrite ∧ (s.emit o).cacheCap = s.cacheCap ∧ (s.emit o).slotCap = s.slotCap ∧
    (s.emit o).ctxs = s.ctxs ∧ (s.emit o).queues = s.queues ∧ (s.emit o).descs = s.descs ∧
    (s.emit o).allocs = s.allocs ∧ (s.emit o).sems = s.sems ∧ (s.emit o).cmds = s.cmds ∧
    (s.emit o).accounts = s.accounts ∧ (s.emit o).lastCtx = s.lastCtx ∧ (s.emit o).tlb = s.tlb ∧
    (s.emit o).mem = s.mem ∧ (s.emit o).dcache = s.dcache ∧ (s.emit o).held = s.held ∧ (s.emit o).bells = s.bells ∧
    (s.emit o).reads4 = s.reads4 ∧ (s.emit o).hits = s.hits ∧ (s.emit o).tess = s.tess ∧ (s.emit o).halts = s.halts ∧
    (s.emit o).dies = s.dies ∧ (s.emit o).pipes = s.pipes ∧ (s.emit o).stackTab = s.stackTab ∧
    (s.emit o).pages = s.pages ∧ (s.emit o).lastOwner = s.lastOwner ∧ (s.emit o).ledger = s.ledger ∧
    (s.emit o).handles = s.handles ∧ (s.emit o).slots = s.slots ∧ (s.emit o).couriers = s.couriers ∧
    (s.emit o).ports = s.ports ∧ (s.emit o).groups = s.groups ∧ (s.emit o).peers = s.peers ∧
    (s.emit o).reqs = s.reqs ∧ (s.emit o).nextTag = s.nextTag ∧ (s.emit o).inbox = s.inbox ∧
    (s.emit o).frames = s.frames ∧ (s.emit o).funcs = s.funcs ∧ (s.emit o).hports = s.hports ∧
    (s.emit o).therm = s.therm ∧ (s.emit o).atherm = s.atherm ∧ (s.emit o).thermAlert = s.thermAlert ∧
    (s.emit o).rails = s.rails ∧ (s.emit o).dips = s.dips ∧ (s.emit o).asupply = s.asupply ∧
    (s.emit o).packageW = s.packageW ∧ (s.emit o).cdMaxW = s.cdMaxW ∧ (s.emit o).refreshOp = s.refreshOp ∧
    (s.emit o).acts = s.acts ∧ (s.emit o).patina = s.patina ∧ (s.emit o).vreq = s.vreq ∧ (s.emit o).lpCtl = s.lpCtl ∧
    (s.emit o).pkg = s.pkg ∧ (s.emit o).s2Count = s.s2Count ∧ (s.emit o).offDom = s.offDom ∧ (s.emit o).evd = s.evd ∧
    (s.emit o).evlog = s.evlog ∧ (s.emit o).evTotal = s.evTotal ∧ (s.emit o).snapBusy = s.snapBusy ∧
    (s.emit o).cross = s.cross ∧ (s.emit o).ecc = s.ecc ∧ (s.emit o).i3cAddr = s.i3cAddr ∧ (s.emit o).eid = s.eid ∧
    (s.emit o).eventReceiver = s.eventReceiver ∧ (s.emit o).sensors = s.sensors ∧ (s.emit o).jtagIr = s.jtagIr ∧
    (s.emit o).stalled = s.stalled ∧ (s.emit o).ctx = s.ctx ∧ (s.emit o).queue = s.queue ∧ (s.emit o).desc = s.desc ∧
    (s.emit o).alloc = s.alloc ∧ (s.emit o).sem = s.sem ∧ (s.emit o).account = s.account ∧
    (s.emit o).tessera = s.tessera ∧ (s.emit o).halt = s.halt ∧ (s.emit o).die = s.die ∧ (s.emit o).pipe = s.pipe ∧
    (s.emit o).stack = s.stack ∧ (s.emit o).entry = s.entry ∧ (s.emit o).handle = s.handle ∧
    (s.emit o).slot = s.slot ∧ (s.emit o).courier = s.courier ∧ (s.emit o).port = s.port ∧
    (s.emit o).group = s.group ∧ (s.emit o).peer = s.peer ∧ (s.emit o).func = s.func ∧ (s.emit o).hport = s.hport ∧
    (s.emit o).logicTherm = s.logicTherm ∧ (s.emit o).arrayTherm = s.arrayTherm ∧ (s.emit o).rail = s.rail ∧
    (s.emit o).ev = s.ev ∧ (s.emit o).crossing = s.crossing ∧ (s.emit o).eccBlock = s.eccBlock ∧
    (s.emit o).line = s.line ∧ (s.emit o).logSlot = s.logSlot ∧ (s.emit o).owner = s.owner :=
  ⟨rfl, rfl, rfl, rfl, rfl, rfl, rfl, rfl, rfl, rfl, rfl, rfl, rfl, rfl, rfl, rfl, rfl, rfl, rfl, rfl, rfl, rfl, rfl,
   rfl, rfl, rfl, rfl, rfl, rfl, rfl, rfl, rfl, rfl, rfl, rfl, rfl, rfl, rfl, rfl, rfl, rfl, rfl, rfl, rfl, rfl, rfl,
   rfl, rfl, rfl, rfl, rfl, rfl, rfl, rfl, rfl, rfl, rfl, rfl, rfl, rfl, rfl, rfl, rfl, rfl, rfl, rfl, rfl, rfl, rfl,
   rfl, rfl, rfl, rfl, rfl, rfl, rfl, rfl, rfl, rfl, rfl, rfl, rfl, rfl, rfl, rfl, rfl, rfl, rfl, rfl, rfl, rfl, rfl,
   rfl, rfl, rfl, rfl, rfl, rfl, rfl, rfl, rfl, rfl, rfl, rfl, rfl, rfl, rfl, rfl, rfl, rfl, rfl, rfl, rfl, rfl, rfl,
   rfl, rfl, rfl, rfl, rfl, rfl, rfl, rfl, rfl, rfl, rfl, rfl, rfl, rfl, rfl, rfl, rfl, rfl, rfl, rfl, rfl⟩

/-- Taking a fresh number keeps every other field. -/
@[simp] theorem State.bump_keeps (s : State)  :
    s.bump.pending = s.pending ∧ s.bump.out = s.out ∧ s.bump.clock = s.clock ∧ s.bump.grade = s.grade ∧
    s.bump.longLife = s.longLife ∧ s.bump.stepping = s.stepping ∧ s.bump.board = s.board ∧ s.bump.flash = s.flash ∧
    s.bump.boot = s.boot ∧ s.bump.overlays = s.overlays ∧ s.bump.active = s.active ∧ s.bump.ovlKept = s.ovlKept ∧
    s.bump.fallback = s.fallback ∧ s.bump.ovlBusy = s.ovlBusy ∧ s.bump.ovlRefuse = s.ovlRefuse ∧
    s.bump.memSplit = s.memSplit ∧ s.bump.stripeAll = s.stripeAll ∧ s.bump.resMib = s.resMib ∧
    s.bump.binMib = s.binMib ∧ s.bump.totalVf = s.totalVf ∧ s.bump.vectors = s.vectors ∧ s.bump.expert = s.expert ∧
    s.bump.planReq = s.planReq ∧ s.bump.planEff = s.planEff ∧ s.bump.planFromOverlay = s.planFromOverlay ∧
    s.bump.relocking = s.relocking ∧ s.bump.quiesce = s.quiesce ∧ s.bump.applyReq = s.applyReq ∧
    s.bump.groupTab = s.groupTab ∧ s.bump.routeTab = s.routeTab ∧ s.bump.exportTab = s.exportTab ∧
    s.bump.update = s.update ∧ s.bump.persistUse = s.persistUse ∧ s.bump.persistSeq = s.persistSeq ∧
    s.bump.persistBusy = s.persistBusy ∧ s.bump.persistAgain = s.persistAgain ∧ s.bump.resetWanted = s.resetWanted ∧
    s.bump.resetCause = s.resetCause ∧ s.bump.resetDie = s.resetDie ∧ s.bump.resetCount = s.resetCount ∧
    s.bump.pairRead = s.pairRead ∧ s.bump.pairWrite = s.pairWrite ∧ s.bump.cacheCap = s.cacheCap ∧
    s.bump.slotCap = s.slotCap ∧ s.bump.ctxs = s.ctxs ∧ s.bump.queues = s.queues ∧ s.bump.descs = s.descs ∧
    s.bump.allocs = s.allocs ∧ s.bump.sems = s.sems ∧ s.bump.cmds = s.cmds ∧ s.bump.accounts = s.accounts ∧
    s.bump.lastCtx = s.lastCtx ∧ s.bump.tlb = s.tlb ∧ s.bump.mem = s.mem ∧ s.bump.dcache = s.dcache ∧
    s.bump.held = s.held ∧ s.bump.bells = s.bells ∧ s.bump.reads4 = s.reads4 ∧ s.bump.hits = s.hits ∧
    s.bump.tess = s.tess ∧ s.bump.halts = s.halts ∧ s.bump.dies = s.dies ∧ s.bump.pipes = s.pipes ∧
    s.bump.stackTab = s.stackTab ∧ s.bump.pages = s.pages ∧ s.bump.lastOwner = s.lastOwner ∧
    s.bump.ledger = s.ledger ∧ s.bump.handles = s.handles ∧ s.bump.slots = s.slots ∧ s.bump.couriers = s.couriers ∧
    s.bump.ports = s.ports ∧ s.bump.groups = s.groups ∧ s.bump.peers = s.peers ∧ s.bump.reqs = s.reqs ∧
    s.bump.nextTag = s.nextTag ∧ s.bump.inbox = s.inbox ∧ s.bump.frames = s.frames ∧ s.bump.funcs = s.funcs ∧
    s.bump.hports = s.hports ∧ s.bump.therm = s.therm ∧ s.bump.atherm = s.atherm ∧ s.bump.thermAlert = s.thermAlert ∧
    s.bump.rails = s.rails ∧ s.bump.dips = s.dips ∧ s.bump.asupply = s.asupply ∧ s.bump.packageW = s.packageW ∧
    s.bump.cdMaxW = s.cdMaxW ∧ s.bump.refreshOp = s.refreshOp ∧ s.bump.acts = s.acts ∧ s.bump.patina = s.patina ∧
    s.bump.vreq = s.vreq ∧ s.bump.lpCtl = s.lpCtl ∧ s.bump.pkg = s.pkg ∧ s.bump.s2Count = s.s2Count ∧
    s.bump.offDom = s.offDom ∧ s.bump.evd = s.evd ∧ s.bump.evlog = s.evlog ∧ s.bump.evTotal = s.evTotal ∧
    s.bump.snapBusy = s.snapBusy ∧ s.bump.cross = s.cross ∧ s.bump.ecc = s.ecc ∧ s.bump.i3cAddr = s.i3cAddr ∧
    s.bump.eid = s.eid ∧ s.bump.eventReceiver = s.eventReceiver ∧ s.bump.sensors = s.sensors ∧
    s.bump.jtagIr = s.jtagIr ∧ s.bump.stalled = s.stalled ∧ s.bump.ctx = s.ctx ∧ s.bump.queue = s.queue ∧
    s.bump.desc = s.desc ∧ s.bump.alloc = s.alloc ∧ s.bump.sem = s.sem ∧ s.bump.account = s.account ∧
    s.bump.tessera = s.tessera ∧ s.bump.halt = s.halt ∧ s.bump.die = s.die ∧ s.bump.pipe = s.pipe ∧
    s.bump.stack = s.stack ∧ s.bump.entry = s.entry ∧ s.bump.handle = s.handle ∧ s.bump.slot = s.slot ∧
    s.bump.courier = s.courier ∧ s.bump.port = s.port ∧ s.bump.group = s.group ∧ s.bump.peer = s.peer ∧
    s.bump.func = s.func ∧ s.bump.hport = s.hport ∧ s.bump.logicTherm = s.logicTherm ∧
    s.bump.arrayTherm = s.arrayTherm ∧ s.bump.rail = s.rail ∧ s.bump.ev = s.ev ∧ s.bump.crossing = s.crossing ∧
    s.bump.eccBlock = s.eccBlock ∧ s.bump.line = s.line ∧ s.bump.logSlot = s.logSlot ∧ s.bump.owner = s.owner :=
  ⟨rfl, rfl, rfl, rfl, rfl, rfl, rfl, rfl, rfl, rfl, rfl, rfl, rfl, rfl, rfl, rfl, rfl, rfl, rfl, rfl, rfl, rfl, rfl,
   rfl, rfl, rfl, rfl, rfl, rfl, rfl, rfl, rfl, rfl, rfl, rfl, rfl, rfl, rfl, rfl, rfl, rfl, rfl, rfl, rfl, rfl, rfl,
   rfl, rfl, rfl, rfl, rfl, rfl, rfl, rfl, rfl, rfl, rfl, rfl, rfl, rfl, rfl, rfl, rfl, rfl, rfl, rfl, rfl, rfl, rfl,
   rfl, rfl, rfl, rfl, rfl, rfl, rfl, rfl, rfl, rfl, rfl, rfl, rfl, rfl, rfl, rfl, rfl, rfl, rfl, rfl, rfl, rfl, rfl,
   rfl, rfl, rfl, rfl, rfl, rfl, rfl, rfl, rfl, rfl, rfl, rfl, rfl, rfl, rfl, rfl, rfl, rfl, rfl, rfl, rfl, rfl, rfl,
   rfl, rfl, rfl, rfl, rfl, rfl, rfl, rfl, rfl, rfl, rfl, rfl, rfl, rfl, rfl, rfl, rfl, rfl, rfl, rfl, rfl⟩

/-- Recording an event keeps every field but the dies' event registers (R553). -/
@[simp] theorem State.event_keeps (s : State) (d c a b : Nat) :
    (s.event d c a b).pending = s.pending ∧ (s.event d c a b).out = s.out ∧ (s.event d c a b).clock = s.clock ∧
    (s.event d c a b).fresh = s.fresh ∧ (s.event d c a b).grade = s.grade ∧ (s.event d c a b).longLife = s.longLife ∧
    (s.event d c a b).stepping = s.stepping ∧ (s.event d c a b).board = s.board ∧ (s.event d c a b).flash = s.flash ∧
    (s.event d c a b).boot = s.boot ∧ (s.event d c a b).overlays = s.overlays ∧ (s.event d c a b).active = s.active ∧
    (s.event d c a b).ovlKept = s.ovlKept ∧ (s.event d c a b).fallback = s.fallback ∧
    (s.event d c a b).ovlBusy = s.ovlBusy ∧ (s.event d c a b).ovlRefuse = s.ovlRefuse ∧
    (s.event d c a b).memSplit = s.memSplit ∧ (s.event d c a b).stripeAll = s.stripeAll ∧
    (s.event d c a b).resMib = s.resMib ∧ (s.event d c a b).binMib = s.binMib ∧
    (s.event d c a b).totalVf = s.totalVf ∧ (s.event d c a b).vectors = s.vectors ∧
    (s.event d c a b).expert = s.expert ∧ (s.event d c a b).planReq = s.planReq ∧
    (s.event d c a b).planEff = s.planEff ∧ (s.event d c a b).planFromOverlay = s.planFromOverlay ∧
    (s.event d c a b).relocking = s.relocking ∧ (s.event d c a b).quiesce = s.quiesce ∧
    (s.event d c a b).applyReq = s.applyReq ∧ (s.event d c a b).groupTab = s.groupTab ∧
    (s.event d c a b).routeTab = s.routeTab ∧ (s.event d c a b).exportTab = s.exportTab ∧
    (s.event d c a b).update = s.update ∧ (s.event d c a b).persistUse = s.persistUse ∧
    (s.event d c a b).persistSeq = s.persistSeq ∧ (s.event d c a b).persistBusy = s.persistBusy ∧
    (s.event d c a b).persistAgain = s.persistAgain ∧ (s.event d c a b).resetWanted = s.resetWanted ∧
    (s.event d c a b).resetCause = s.resetCause ∧ (s.event d c a b).resetDie = s.resetDie ∧
    (s.event d c a b).resetCount = s.resetCount ∧ (s.event d c a b).pairRead = s.pairRead ∧
    (s.event d c a b).pairWrite = s.pairWrite ∧ (s.event d c a b).cacheCap = s.cacheCap ∧
    (s.event d c a b).slotCap = s.slotCap ∧ (s.event d c a b).ctxs = s.ctxs ∧ (s.event d c a b).queues = s.queues ∧
    (s.event d c a b).descs = s.descs ∧ (s.event d c a b).allocs = s.allocs ∧ (s.event d c a b).sems = s.sems ∧
    (s.event d c a b).cmds = s.cmds ∧ (s.event d c a b).accounts = s.accounts ∧
    (s.event d c a b).lastCtx = s.lastCtx ∧ (s.event d c a b).tlb = s.tlb ∧ (s.event d c a b).mem = s.mem ∧
    (s.event d c a b).dcache = s.dcache ∧ (s.event d c a b).held = s.held ∧ (s.event d c a b).bells = s.bells ∧
    (s.event d c a b).reads4 = s.reads4 ∧ (s.event d c a b).hits = s.hits ∧ (s.event d c a b).tess = s.tess ∧
    (s.event d c a b).halts = s.halts ∧ (s.event d c a b).dies = s.dies ∧ (s.event d c a b).pipes = s.pipes ∧
    (s.event d c a b).stackTab = s.stackTab ∧ (s.event d c a b).pages = s.pages ∧
    (s.event d c a b).lastOwner = s.lastOwner ∧ (s.event d c a b).ledger = s.ledger ∧
    (s.event d c a b).handles = s.handles ∧ (s.event d c a b).slots = s.slots ∧
    (s.event d c a b).couriers = s.couriers ∧ (s.event d c a b).ports = s.ports ∧
    (s.event d c a b).groups = s.groups ∧ (s.event d c a b).peers = s.peers ∧ (s.event d c a b).reqs = s.reqs ∧
    (s.event d c a b).nextTag = s.nextTag ∧ (s.event d c a b).inbox = s.inbox ∧ (s.event d c a b).frames = s.frames ∧
    (s.event d c a b).funcs = s.funcs ∧ (s.event d c a b).hports = s.hports ∧ (s.event d c a b).therm = s.therm ∧
    (s.event d c a b).atherm = s.atherm ∧ (s.event d c a b).thermAlert = s.thermAlert ∧
    (s.event d c a b).rails = s.rails ∧ (s.event d c a b).dips = s.dips ∧ (s.event d c a b).asupply = s.asupply ∧
    (s.event d c a b).packageW = s.packageW ∧ (s.event d c a b).cdMaxW = s.cdMaxW ∧
    (s.event d c a b).refreshOp = s.refreshOp ∧ (s.event d c a b).acts = s.acts ∧
    (s.event d c a b).patina = s.patina ∧ (s.event d c a b).vreq = s.vreq ∧ (s.event d c a b).lpCtl = s.lpCtl ∧
    (s.event d c a b).pkg = s.pkg ∧ (s.event d c a b).s2Count = s.s2Count ∧ (s.event d c a b).offDom = s.offDom ∧
    (s.event d c a b).evlog = s.evlog ∧ (s.event d c a b).evTotal = s.evTotal ∧
    (s.event d c a b).snapBusy = s.snapBusy ∧ (s.event d c a b).cross = s.cross ∧ (s.event d c a b).ecc = s.ecc ∧
    (s.event d c a b).i3cAddr = s.i3cAddr ∧ (s.event d c a b).eid = s.eid ∧
    (s.event d c a b).eventReceiver = s.eventReceiver ∧ (s.event d c a b).sensors = s.sensors ∧
    (s.event d c a b).jtagIr = s.jtagIr ∧ (s.event d c a b).stalled = s.stalled ∧ (s.event d c a b).ctx = s.ctx ∧
    (s.event d c a b).queue = s.queue ∧ (s.event d c a b).desc = s.desc ∧ (s.event d c a b).alloc = s.alloc ∧
    (s.event d c a b).sem = s.sem ∧ (s.event d c a b).account = s.account ∧ (s.event d c a b).tessera = s.tessera ∧
    (s.event d c a b).halt = s.halt ∧ (s.event d c a b).die = s.die ∧ (s.event d c a b).pipe = s.pipe ∧
    (s.event d c a b).stack = s.stack ∧ (s.event d c a b).entry = s.entry ∧ (s.event d c a b).handle = s.handle ∧
    (s.event d c a b).slot = s.slot ∧ (s.event d c a b).courier = s.courier ∧ (s.event d c a b).port = s.port ∧
    (s.event d c a b).group = s.group ∧ (s.event d c a b).peer = s.peer ∧ (s.event d c a b).func = s.func ∧
    (s.event d c a b).hport = s.hport ∧ (s.event d c a b).logicTherm = s.logicTherm ∧
    (s.event d c a b).arrayTherm = s.arrayTherm ∧ (s.event d c a b).rail = s.rail ∧
    (s.event d c a b).crossing = s.crossing ∧ (s.event d c a b).eccBlock = s.eccBlock ∧
    (s.event d c a b).line = s.line ∧ (s.event d c a b).logSlot = s.logSlot ∧ (s.event d c a b).owner = s.owner :=
  ⟨rfl, rfl, rfl, rfl, rfl, rfl, rfl, rfl, rfl, rfl, rfl, rfl, rfl, rfl, rfl, rfl, rfl, rfl, rfl, rfl, rfl, rfl, rfl,
   rfl, rfl, rfl, rfl, rfl, rfl, rfl, rfl, rfl, rfl, rfl, rfl, rfl, rfl, rfl, rfl, rfl, rfl, rfl, rfl, rfl, rfl, rfl,
   rfl, rfl, rfl, rfl, rfl, rfl, rfl, rfl, rfl, rfl, rfl, rfl, rfl, rfl, rfl, rfl, rfl, rfl, rfl, rfl, rfl, rfl, rfl,
   rfl, rfl, rfl, rfl, rfl, rfl, rfl, rfl, rfl, rfl, rfl, rfl, rfl, rfl, rfl, rfl, rfl, rfl, rfl, rfl, rfl, rfl, rfl,
   rfl, rfl, rfl, rfl, rfl, rfl, rfl, rfl, rfl, rfl, rfl, rfl, rfl, rfl, rfl, rfl, rfl, rfl, rfl, rfl, rfl, rfl, rfl,
   rfl, rfl, rfl, rfl, rfl, rfl, rfl, rfl, rfl, rfl, rfl, rfl, rfl, rfl, rfl, rfl, rfl, rfl, rfl, rfl⟩

/-- Bringing readiness up to date keeps every field but the commands. -/
@[simp] theorem State.refresh_keeps (s : State)  :
    s.refresh.pending = s.pending ∧ s.refresh.out = s.out ∧ s.refresh.clock = s.clock ∧ s.refresh.fresh = s.fresh ∧
    s.refresh.grade = s.grade ∧ s.refresh.longLife = s.longLife ∧ s.refresh.stepping = s.stepping ∧
    s.refresh.board = s.board ∧ s.refresh.flash = s.flash ∧ s.refresh.boot = s.boot ∧
    s.refresh.overlays = s.overlays ∧ s.refresh.active = s.active ∧ s.refresh.ovlKept = s.ovlKept ∧
    s.refresh.fallback = s.fallback ∧ s.refresh.ovlBusy = s.ovlBusy ∧ s.refresh.ovlRefuse = s.ovlRefuse ∧
    s.refresh.memSplit = s.memSplit ∧ s.refresh.stripeAll = s.stripeAll ∧ s.refresh.resMib = s.resMib ∧
    s.refresh.binMib = s.binMib ∧ s.refresh.totalVf = s.totalVf ∧ s.refresh.vectors = s.vectors ∧
    s.refresh.expert = s.expert ∧ s.refresh.planReq = s.planReq ∧ s.refresh.planEff = s.planEff ∧
    s.refresh.planFromOverlay = s.planFromOverlay ∧ s.refresh.relocking = s.relocking ∧
    s.refresh.quiesce = s.quiesce ∧ s.refresh.applyReq = s.applyReq ∧ s.refresh.groupTab = s.groupTab ∧
    s.refresh.routeTab = s.routeTab ∧ s.refresh.exportTab = s.exportTab ∧ s.refresh.update = s.update ∧
    s.refresh.persistUse = s.persistUse ∧ s.refresh.persistSeq = s.persistSeq ∧
    s.refresh.persistBusy = s.persistBusy ∧ s.refresh.persistAgain = s.persistAgain ∧
    s.refresh.resetWanted = s.resetWanted ∧ s.refresh.resetCause = s.resetCause ∧ s.refresh.resetDie = s.resetDie ∧
    s.refresh.resetCount = s.resetCount ∧ s.refresh.pairRead = s.pairRead ∧ s.refresh.pairWrite = s.pairWrite ∧
    s.refresh.cacheCap = s.cacheCap ∧ s.refresh.slotCap = s.slotCap ∧ s.refresh.ctxs = s.ctxs ∧
    s.refresh.queues = s.queues ∧ s.refresh.descs = s.descs ∧ s.refresh.allocs = s.allocs ∧ s.refresh.sems = s.sems ∧
    s.refresh.accounts = s.accounts ∧ s.refresh.lastCtx = s.lastCtx ∧ s.refresh.tlb = s.tlb ∧ s.refresh.mem = s.mem ∧
    s.refresh.dcache = s.dcache ∧ s.refresh.held = s.held ∧ s.refresh.bells = s.bells ∧ s.refresh.reads4 = s.reads4 ∧
    s.refresh.hits = s.hits ∧ s.refresh.tess = s.tess ∧ s.refresh.halts = s.halts ∧ s.refresh.dies = s.dies ∧
    s.refresh.pipes = s.pipes ∧ s.refresh.stackTab = s.stackTab ∧ s.refresh.pages = s.pages ∧
    s.refresh.lastOwner = s.lastOwner ∧ s.refresh.ledger = s.ledger ∧ s.refresh.handles = s.handles ∧
    s.refresh.slots = s.slots ∧ s.refresh.couriers = s.couriers ∧ s.refresh.ports = s.ports ∧
    s.refresh.groups = s.groups ∧ s.refresh.peers = s.peers ∧ s.refresh.reqs = s.reqs ∧
    s.refresh.nextTag = s.nextTag ∧ s.refresh.inbox = s.inbox ∧ s.refresh.frames = s.frames ∧
    s.refresh.funcs = s.funcs ∧ s.refresh.hports = s.hports ∧ s.refresh.therm = s.therm ∧
    s.refresh.atherm = s.atherm ∧ s.refresh.thermAlert = s.thermAlert ∧ s.refresh.rails = s.rails ∧
    s.refresh.dips = s.dips ∧ s.refresh.asupply = s.asupply ∧ s.refresh.packageW = s.packageW ∧
    s.refresh.cdMaxW = s.cdMaxW ∧ s.refresh.refreshOp = s.refreshOp ∧ s.refresh.acts = s.acts ∧
    s.refresh.patina = s.patina ∧ s.refresh.vreq = s.vreq ∧ s.refresh.lpCtl = s.lpCtl ∧ s.refresh.pkg = s.pkg ∧
    s.refresh.s2Count = s.s2Count ∧ s.refresh.offDom = s.offDom ∧ s.refresh.evd = s.evd ∧ s.refresh.evlog = s.evlog ∧
    s.refresh.evTotal = s.evTotal ∧ s.refresh.snapBusy = s.snapBusy ∧ s.refresh.cross = s.cross ∧
    s.refresh.ecc = s.ecc ∧ s.refresh.i3cAddr = s.i3cAddr ∧ s.refresh.eid = s.eid ∧
    s.refresh.eventReceiver = s.eventReceiver ∧ s.refresh.sensors = s.sensors ∧ s.refresh.jtagIr = s.jtagIr ∧
    s.refresh.stalled = s.stalled ∧ s.refresh.ctx = s.ctx ∧ s.refresh.queue = s.queue ∧ s.refresh.desc = s.desc ∧
    s.refresh.alloc = s.alloc ∧ s.refresh.sem = s.sem ∧ s.refresh.account = s.account ∧
    s.refresh.tessera = s.tessera ∧ s.refresh.halt = s.halt ∧ s.refresh.die = s.die ∧ s.refresh.pipe = s.pipe ∧
    s.refresh.stack = s.stack ∧ s.refresh.entry = s.entry ∧ s.refresh.handle = s.handle ∧ s.refresh.slot = s.slot ∧
    s.refresh.courier = s.courier ∧ s.refresh.port = s.port ∧ s.refresh.group = s.group ∧ s.refresh.peer = s.peer ∧
    s.refresh.func = s.func ∧ s.refresh.hport = s.hport ∧ s.refresh.logicTherm = s.logicTherm ∧
    s.refresh.arrayTherm = s.arrayTherm ∧ s.refresh.rail = s.rail ∧ s.refresh.ev = s.ev ∧
    s.refresh.crossing = s.crossing ∧ s.refresh.eccBlock = s.eccBlock ∧ s.refresh.line = s.line ∧
    s.refresh.logSlot = s.logSlot ∧ s.refresh.owner = s.owner :=
  ⟨rfl, rfl, rfl, rfl, rfl, rfl, rfl, rfl, rfl, rfl, rfl, rfl, rfl, rfl, rfl, rfl, rfl, rfl, rfl, rfl, rfl, rfl, rfl,
   rfl, rfl, rfl, rfl, rfl, rfl, rfl, rfl, rfl, rfl, rfl, rfl, rfl, rfl, rfl, rfl, rfl, rfl, rfl, rfl, rfl, rfl, rfl,
   rfl, rfl, rfl, rfl, rfl, rfl, rfl, rfl, rfl, rfl, rfl, rfl, rfl, rfl, rfl, rfl, rfl, rfl, rfl, rfl, rfl, rfl, rfl,
   rfl, rfl, rfl, rfl, rfl, rfl, rfl, rfl, rfl, rfl, rfl, rfl, rfl, rfl, rfl, rfl, rfl, rfl, rfl, rfl, rfl, rfl, rfl,
   rfl, rfl, rfl, rfl, rfl, rfl, rfl, rfl, rfl, rfl, rfl, rfl, rfl, rfl, rfl, rfl, rfl, rfl, rfl, rfl, rfl, rfl, rfl,
   rfl, rfl, rfl, rfl, rfl, rfl, rfl, rfl, rfl, rfl, rfl, rfl, rfl, rfl, rfl, rfl, rfl, rfl, rfl, rfl, rfl⟩

end Sys2Proof.Machine
end

