-- ==== Sys2Proof/Laws/Ops.lean ====
section
/-! SUPPORT. What the shared operations do, each said once: sparse maps, what ends a meaning, and memory. -/

namespace Sys2Proof.Machine

/- ---- sparse maps ---- -/

theorem Assoc.get_erase_self {α : Type} (d : α) (l : List (Nat × α)) (n : Nat) : Assoc.get d (Assoc.erase l n) n = d := by
  induction l with
  | nil => rfl
  | cons a r ih => simp only [Assoc.erase]; split <;> simp_all [Assoc.get]

theorem Assoc.get_erase_ne {α : Type} (d : α) (l : List (Nat × α)) {n m : Nat} (h : m ≠ n) :
    Assoc.get d (Assoc.erase l n) m = Assoc.get d l m := by
  induction l with
  | nil => rfl
  | cons a r ih =>
    simp only [Assoc.erase, Assoc.get]
    split
    · rw [ih, if_neg]; omega
    · simp only [Assoc.get, ih]

theorem Assoc.get_put_self {α : Type} (d : α) (l : List (Nat × α)) (n : Nat) (x : α) :
    Assoc.get d (Assoc.put (Assoc.erase l n) n x) n = x := by
  induction l with
  | nil => simp [Assoc.erase, Assoc.put, Assoc.get]
  | cons a r ih =>
    simp only [Assoc.erase]
    split
    · exact ih
    · next h => simp only [Assoc.put]; split <;> simp_all [Assoc.get]

theorem Assoc.get_put_ne {α : Type} (d : α) (l : List (Nat × α)) {n m : Nat} (x : α) (h : m ≠ n) :
    Assoc.get d (Assoc.put l n x) m = Assoc.get d l m := by
  induction l with
  | nil => simp [Assoc.put, Assoc.get]; omega
  | cons a r ih =>
    simp only [Assoc.put]
    split
    · simp only [Assoc.get]; rw [if_neg]; omega
    · simp only [Assoc.get, ih]

@[simp] theorem Assoc.get_set_self {α : Type} [DecidableEq α] (d : α) (l : List (Nat × α)) (n : Nat) (x : α) :
    Assoc.get d (Assoc.set d l n x) n = x := by
  unfold Assoc.set
  split
  · next h => rw [Assoc.get_erase_self, h]
  · exact Assoc.get_put_self d l n x

theorem Assoc.get_set_ne {α : Type} [DecidableEq α] (d : α) (l : List (Nat × α)) {n m : Nat} (x : α) (h : m ≠ n) :
    Assoc.get d (Assoc.set d l n x) m = Assoc.get d l m := by
  unfold Assoc.set
  split
  · exact Assoc.get_erase_ne d l h
  · rw [Assoc.get_put_ne d _ x h, Assoc.get_erase_ne d l h]

/-- Reading a sparse map after setting a key. -/
theorem Assoc.get_set {α : Type} [DecidableEq α] (d : α) (l : List (Nat × α)) (n m : Nat) (x : α) :
    Assoc.get d (Assoc.set d l n x) m = if m = n then x else Assoc.get d l m := by
  split
  · next h => rw [h, Assoc.get_set_self]
  · next h => exact Assoc.get_set_ne d l x h

theorem Assoc.get_filter {α : Type} (d : α) (l : List (Nat × α)) (p : Nat × α → Bool) (n : Nat)
    (h : ∀ e ∈ l, e.1 = n → p e = true) : Assoc.get d (l.filter p) n = Assoc.get d l n := by
  induction l with
  | nil => rfl
  | cons a r ih =>
    have ih' := ih fun e he => h e (List.mem_cons_of_mem _ he)
    by_cases hp : p a = true
    · simp only [List.filter_cons, hp, if_true, Assoc.get, ih']
    · have hn : a.1 ≠ n := fun e => hp (h a (List.mem_cons_self ..) e)
      simp only [List.filter_cons, hp, Assoc.get]
      rw [if_neg hn]; simpa using ih'

theorem Assoc.get_filter_none {α : Type} (d : α) (l : List (Nat × α)) (p : Nat × α → Bool) (n : Nat)
    (h : ∀ e ∈ l, e.1 = n → p e = false) : Assoc.get d (l.filter p) n = d := by
  induction l with
  | nil => rfl
  | cons a r ih =>
    have ih' := ih fun e he => h e (List.mem_cons_of_mem _ he)
    by_cases hp : p a = true
    · have hn : a.1 ≠ n := fun e => by simp [h a (List.mem_cons_self ..) e] at hp
      simp only [List.filter_cons, hp, if_true, Assoc.get, ih']
      rw [if_neg hn]
    · simp only [List.filter_cons, hp]; simpa using ih'

/- ---- reading an entry after a change of one ---- -/

theorem State.ctx_modCtx (s : State) (k n : Nat) (f : Ctx → Ctx) :
    (s.modCtx k f).ctx n = if n = k then f (s.ctx k) else s.ctx n := by
  simp only [State.ctx, State.modCtx, Assoc.get_set]
@[simp] theorem State.ctx_modCtx_self (s : State) (k : Nat) (f : Ctx → Ctx) : (s.modCtx k f).ctx k = f (s.ctx k) := by
  simp [State.ctx_modCtx]

theorem State.queue_modQueue (s : State) (k n : Nat) (f : Queue → Queue) :
    (s.modQueue k f).queue n = if n = k then f (s.queue k) else s.queue n := by
  simp only [State.queue, State.modQueue, Assoc.get_set]
@[simp] theorem State.queue_modQueue_self (s : State) (k : Nat) (f : Queue → Queue) : (s.modQueue k f).queue k = f (s.queue k) := by
  simp [State.queue_modQueue]

theorem State.desc_modDesc (s : State) (k n : Nat) (f : Option Desc → Option Desc) :
    (s.modDesc k f).desc n = if n = k then f (s.desc k) else s.desc n := by
  simp only [State.desc, State.modDesc, Assoc.get_set]
@[simp] theorem State.desc_modDesc_self (s : State) (k : Nat) (f : Option Desc → Option Desc) : (s.modDesc k f).desc k = f (s.desc k) := by
  simp [State.desc_modDesc]

theorem State.alloc_modAlloc (s : State) (k n : Nat) (f : Option AllocRec → Option AllocRec) :
    (s.modAlloc k f).alloc n = if n = k then f (s.alloc k) else s.alloc n := by
  simp only [State.alloc, State.modAlloc, Assoc.get_set]
@[simp] theorem State.alloc_modAlloc_self (s : State) (k : Nat) (f : Option AllocRec → Option AllocRec) : (s.modAlloc k f).alloc k = f (s.alloc k) := by
  simp [State.alloc_modAlloc]

theorem State.sem_modSem (s : State) (k n : Nat) (f : W32 → W32) :
    (s.modSem k f).sem n = if n = k then f (s.sem k) else s.sem n := by
  simp only [State.sem, State.modSem, Assoc.get_set]
@[simp] theorem State.sem_modSem_self (s : State) (k : Nat) (f : W32 → W32) : (s.modSem k f).sem k = f (s.sem k) := by
  simp [State.sem_modSem]

theorem State.account_modAccount (s : State) (k n : Nat) (f : Int → Int) :
    (s.modAccount k f).account n = if n = k then f (s.account k) else s.account n := by
  simp only [State.account, State.modAccount, Assoc.get_set]
@[simp] theorem State.account_modAccount_self (s : State) (k : Nat) (f : Int → Int) : (s.modAccount k f).account k = f (s.account k) := by
  simp [State.account_modAccount]

theorem State.tessera_modTessera (s : State) (k n : Nat) (f : Tess → Tess) :
    (s.modTessera k f).tessera n = if n = k then f (s.tessera k) else s.tessera n := by
  simp only [State.tessera, State.modTessera, Assoc.get_set]
@[simp] theorem State.tessera_modTessera_self (s : State) (k : Nat) (f : Tess → Tess) : (s.modTessera k f).tessera k = f (s.tessera k) := by
  simp [State.tessera_modTessera]

theorem State.halt_modHalt (s : State) (k n : Nat) (f : HaltRec → HaltRec) :
    (s.modHalt k f).halt n = if n = k then f (s.halt k) else s.halt n := by
  simp only [State.halt, State.modHalt, Assoc.get_set]
@[simp] theorem State.halt_modHalt_self (s : State) (k : Nat) (f : HaltRec → HaltRec) : (s.modHalt k f).halt k = f (s.halt k) := by
  simp [State.halt_modHalt]

theorem State.die_modDie (s : State) (k n : Nat) (f : Die → Die) :
    (s.modDie k f).die n = if n = k then f (s.die k) else s.die n := by
  simp only [State.die, State.modDie, Assoc.get_set]
@[simp] theorem State.die_modDie_self (s : State) (k : Nat) (f : Die → Die) : (s.modDie k f).die k = f (s.die k) := by
  simp [State.die_modDie]

theorem State.pipe_modPipe (s : State) (k n : Nat) (f : Pipe → Pipe) :
    (s.modPipe k f).pipe n = if n = k then f (s.pipe k) else s.pipe n := by
  simp only [State.pipe, State.modPipe, Assoc.get_set]
@[simp] theorem State.pipe_modPipe_self (s : State) (k : Nat) (f : Pipe → Pipe) : (s.modPipe k f).pipe k = f (s.pipe k) := by
  simp [State.pipe_modPipe]

theorem State.stack_modStack (s : State) (k n : Nat) (f : Stack → Stack) :
    (s.modStack k f).stack n = if n = k then f (s.stack k) else s.stack n := by
  simp only [State.stack, State.modStack, Assoc.get_set]
@[simp] theorem State.stack_modStack_self (s : State) (k : Nat) (f : Stack → Stack) : (s.modStack k f).stack k = f (s.stack k) := by
  simp [State.stack_modStack]

theorem State.entry_modEntry (s : State) (k n : Nat) (f : LEntry → LEntry) :
    (s.modEntry k f).entry n = if n = k then f (s.entry k) else s.entry n := by
  simp only [State.entry, State.modEntry, Assoc.get_set]
@[simp] theorem State.entry_modEntry_self (s : State) (k : Nat) (f : LEntry → LEntry) : (s.modEntry k f).entry k = f (s.entry k) := by
  simp [State.entry_modEntry]

theorem State.handle_modHandle (s : State) (k n : Nat) (f : Handle → Handle) :
    (s.modHandle k f).handle n = if n = k then f (s.handle k) else s.handle n := by
  simp only [State.handle, State.modHandle, Assoc.get_set]
@[simp] theorem State.handle_modHandle_self (s : State) (k : Nat) (f : Handle → Handle) : (s.modHandle k f).handle k = f (s.handle k) := by
  simp [State.handle_modHandle]

theorem State.slot_modSlot (s : State) (k n : Nat) (f : Slot → Slot) :
    (s.modSlot k f).slot n = if n = k then f (s.slot k) else s.slot n := by
  simp only [State.slot, State.modSlot, Assoc.get_set]
@[simp] theorem State.slot_modSlot_self (s : State) (k : Nat) (f : Slot → Slot) : (s.modSlot k f).slot k = f (s.slot k) := by
  simp [State.slot_modSlot]

theorem State.courier_modCourier (s : State) (k n : Nat) (f : Courier → Courier) :
    (s.modCourier k f).courier n = if n = k then f (s.courier k) else s.courier n := by
  simp only [State.courier, State.modCourier, Assoc.get_set]
@[simp] theorem State.courier_modCourier_self (s : State) (k : Nat) (f : Courier → Courier) : (s.modCourier k f).courier k = f (s.courier k) := by
  simp [State.courier_modCourier]

theorem State.port_modPort (s : State) (k n : Nat) (f : Port → Port) :
    (s.modPort k f).port n = if n = k then f (s.port k) else s.port n := by
  simp only [State.port, State.modPort, Assoc.get_set]
@[simp] theorem State.port_modPort_self (s : State) (k : Nat) (f : Port → Port) : (s.modPort k f).port k = f (s.port k) := by
  simp [State.port_modPort]

theorem State.group_modGroup (s : State) (k n : Nat) (f : Group → Group) :
    (s.modGroup k f).group n = if n = k then f (s.group k) else s.group n := by
  simp only [State.group, State.modGroup, Assoc.get_set]
@[simp] theorem State.group_modGroup_self (s : State) (k : Nat) (f : Group → Group) : (s.modGroup k f).group k = f (s.group k) := by
  simp [State.group_modGroup]

theorem State.peer_modPeer (s : State) (k n : Nat) (f : Peer → Peer) :
    (s.modPeer k f).peer n = if n = k then f (s.peer k) else s.peer n := by
  simp only [State.peer, State.modPeer, Assoc.get_set]
@[simp] theorem State.peer_modPeer_self (s : State) (k : Nat) (f : Peer → Peer) : (s.modPeer k f).peer k = f (s.peer k) := by
  simp [State.peer_modPeer]

theorem State.func_modFunc (s : State) (k n : Nat) (f : Func → Func) :
    (s.modFunc k f).func n = if n = k then f (s.func k) else s.func n := by
  simp only [State.func, State.modFunc, Assoc.get_set]
@[simp] theorem State.func_modFunc_self (s : State) (k : Nat) (f : Func → Func) : (s.modFunc k f).func k = f (s.func k) := by
  simp [State.func_modFunc]

theorem State.hport_modHport (s : State) (k n : Nat) (f : HPort → HPort) :
    (s.modHport k f).hport n = if n = k then f (s.hport k) else s.hport n := by
  simp only [State.hport, State.modHport, Assoc.get_set]
@[simp] theorem State.hport_modHport_self (s : State) (k : Nat) (f : HPort → HPort) : (s.modHport k f).hport k = f (s.hport k) := by
  simp [State.hport_modHport]

theorem State.logicTherm_modLogicTherm (s : State) (k n : Nat) (f : Therm → Therm) :
    (s.modLogicTherm k f).logicTherm n = if n = k then f (s.logicTherm k) else s.logicTherm n := by
  simp only [State.logicTherm, State.modLogicTherm, Assoc.get_set]
@[simp] theorem State.logicTherm_modLogicTherm_self (s : State) (k : Nat) (f : Therm → Therm) : (s.modLogicTherm k f).logicTherm k = f (s.logicTherm k) := by
  simp [State.logicTherm_modLogicTherm]

theorem State.arrayTherm_modArrayTherm (s : State) (k n : Nat) (f : Therm → Therm) :
    (s.modArrayTherm k f).arrayTherm n = if n = k then f (s.arrayTherm k) else s.arrayTherm n := by
  simp only [State.arrayTherm, State.modArrayTherm, Assoc.get_set]
@[simp] theorem State.arrayTherm_modArrayTherm_self (s : State) (k : Nat) (f : Therm → Therm) : (s.modArrayTherm k f).arrayTherm k = f (s.arrayTherm k) := by
  simp [State.arrayTherm_modArrayTherm]

theorem State.rail_modRail (s : State) (k n : Nat) (f : Rail → Rail) :
    (s.modRail k f).rail n = if n = k then f (s.rail k) else s.rail n := by
  simp only [State.rail, State.modRail, Assoc.get_set]
@[simp] theorem State.rail_modRail_self (s : State) (k : Nat) (f : Rail → Rail) : (s.modRail k f).rail k = f (s.rail k) := by
  simp [State.rail_modRail]

theorem State.ev_modEv (s : State) (k n : Nat) (f : EvDie → EvDie) :
    (s.modEv k f).ev n = if n = k then f (s.ev k) else s.ev n := by
  simp only [State.ev, State.modEv, Assoc.get_set]
@[simp] theorem State.ev_modEv_self (s : State) (k : Nat) (f : EvDie → EvDie) : (s.modEv k f).ev k = f (s.ev k) := by
  simp [State.ev_modEv]

theorem State.crossing_modCrossing (s : State) (k n : Nat) (f : Cross → Cross) :
    (s.modCrossing k f).crossing n = if n = k then f (s.crossing k) else s.crossing n := by
  simp only [State.crossing, State.modCrossing, Assoc.get_set]
@[simp] theorem State.crossing_modCrossing_self (s : State) (k : Nat) (f : Cross → Cross) : (s.modCrossing k f).crossing k = f (s.crossing k) := by
  simp [State.crossing_modCrossing]

theorem State.eccBlock_modEccBlock (s : State) (k n : Nat) (f : Ecc → Ecc) :
    (s.modEccBlock k f).eccBlock n = if n = k then f (s.eccBlock k) else s.eccBlock n := by
  simp only [State.eccBlock, State.modEccBlock, Assoc.get_set]
@[simp] theorem State.eccBlock_modEccBlock_self (s : State) (k : Nat) (f : Ecc → Ecc) : (s.modEccBlock k f).eccBlock k = f (s.eccBlock k) := by
  simp [State.eccBlock_modEccBlock]

theorem State.line_modLine (s : State) (k n : Nat) (f : Option (List Byte) → Option (List Byte)) :
    (s.modLine k f).line n = if n = k then f (s.line k) else s.line n := by
  simp only [State.line, State.modLine, Assoc.get_set]
@[simp] theorem State.line_modLine_self (s : State) (k : Nat) (f : Option (List Byte) → Option (List Byte)) : (s.modLine k f).line k = f (s.line k) := by
  simp [State.line_modLine]

theorem State.logSlot_modLogSlot (s : State) (k n : Nat) (f : Option EvRec → Option EvRec) :
    (s.modLogSlot k f).logSlot n = if n = k then f (s.logSlot k) else s.logSlot n := by
  simp only [State.logSlot, State.modLogSlot, Assoc.get_set]
@[simp] theorem State.logSlot_modLogSlot_self (s : State) (k : Nat) (f : Option EvRec → Option EvRec) : (s.modLogSlot k f).logSlot k = f (s.logSlot k) := by
  simp [State.logSlot_modLogSlot]

theorem State.owner_modOwner (s : State) (k n : Nat) (f : Option Nat → Option Nat) :
    (s.modOwner k f).owner n = if n = k then f (s.owner k) else s.owner n := by
  simp only [State.owner, State.modOwner, Assoc.get_set]
@[simp] theorem State.owner_modOwner_self (s : State) (k : Nat) (f : Option Nat → Option Nat) : (s.modOwner k f).owner k = f (s.owner k) := by
  simp [State.owner_modOwner]

/- ---- what ends a meaning ---- -/

/-- Calm is a matter of five fields. -/
theorem State.Calm.congr {s t : State} (h : s.Calm) (h1 : t.resetWanted = s.resetWanted) (h2 : t.boot.burning = s.boot.burning)
    (h3 : t.hports = s.hports) (h4 : t.bells = s.bells) (h5 : t.reads4 = s.reads4) : t.Calm := by
  unfold State.Calm at h ⊢; rw [h1, h2, h3, h4, h5]; exact h

/-- Where nothing else waits, the end of a meaning only brings the commands up to date. -/
theorem State.settle_calm {s : State} (h : s.Calm) : s.settle = s.refresh := by
  obtain ⟨h1, h2, h3, h4, h5⟩ := h
  have hb : s.burnStep = s := by unfold State.burnStep; simp [h2]
  have hm : s.mailStep = s := by unfold State.mailStep; rw [h3]; rfl
  have hf : s.flushPosted = s := by unfold State.flushPosted; rw [if_pos ⟨h4, h5⟩]
  unfold State.settle
  simp only [hb, hm, hf, h1]

theorem done_calm {s : State} (h : s.Calm) : done s = .next s.refresh := by rw [done, State.settle_calm h]

theorem Cmd.core_refreshCmd (s : State) (c : Cmd) : (s.refreshCmd c).core = c.core := rfl

/-- Bringing commands up to date changes no command but for its waits. -/
theorem State.refresh_sameCmds (s : State) : sameCmds s s.refresh := by
  simp only [sameCmds, State.refresh, List.map_map]
  exact List.map_congr_left fun c _ => Cmd.core_refreshCmd s c

/-- An empty environment is one more step of memory's age. -/
theorem State.enter_nil (s : State) : s.enter {} = (false, s.environ {}) := rfl

/-- A step in an environment without a fatal error: the meaning runs on the state the environment left. -/
theorem State.within_eq {s : State} {e : Env} (k : State → State) (hf : e.fatal = none)
    (hs : (k (s.environ e)).stalled = false) : s.within e k = done (k (s.environ e)) := by
  simp [State.within, State.enter, hf, hs]

/- ---- accepted commands ---- -/

theorem find_map_id (l : List Cmd) (id : CmdId) (g : Cmd → Cmd) (hg : ∀ c, (g c).id = c.id) :
    (l.map g).find? (fun c => c.id == id) = (l.find? fun c => c.id == id).map g := by
  induction l with
  | nil => rfl
  | cons a r ih =>
    simp only [List.map_cons, List.find?_cons, hg]
    cases a.id == id
    · exact ih
    · rfl

/-- A change of one command is what is read back of it. -/
theorem State.cmd_modCmd (s : State) (id k : CmdId) (f : Cmd → Cmd) (hf : ∀ c, (f c).id = c.id) :
    (s.modCmd id f).cmd k = if k = id then (s.cmd k).map f else s.cmd k := by
  have hg : ∀ c : Cmd, (if (c.id == id) = true then f c else c).id = c.id := by intro c; split <;> simp [hf]
  unfold State.cmd State.modCmd
  rw [find_map_id _ _ _ hg]
  cases h : s.cmds.find? fun c => c.id == k with
  | none => simp
  | some c =>
    have hc : c.id = k := by simpa using List.find?_some h
    by_cases hk : k = id
    · simp [hk, hc]
    · simp [hk, hc]

/-- Bringing readiness up to date keeps every command but for its waits. -/
theorem State.cmd_refresh (s : State) (k : CmdId) : (s.refresh.cmd k).map Cmd.core = (s.cmd k).map Cmd.core := by
  show Option.map Cmd.core ((s.cmds.map s.refreshCmd).find? fun c => c.id == k) = _
  rw [find_map_id _ k s.refreshCmd (fun _ => rfl), Option.map_map]
  rfl

theorem State.modCmd_eq (s : State) (id : CmdId) (f : Cmd → Cmd) : s.modCmd id f = { s with cmds := (s.modCmd id f).cmds } := rfl

/- ---- memory ---- -/

theorem Mem.read_of_eq {m n : Mem} (hc : m.cells = n.cells) (hu : m.undef = n.undef) (hv : m.veil = n.veil) (hk : m.killed = n.killed)
    (hn : m.under = n.under) (hg : m.age = n.age) (a : Nat) (who : Seer) : m.read a who = n.read a who := by
  simp [Mem.read, Mem.now, Mem.strays, hc, hu, hv, hk, hn, hg]

theorem undefAt_piece (c : Prop) [Decidable c] (u : Undef) (r : List Undef) (a : Nat) :
    undefAt ((if c then [u] else []) ++ r) a = if c ∧ u.lo ≤ a ∧ a < u.hi then some u else undefAt r a := by
  by_cases h : c <;> simp [h, undefAt]

theorem undefAt_cut_in (lo hi a : Nat) (l : List Undef) (h1 : lo ≤ a) (h2 : a < hi) : undefAt (cutUndef lo hi l) a = none := by
  induction l with
  | nil => rfl
  | cons u r ih =>
    simp only [cutUndef, List.append_assoc, undefAt_piece, ih]
    rw [if_neg (by omega), if_neg (by omega)]

theorem undefAt_cut_out (lo hi a : Nat) (l : List Undef) (h : a < lo ∨ hi ≤ a) :
    (undefAt (cutUndef lo hi l) a).map (·.stamp) = (undefAt l a).map (·.stamp) := by
  induction l with
  | nil => rfl
  | cons u r ih =>
    simp only [cutUndef, List.append_assoc, undefAt_piece, undefAt]
    split
    · rw [if_pos (by omega)]; rfl
    · split
      · rw [if_pos (by omega)]; rfl
      · rw [if_neg (by omega)]; exact ih

/-- What a byte reads as depends only on the stamp of its undefined range. -/
theorem readBy_stamp (x y : Option Undef) (b : Nat) (v : Byte) : x.map (·.stamp) = y.map (·.stamp) →
    (match x with | some u => Config.freeByte u.stamp b | none => v) =
    (match y with | some u => Config.freeByte u.stamp b | none => v) := by
  intro h
  cases x <;> cases y <;> simp at h <;> simp [h]

/-- Bytes below other addresses are not looked at. -/
theorem walkBack_filter (age : Nat) (who : Seer) (l : List Under) (p : Under → Bool) (b : Nat) (x : Byte) (h : ∀ u ∈ l, u.addr = b → p u = true) :
    walkBack age b who (l.filter p) x = walkBack age b who l x := by
  induction l generalizing x with
  | nil => rfl
  | cons u r ih =>
    have ih' := ih (h := fun v hv => h v (List.mem_cons_of_mem _ hv))
    by_cases hp : p u = true
    · simp only [List.filter_cons, hp, if_true, walkBack, ih']
    · have hn : u.addr ≠ b := fun e => hp (h u (List.mem_cons_self ..) e)
      simp only [List.filter_cons, hp, walkBack, hn, ne_eq, not_false_eq_true, if_true]
      simpa using ih' x

/-- Where nothing was written over, every reader finds the byte that stands. -/
theorem walkBack_none (age : Nat) (who : Seer) (l : List Under) (b : Nat) (x : Byte) (h : ∀ u ∈ l, u.addr ≠ b) : walkBack age b who l x = x := by
  induction l with
  | nil => rfl
  | cons u r ih => rw [walkBack, if_pos (h u (List.mem_cons_self ..))]; exact ih fun v hv => h v (List.mem_cons_of_mem _ hv)

/-- A write changes no byte but its own as it stands. -/
theorem Mem.now_write_ne {m : Mem} {a b : Nat} (x : Byte) (h : b ≠ a) : (m.write a x).now b = m.now b := by
  simp only [Mem.now, Mem.write]
  rw [Assoc.get_set_ne 0 _ x h]
  exact readBy_stamp _ _ b _ (undefAt_cut_out a (a + 1) b m.undef (by omega))

theorem Mem.now_write_self (m : Mem) (a : Nat) (x : Byte) : (m.write a x).now a = x := by
  simp only [Mem.now, Mem.write]
  rw [undefAt_cut_in _ _ _ _ (Nat.le_refl _) (Nat.lt_succ_self _), Assoc.get_set_self]

/-- A write changes no byte but its own, whoever looks. -/
theorem Mem.read_write_ne {m : Mem} {a b : Nat} (who : Seer) (x : Byte) (h : b ≠ a) : (m.write a x).read b who = m.read b who := by
  have hn := Mem.now_write_ne (m := m) x h
  unfold Mem.read
  rw [hn]
  exact congrArg (fun z => match undefAt (m.strays b who) b with
    | some u => Config.freeByte u.stamp b
    | none => z) (walkBack_filter m.age who m.under (·.addr != a) b (m.now b) fun u _ hu => by simp [hu, h])

/-- The byte written for good is read back by every reader that finds no byte of a killed run there. -/
theorem Mem.read_write_self {m : Mem} (a : Nat) (who : Seer) (x : Byte) (hv : undefAt (m.strays a who) a = none) :
    (m.write a x).read a who = x := by
  have hn := Mem.now_write_self m a x
  unfold Mem.read
  rw [hn]
  show (match undefAt (m.strays a who) a with
    | some u => Config.freeByte u.stamp a
    | none => walkBack m.age a who (m.under.filter (·.addr != a)) x) = x
  rw [hv]
  exact walkBack_none _ _ _ _ _ fun u hu => by simpa using (List.mem_filter.1 hu).2

theorem Mem.read_writeAll_ne {m : Mem} {b : Nat} (who : Seer) (ws : List (Nat × Byte)) (h : ∀ w ∈ ws, w.1 ≠ b) :
    (m.writeAll ws).read b who = m.read b who := by
  induction ws generalizing m with
  | nil => rfl
  | cons w r ih =>
    rw [Mem.writeAll, ih fun x hx => h x (List.mem_cons_of_mem _ hx)]
    exact Mem.read_write_ne who _ fun e => h w (List.mem_cons_self ..) e.symm

/-- A write of an uncommitted command changes no other byte. -/
theorem Mem.read_writeBy_ne {m : Mem} {a b : Nat} (by_ who : Seer) (x : Byte) (h : b ≠ a) : (m.writeBy by_ a x).read b who = m.read b who := by
  unfold Mem.writeBy
  split
  · exact Mem.read_write_ne who x h
  · have hn := Mem.now_write_ne (m := m) x h
    show (match undefAt (m.strays b who) b with
      | some u => Config.freeByte u.stamp b
      | none => walkBack m.age b who (⟨by_.stamp, by_.eng, a, m.now a⟩ :: m.under) ((m.write a x).now b)) = _
    rw [hn, walkBack, if_pos (Ne.symm h)]
    rfl

/-- Its own command finds the byte that it wrote (R385). -/
theorem Mem.read_writeBy_own {m : Mem} (by_ who : Seer) (a : Nat) (x : Byte) (hw : who.stamp = by_.stamp)
    (hv : undefAt (m.strays a who) a = none) : (m.writeBy by_ a x).read a who = x := by
  unfold Mem.writeBy
  split
  · exact Mem.read_write_self a who x hv
  · have hn := Mem.now_write_self m a x
    show (match undefAt (m.strays a who) a with
      | some u => Config.freeByte u.stamp a
      | none => walkBack m.age a who (⟨by_.stamp, by_.eng, a, m.now a⟩ :: m.under) ((m.write a x).now a)) = _
    rw [hv, hn]
    simp [walkBack, hw]

/- ---- writes of commands, and held writes (R85, R520, R521) ---- -/

/-- Where no array die holds a byte back, an engine's local writes land at once. -/
theorem State.landFor_now (s : State) (c : Cmd) (die : Option Nat) (eng : Nat) (ws : List (Nat × Byte))
    (h : ∀ w ∈ ws, s.holdsAt w.1 = false) : s.landFor c die eng ws = (s.poisonHit ws, s.land die ws.reverse ⟨c.stamp, eng⟩) := by
  have h1 : (ws.filter fun w => s.holdsAt w.1) = [] := List.filter_eq_nil_iff.2 fun w hw => by simp [h w hw]
  have h2 : (ws.filter fun w => !s.holdsAt w.1) = ws := List.filter_eq_self.2 fun w hw => by simp [h w hw]
  simp only [State.landFor, h1, h2, if_true]

/-- Where every byte is held back, nothing lands and the command keeps them all. -/
theorem State.landFor_held (s : State) (c : Cmd) (die : Option Nat) (eng : Nat) (ws : List (Nat × Byte)) (h0 : ws ≠ [])
    (h : ∀ w ∈ ws, s.holdsAt w.1 = true) : (s.landFor c die eng ws).2 =
      (s.modCmd c.id fun x => { x with writes := ws ++ x.writes }).land die [] ⟨c.stamp, eng⟩ := by
  have h1 : (ws.filter fun w => s.holdsAt w.1) = ws := List.filter_eq_self.2 h
  have h2 : (ws.filter fun w => !s.holdsAt w.1) = [] := List.filter_eq_nil_iff.2 fun w hw => by simp [h w hw]
  simp only [State.landFor, h1, h2, if_neg h0, List.reverse_nil]

/-- With nothing held there is nothing to perform. -/
theorem State.performHeld_quiet (s : State) (h1 : s.held = []) (h2 : ∀ c ∈ s.cmds, c.writes = []) : s.performHeld = s := by
  have h3 : (s.cmds.filter fun c => c.writes != []) = [] := List.filter_eq_nil_iff.2 fun c hc => by simp [h2 c hc]
  simp only [State.performHeld, h1, List.filter_nil, List.foldl_nil, h3]
  rw [← h1]

end Sys2Proof.Machine
end

