-- ==== Sys2Proof/Laws/Memory.lean ====
section
/-! SUPPORT. Every operation on device memory keeps its canonical form (`Memory.wf`). -/

namespace Sys2Proof.Machine

/- ---- the canonical form as propositions ---- -/

theorem Assoc.sorted_iff {α : Type} (l : List (Nat × α)) : Assoc.sorted l = true ↔ l.Pairwise (fun a b => a.1 < b.1) := by
  induction l with
  | nil => simp [Assoc.sorted]
  | cons a r ih =>
    cases r with
    | nil => simp [Assoc.sorted]
    | cons b t =>
      simp only [Assoc.sorted, Bool.and_eq_true, decide_eq_true_eq, ih, List.pairwise_cons, List.mem_cons]
      constructor
      · rintro ⟨h, h2⟩
        refine ⟨fun x hx => ?_, h2⟩
        rcases hx with rfl | hx
        · exact h
        · exact Nat.lt_trans h (h2.1 x hx)
      · exact fun h => ⟨h.1 b (.inl rfl), h.2⟩

theorem undefSorted_iff (l : List Undef) :
    undefSorted l = true ↔ (∀ u ∈ l, u.lo < u.hi) ∧ l.Pairwise (fun u v => u.hi ≤ v.lo) := by
  induction l with
  | nil => simp [undefSorted]
  | cons a r ih =>
    cases r with
    | nil => simp [undefSorted]
    | cons b t =>
      simp only [undefSorted, Bool.and_eq_true, decide_eq_true_eq, ih, List.pairwise_cons, List.mem_cons]
      constructor
      · rintro ⟨⟨h, hb⟩, h2, h3⟩
        refine ⟨fun u hu => ?_, fun x hx => ?_, h3⟩
        · rcases hu with rfl | hu
          · exact h
          · exact h2 u hu
        · rcases hx with rfl | hx
          · exact hb
          · exact Nat.le_trans hb (Nat.le_trans (Nat.le_of_lt (h2 b (.inl rfl))) (h3.1 x hx))
      · exact fun h => ⟨⟨h.1 a (.inl rfl), h.2.1 b (.inl rfl)⟩, fun u hu => h.1 u (.inr hu), h.2.2⟩

theorem undefAt_eq_none (l : List Undef) (a : Nat) : undefAt l a = none ↔ ∀ u ∈ l, ¬(u.lo ≤ a ∧ a < u.hi) := by
  induction l with
  | nil => simp [undefAt]
  | cons u r ih =>
    simp only [undefAt, List.mem_cons, forall_eq_or_imp]
    split
    · next h => simp [h]
    · next h => simp [h, ih]

/-- The canonical form, spelt out. -/
theorem Memory.wf_iff (m : Mem) : Memory.wf m = true ↔
    (m.cells.Pairwise (fun a b => a.1 < b.1)) ∧ (∀ c ∈ m.cells, c.2 ≠ 0) ∧
    ((∀ u ∈ m.undef, u.lo < u.hi) ∧ m.undef.Pairwise (fun u v => u.hi ≤ v.lo)) ∧
    (∀ c ∈ m.cells, ∀ u ∈ m.undef, ¬(u.lo ≤ c.1 ∧ c.1 < u.hi)) := by
  simp only [Memory.wf, Bool.and_eq_true, Assoc.sorted_iff, undefSorted_iff, List.all_eq_true, bne_iff_ne, ne_eq,
    Option.isNone_iff_eq_none, undefAt_eq_none, and_assoc]

/- ---- lists ---- -/

theorem Assoc.mem_erase {α : Type} {l : List (Nat × α)} {n : Nat} {e : Nat × α} : e ∈ Assoc.erase l n ↔ e ∈ l ∧ e.1 ≠ n := by
  induction l with
  | nil => simp [Assoc.erase]
  | cons a r ih =>
    simp only [Assoc.erase]
    split
    · next h => simp only [ih, List.mem_cons]; constructor
                · exact fun x => ⟨.inr x.1, x.2⟩
                · rintro ⟨rfl | x, y⟩
                  · exact absurd h y
                  · exact ⟨x, y⟩
    · next h => simp only [List.mem_cons, ih]; constructor
                · rintro (rfl | x)
                  · exact ⟨.inl rfl, h⟩
                  · exact ⟨.inr x.1, x.2⟩
                · rintro ⟨rfl | x, y⟩
                  · exact .inl rfl
                  · exact .inr ⟨x, y⟩

theorem Assoc.erase_sorted {α : Type} {l : List (Nat × α)} (n : Nat) (h : l.Pairwise (fun a b => a.1 < b.1)) :
    (Assoc.erase l n).Pairwise (fun a b => a.1 < b.1) := by
  induction l with
  | nil => exact h
  | cons a r ih =>
    rw [List.pairwise_cons] at h
    simp only [Assoc.erase]
    split
    · exact ih h.2
    · exact List.pairwise_cons.2 ⟨fun x hx => h.1 x (Assoc.mem_erase.1 hx).1, ih h.2⟩

theorem Assoc.mem_put {α : Type} {l : List (Nat × α)} {n : Nat} {x : α} {e : Nat × α} :
    e ∈ Assoc.put l n x ↔ e = (n, x) ∨ e ∈ l := by
  induction l with
  | nil => simp [Assoc.put]
  | cons a r ih =>
    simp only [Assoc.put]
    split
    · simp [List.mem_cons]
    · simp only [List.mem_cons, ih]
      constructor <;> (rintro (h | h | h) <;> simp [h])

theorem Assoc.put_sorted {α : Type} {l : List (Nat × α)} {n : Nat} (x : α) (h : l.Pairwise (fun a b => a.1 < b.1))
    (hn : ∀ e ∈ l, e.1 ≠ n) : (Assoc.put l n x).Pairwise (fun a b => a.1 < b.1) := by
  induction l with
  | nil => simp [Assoc.put]
  | cons a r ih =>
    have h' := List.pairwise_cons.1 h
    simp only [Assoc.put]
    split
    · next hl =>
      refine List.pairwise_cons.2 ⟨fun e he => ?_, h⟩
      rcases List.mem_cons.1 he with rfl | he
      · exact hl
      · exact Nat.lt_trans hl (h'.1 e he)
    · next hl =>
      refine List.pairwise_cons.2 ⟨fun e he => ?_, ih h'.2 fun e he => hn e (List.mem_cons_of_mem _ he)⟩
      rcases Assoc.mem_put.1 he with rfl | he
      · have := hn a (List.mem_cons_self ..); show a.1 < n; omega
      · exact h'.1 e he

theorem mem_cut {lo hi : Nat} {l : List Undef} {x : Undef} (h : x ∈ cutUndef lo hi l) :
    ∃ u ∈ l, u.lo ≤ x.lo ∧ x.hi ≤ u.hi ∧ x.lo < x.hi ∧ (x.hi ≤ lo ∨ hi ≤ x.lo) := by
  induction l with
  | nil => simp [cutUndef] at h
  | cons u r ih =>
    simp only [cutUndef, List.mem_append] at h
    rcases h with (h | h) | h
    · split at h
      · simp only [List.mem_singleton] at h; subst h
        exact ⟨u, List.mem_cons_self .., Nat.le_refl _, Nat.min_le_left _ _, by assumption, .inl (Nat.min_le_right _ _)⟩
      · simp at h
    · split at h
      · simp only [List.mem_singleton] at h; subst h
        exact ⟨u, List.mem_cons_self .., Nat.le_max_left _ _, Nat.le_refl _, by assumption, .inr (Nat.le_max_right _ _)⟩
      · simp at h
    · obtain ⟨v, hv, hx⟩ := ih h; exact ⟨v, List.mem_cons_of_mem _ hv, hx⟩

theorem cut_pairwise {lo hi : Nat} {l : List Undef} (hlh : lo ≤ hi) (h : l.Pairwise (fun u v => u.hi ≤ v.lo)) :
    (cutUndef lo hi l).Pairwise (fun u v => u.hi ≤ v.lo) := by
  induction l with
  | nil => simp [cutUndef]
  | cons u r ih =>
    rw [List.pairwise_cons] at h
    simp only [cutUndef, List.append_assoc]
    have hr : ∀ x ∈ cutUndef lo hi r, u.hi ≤ x.lo := fun x hx => by
      obtain ⟨v, hv, h1, _⟩ := mem_cut hx; exact Nat.le_trans (h.1 v hv) h1
    refine List.pairwise_append.2 ⟨by split <;> simp, List.pairwise_append.2 ⟨by split <;> simp, ih h.2, ?_⟩, ?_⟩
    · intro x hx y hy
      split at hx
      · simp only [List.mem_singleton] at hx; subst hx; exact hr y hy
      · simp at hx
    · intro x hx y hy
      split at hx
      · simp only [List.mem_singleton] at hx; subst hx
        rcases List.mem_append.1 hy with hy | hy
        · split at hy
          · simp only [List.mem_singleton] at hy; subst hy; show min u.hi lo ≤ max u.lo hi; omega
          · simp at hy
        · exact Nat.le_trans (Nat.min_le_left _ _) (hr y hy)
      · simp at hx

theorem mem_putUndef {u x : Undef} {l : List Undef} : x ∈ putUndef u l ↔ x = u ∨ x ∈ l := by
  induction l with
  | nil => simp [putUndef]
  | cons a r ih =>
    simp only [putUndef]
    split
    · simp [List.mem_cons]
    · simp only [List.mem_cons, ih]; constructor <;> (rintro (h | h | h) <;> simp [h])

theorem putUndef_pairwise {u : Undef} {l : List Undef} (h : l.Pairwise (fun u v => u.hi ≤ v.lo)) (hu : u.lo < u.hi)
    (hne : ∀ v ∈ l, v.lo < v.hi) (hd : ∀ v ∈ l, v.hi ≤ u.lo ∨ u.hi ≤ v.lo) :
    (putUndef u l).Pairwise (fun u v => u.hi ≤ v.lo) := by
  induction l with
  | nil => simp [putUndef]
  | cons a r ih =>
    have h' := List.pairwise_cons.1 h
    have ha := hd a (List.mem_cons_self ..)
    have hna := hne a (List.mem_cons_self ..)
    simp only [putUndef]
    split
    · next hl =>
      refine List.pairwise_cons.2 ⟨fun e he => ?_, h⟩
      rcases List.mem_cons.1 he with rfl | he
      · omega
      · have := h'.1 e he; omega
    · next hl =>
      refine List.pairwise_cons.2 ⟨fun e he => ?_, ih h'.2 (fun v hv => hne v (List.mem_cons_of_mem _ hv))
        fun v hv => hd v (List.mem_cons_of_mem _ hv)⟩
      rcases mem_putUndef.1 he with rfl | he
      · omega
      · exact h'.1 e he

/- ---- the operations ---- -/

/-- Reset memory is in the canonical form. -/
theorem Memory.wf_reset : Memory.wf Mem.reset = true := by decide

theorem Memory.wf_write {m : Mem} (a : Nat) (b : Byte) (h : Memory.wf m = true) : Memory.wf (m.write a b) = true := by
  obtain ⟨h1, h2, ⟨h3, h4⟩, h5⟩ := (Memory.wf_iff m).1 h
  refine (Memory.wf_iff _).2 ⟨?_, ?_, ⟨?_, cut_pairwise (Nat.le_succ a) h4⟩, ?_⟩
  · simp only [Mem.write, Assoc.set]
    split
    · exact Assoc.erase_sorted a h1
    · exact Assoc.put_sorted b (Assoc.erase_sorted a h1) fun e he => (Assoc.mem_erase.1 he).2
  · intro c hc
    simp only [Mem.write, Assoc.set] at hc
    split at hc
    · exact h2 c (Assoc.mem_erase.1 hc).1
    · next hb =>
      rcases Assoc.mem_put.1 hc with rfl | hc
      · exact hb
      · exact h2 c (Assoc.mem_erase.1 hc).1
  · exact fun u hu => (mem_cut hu).elim fun _ x => x.2.2.2.1
  · intro c hc u hu
    obtain ⟨v, hv, x1, x2, -, x3⟩ := mem_cut hu
    have key : c.1 = a ∨ c ∈ m.cells := by
      simp only [Mem.write, Assoc.set] at hc
      split at hc
      · exact .inr (Assoc.mem_erase.1 hc).1
      · rcases Assoc.mem_put.1 hc with rfl | hc
        · exact .inl rfl
        · exact .inr (Assoc.mem_erase.1 hc).1
    rcases key with k | k
    · omega
    · have := h5 c k v hv; omega

theorem Memory.wf_writeAll (ws : List (Nat × Byte)) {m : Mem} (h : Memory.wf m = true) : Memory.wf (m.writeAll ws) = true := by
  induction ws generalizing m with
  | nil => exact h
  | cons w r ih => exact ih (Memory.wf_write w.1 w.2 h)

theorem Memory.wf_zero {m : Mem} (lo hi : Nat) (hl : lo ≤ hi) (h : Memory.wf m = true) : Memory.wf (m.zero lo hi) = true := by
  obtain ⟨h1, h2, ⟨h3, h4⟩, h5⟩ := (Memory.wf_iff m).1 h
  refine (Memory.wf_iff _).2 ⟨h1.sublist List.filter_sublist, fun c hc => h2 c (List.mem_filter.1 hc).1,
    ⟨fun u hu => (mem_cut hu).elim fun _ x => x.2.2.2.1, cut_pairwise hl h4⟩, ?_⟩
  intro c hc u hu
  obtain ⟨v, hv, x1, x2, -, -⟩ := mem_cut hu
  have := h5 c (List.mem_filter.1 hc).1 v hv
  omega

theorem Memory.wf_forget {m : Mem} (lo hi st : Nat) (h : Memory.wf m = true) : Memory.wf (m.forget lo hi st) = true := by
  unfold Mem.forget
  split
  · next hl =>
    obtain ⟨h1, h2, ⟨h3, h4⟩, h5⟩ := (Memory.wf_iff m).1 h
    refine (Memory.wf_iff _).2 ⟨h1.sublist List.filter_sublist, fun c hc => h2 c (List.mem_filter.1 hc).1, ⟨?_, ?_⟩, ?_⟩
    · intro u hu
      rcases mem_putUndef.1 hu with rfl | hu
      · exact hl
      · exact (mem_cut hu).elim fun _ x => x.2.2.2.1
    · exact putUndef_pairwise (cut_pairwise (Nat.le_of_lt hl) h4) hl (fun v hv => (mem_cut hv).elim fun _ x => x.2.2.2.1)
        fun v hv => (mem_cut hv).elim fun _ x => x.2.2.2.2
    · intro c hc u hu
      have hk := (List.mem_filter.1 hc).2
      simp only [Bool.or_eq_true, decide_eq_true_eq] at hk
      rcases mem_putUndef.1 hu with rfl | hu
      · show ¬(lo ≤ c.1 ∧ c.1 < hi); omega
      · obtain ⟨v, hv, x1, x2, -, -⟩ := mem_cut hu
        have := h5 c (List.mem_filter.1 hc).1 v hv
        omega
  · exact h

/-- The form says nothing of veils and error marks. -/
theorem Memory.wf_congr {m n : Mem} (hc : n.cells = m.cells) (hu : n.undef = m.undef) (h : Memory.wf m = true) :
    Memory.wf n = true := by simpa [Memory.wf, hc, hu] using h

theorem Memory.wf_unveil {m : Mem} (st : Nat) (lost : Bool) (h : Memory.wf m = true) : Memory.wf (m.unveil st lost) = true := by
  unfold Mem.unveil
  have h0 : ∀ n : Mem, n.cells = m.cells → n.undef = m.undef → Memory.wf n = true := fun n hc hu => Memory.wf_congr hc hu h
  simp only
  split
  · generalize m.veil.filter (·.stamp == st) = l
    have step : ∀ (l : List Undef) (n : Mem), Memory.wf n = true → Memory.wf (l.foldl (fun a u => a.forget u.lo u.hi st) n) = true := by
      intro l
      induction l with
      | nil => exact fun n hn => hn
      | cons u r ih => exact fun n hn => ih _ (Memory.wf_forget u.lo u.hi st hn)
    exact step l _ (h0 _ rfl rfl)
  · exact h0 _ rfl rfl

theorem Memory.wf_writeBy {m : Mem} (who : Seer) (a : Nat) (b : Byte) (h : Memory.wf m = true) : Memory.wf (m.writeBy who a b) = true := by
  unfold Mem.writeBy
  split
  · exact Memory.wf_write a b h
  · exact Memory.wf_congr rfl rfl (Memory.wf_write a b h)

theorem Memory.wf_writeAllBy (who : Seer) (ws : List (Nat × Byte)) {m : Mem} (h : Memory.wf m = true) :
    Memory.wf (m.writeAllBy who ws) = true := by
  induction ws generalizing m with
  | nil => exact h
  | cons w r ih => exact ih (Memory.wf_writeBy who w.1 w.2 h)

theorem Memory.wf_strike {m : Mem} (l : List (Nat × Bool)) (h : Memory.wf m = true) : Memory.wf (m.strike l) = true := by
  induction l generalizing m with
  | nil => exact h
  | cons x r ih =>
    obtain ⟨g, b⟩ := x
    cases b <;> exact ih (Memory.wf_congr rfl rfl h)

end Sys2Proof.Machine
end

