-- ==== Sys2Proof/Laws/Registers.lean ====
section
/-! SUPPORT. Where the blocks of BAR0 lie, and what a register read can change. -/

namespace Sys2Proof.Machine

theorem blockAt_hi {o : Nat} (h : o < 0x100000) : blockAt (hiBase + o) = (.hi, o) := by
  unfold blockAt hiBase
  rw [if_neg (by omega), if_pos (by omega), Nat.add_sub_cancel_left]

theorem blockAt_sc {o : Nat} (h : o < 0x100000) : blockAt (scBase + o) = (.sc, o) := by
  unfold blockAt scBase
  rw [if_neg (by omega), if_neg (by omega), if_pos (by omega), Nat.add_sub_cancel_left]

theorem blockAt_td {d o : Nat} (hd : d < 8) (h : o < 0x200000) : blockAt (tdBase d + o) = (.td d, o) := by
  unfold blockAt tdBase
  rw [if_neg (by omega), if_neg (by omega), if_neg (by omega), if_neg (by omega), if_pos (by omega)]
  refine Prod.ext ?_ ?_
  · show Blk.td _ = Blk.td _; congr 1; omega
  · show (_ : Nat) = _; omega

/-- The word before an offset without a register has no register either, when both lie in one 8-byte pair. -/
theorem blockAt_none_low {off : Nat} (h : blockAt off = (.none, 0)) (h8 : off % 8 = 4) : blockAt (off - 4) = (.none, 0) := by
  unfold blockAt at h ⊢
  repeat' split at h
  all_goals first
    | (simp at h; done)
    | (repeat rw [if_neg (by omega)])
  rw [if_pos (by omega)]

theorem State.writeWord_hi (s : State) {fn off o v : Nat} (h : blockAt off = (.hi, o)) : s.writeWord fn off v = s.hiWrite fn o v := by
  simp only [State.writeWord, h]

theorem State.writeWord_sc (s : State) {fn off o v : Nat} (h : blockAt off = (.sc, o)) : s.writeWord fn off v = s.scWrite fn o v := by
  simp only [State.writeWord, h]

theorem State.writeWord_td (s : State) {fn off o v : Nat} {d : Nat} (h : blockAt off = (.td d, o)) : s.writeWord fn off v = s.tdWrite d o v := by
  simp only [State.writeWord, h]

theorem isPair_td {off d o : Nat} (h : blockAt off = (.td d, o)) : isPair off = (off % 8 == 0 &&
    (o == 0x3018 || inSpan o 0x6008 8 6 || inSpan o 0x6108 8 3 || o == 0xD000 || o == 0xD010 || inSpan o 0xE008 8 5)) := by
  simp only [isPair, h]

/-- TD_BUDGET_X (R167). -/
theorem State.tdWrite_budX (s : State) (d v : Nat) :
    s.tdWrite d 0x3004 v = if s.locked then s else s.modDie d fun x => { x with budX := v % 2 ^ 32 } := by
  unfold State.tdWrite; split <;> first | omega | rfl

/-- A halt record's VALID is cleared by writing 1 (R165). -/
theorem State.tdWrite_halt (s : State) {d n v : Nat} (hn : n < 128) (ht : n < s.tessPerCd) (hv : bit v 31 = true) :
    s.tdWrite d (0x4000 + 0x40 * n) v = s.modHalt (128 * d + n) fun h => { h with valid := false, ovr := false } := by
  have dd : (0x4000 + 0x40 * n - 0x4000) / 0x40 = n := by omega
  unfold State.tdWrite
  generalize (fun (f : Die → Die) => if s.locked = true then s else s.modDie d f) = g
  dsimp only
  split
  all_goals first
    | omega
    | (rw [if_pos (by rw [dd]; simp [inSpan, hv, ht]; omega), dd])

/-- What a register read may change (R12, R15): read-to-clear fields and captures. -/
def ReadFrame (s t : State) : Prop :=
  t = { s with hports := t.hports, ctxs := t.ctxs, evd := t.evd, cross := t.cross, dips := t.dips, pairRead := t.pairRead,
               cacheCap := t.cacheCap, slotCap := t.slotCap } ∧
  ∀ c, t.ctx c = s.ctx c ∨ t.ctx c = { s.ctx c with kills := 0 }

theorem ReadFrame.refl (s : State) : ReadFrame s s := ⟨rfl, fun _ => .inl rfl⟩

theorem ReadFrame.trans {s t u : State} (h : ReadFrame s t) (g : ReadFrame t u) : ReadFrame s u := by
  refine ⟨?_, fun c => ?_⟩
  · have h1 := h.1; have g1 := g.1; rw [h1] at g1; exact g1
  · rcases h.2 c with a | a <;> rcases g.2 c with b | b <;> rw [b] <;> simp [a]

theorem State.readFrame_dieRc (s : State) (d o : Nat) : ReadFrame s (s.dieRc d o) := by
  unfold State.dieRc; split
  · exact ⟨rfl, fun _ => .inl rfl⟩
  · split <;> exact ⟨rfl, fun _ => .inl rfl⟩

theorem State.readFrame_kills (s : State) (k : Nat) : ReadFrame s (s.modCtx k fun c => { c with kills := 0 }) := by
  refine ⟨rfl, fun c => ?_⟩
  rw [State.ctx_modCtx]
  split
  · next h => rw [h]; exact .inr rfl
  · exact .inl rfl

theorem State.readFrame_readClears (s : State) (off : Nat) : ReadFrame s (s.readClears off) := by
  unfold State.readClears
  repeat' split
  all_goals first
    | exact State.readFrame_dieRc ..
    | exact State.readFrame_kills ..
    | exact ⟨rfl, fun _ => .inl rfl⟩

theorem State.readFrame_read32 (s : State) (fn off : Nat) : ReadFrame s (s.read32 fn off).2 := by
  unfold State.read32 State.readPool State.readSlot State.readSlot0
  simp only
  repeat' split
  all_goals first
    | exact State.readFrame_readClears ..
    | exact ⟨rfl, fun _ => .inl rfl⟩

theorem State.readFrame_read64 (s : State) (fn off : Nat) : ReadFrame s (s.read64 fn off).2 := by
  unfold State.read64
  split
  · split <;> exact ⟨rfl, fun _ => .inl rfl⟩
  · exact (State.readFrame_read32 s fn off).trans (State.readFrame_read32 _ _ _)

end Sys2Proof.Machine
end

