-- ==== Sys2Proof/Laws/Tessera.lean ====
section
/-! SUPPORT. What a row of a tessera's streams does when its instruction issues, said once for all of them. -/

namespace Sys2Proof.Machine

/-- An X-stream row whose instruction issues has the effect of its opcode on the item. -/
theorem State.xRow_of_issues {s : State} {die t op : Nat} {c : Cmd} {m : Sim} (h : s.xIssues die t op c m) (eff : W128 → Sim → Sim) :
    s.xRow die t op eff = s.putSim die t c (eff m.xWord m) := by
  obtain ⟨hh, m0, h0, h1, h2⟩ := h
  simp only [State.xRow, State.hitThen, hh, h0, h1, h2]

/-- An A-stream row whose instruction issues has the effect of its opcode on the item. -/
theorem State.aRow_of_issues {s : State} {die t op : Nat} {c : Cmd} {m : Sim} (h : s.aIssues die t op c m) (eff : Cmd → W128 → Sim → Sim) :
    s.aRow die t op eff = s.putSim die t c (eff c m.aWord m) := by
  obtain ⟨hh, m0, h0, h1, h2⟩ := h
  simp only [State.aRow, State.hitThen, hh, h0, h1, h2]

/-- A change of one command by a function that leaves its commands' other parts. -/
theorem State.cmds_modGrid (s : State) (id : CmdId) (f : Grid → Grid) (x : State) (h : x.cmds = s.cmds) :
    (x.modGrid id f).cmds = (s.modGrid id f).cmds := by
  simp only [State.modGrid, State.modCmd, h]

/-- Putting an item's new state back changes that item, its die's counters and its command's guard only. -/
theorem itemStep_putSim {s : State} (hr : s.Calm) (die t : Nat) (c : Cmd) (m : Sim) :
    ∃ r, done (s.putSim die t c m) = .next r ∧ ItemStep s r die t c m := by
  have hw : (s.putSim die t c m).Calm := by
    unfold State.Calm at hr ⊢; simp only [State.putSim, State.modGrid, State.modCmd]; exact hr
  have ht : ∀ k, (s.putSim die t c m).refresh.tessera k = if k = tessKey die t then m.t else s.tessera k := fun k => by
    have := State.tessera_modTessera s (tessKey die t) k fun _ => m.t
    simpa [State.putSim, State.modGrid, State.modCmd, State.tessera, State.modDie] using this
  have hd : ∀ k, (s.putSim die t c m).refresh.die k = if k = die then m.d else s.die k := fun k => by
    have := State.die_modDie s die k fun _ => m.d
    simpa [State.putSim, State.modGrid, State.modCmd, State.die, State.modDie, State.modTessera] using this
  refine ⟨_, done_calm hw, ?_, by simp [ht], fun k hk => by simp [ht, hk], by simp [hd], fun k hk => by simp [hd, hk], ?_⟩
  · unfold State.putSim State.modGrid State.modCmd State.modTessera State.modDie State.refresh; rfl
  have h := State.refresh_sameCmds (s.putSim die t c m)
  unfold sameCmds at h ⊢
  rw [h]; rfl

end Sys2Proof.Machine
end

