-- ==== Sys2Proof/WellFormed.lean ====
section
/-! DEFINITION. Which commands can be sent at all: operands within the numbers the spec gives what they name. A meaning does not
rest on it: outside these ranges a command has no effect. -/

namespace Sys2Proof

/-- A function: 64 on each of two ports (R437). -/
def fnOk (fn : Nat) : Bool := decide (fn < 128)
def ctxOk (c : Nat) : Bool := decide (c < 256)
def queueOk (q : Nat) : Bool := decide (q < 16)
def hostPortOk (p : Nat) : Bool := decide (p < 2)
def dieOk (d : Nat) : Bool := decide (d < 8)
def tessOk (d t : Nat) : Bool := decide (d < 8) && decide (t < 128)
def stackOk (k : Nat) : Bool := decide (k < 16)
def bankOk (k b : Nat) : Bool := decide (k < 16) && decide (b < 1024)
def linkDieOk (l : Nat) : Bool := decide (l < 6)
def wosonOk (p : Nat) : Bool := decide (p < 48)
def moduleOk (m : Nat) : Bool := decide (m < 64)
def word32 (v : Nat) : Bool := decide (v < 2 ^ 32)
def idOk (i : CmdId) : Bool := ctxOk i.ctx && queueOk i.q

/-- A BAR0 access that R14 accepts. -/
def accessOk (off size : Nat) : Bool := (size == 4 || size == 8) && off % size == 0 && decide (off + size ≤ 2 ^ 26)

/-- A courier frame whose fields fit theirs (R357). -/
def frameOk (f : Frame) : Bool :=
  decide (f.type < 256) && decide (f.reason < 8) && moduleOk f.omod && decide (f.old < 8) && decide (f.ledger < 65536) &&
  decide (f.gen < 65536) && decide (f.expert < 4096) && decide (f.rrow < 65536) && word32 f.step && word32 f.binref &&
  decide (f.fmt < 256) && decide (f.payload.length < 65536)

/-- A packet whose fields fit theirs (R419): LENW is the payload's length. -/
def packetOk (p : Packet) : Bool :=
  decide (p.ptype < 256) && moduleOk p.dmod && moduleOk p.smod && decide (p.hops < 256) && decide (p.pepoch < 65536) &&
  decide (p.tag < 65536) && decide (p.lenw ≤ 513) && decide (p.status < 256) && decide (p.addr < 2 ^ 34) &&
  (p.payload.length == 32 * p.lenw || p.ptype == 1)

/-- A flit whose header fields fit theirs (R410). -/
def flitOk (f : Flit) : Bool :=
  decide (f.ftype < 8) && decide (f.vc < 4) && decide (f.seq < 4096) && decide (f.ackseq < 4096) && decide (f.crvc < 4) &&
  decide (f.credits < 32) && decide (f.lepoch < 256) && decide (f.vlen < 256) && decide (f.reserved < 256) &&
  f.payload.length == 244

/-- An engine of the part (R362). -/
def engineOk : EngineId → Bool
  | .tessGroup d | .attn d | .dma d => dieOk d
  | .pinned d t => tessOk d t
  | .registrar k => stackOk k
  | .courier l => linkDieOk l
  | .hostCopy p | .hostCtl p => hostPortOk p

/-- What a host may write in configuration space (R437, R440): Max Payload Size 128 B to 512 B, Max Read Request Size 128 B to
4,096 B, BAR4 from 1 GiB to 2 TiB. -/
def hostCfgOk (g : HostCfg) : Bool :=
  decide (g.cto < 16) && decide (7 ≤ g.mps) && decide (g.mps ≤ 9) && decide (7 ≤ g.mrrs) && decide (g.mrrs ≤ 12) &&
  decide (30 ≤ g.bar4) && decide (g.bar4 ≤ 41)

/-- A command whose operands name things that exist. -/
def Instr.wf : Instr → Bool
  | .registerWrite fn off size value => fnOk fn && accessOk off size && decide (value < 2 ^ (8 * size))
  | .rcRead fn off size => fnOk fn && accessOk off size
  | .bar0BadsizeAccess fn off size _ => fnOk fn && decide (0 < size) && decide (off + size ≤ 2 ^ 26) && (decide (size < 4) || off % size != 0)
  | .pairLowRead fn off => fnOk fn && off % 8 == 0 && accessOk off 4
  | .pairHighRead fn off => fnOk fn && off % 8 == 4 && accessOk off 4
  | .pairLowWrite fn off v => fnOk fn && off % 8 == 0 && accessOk off 4 && word32 v
  | .pairHighWrite fn off v => fnOk fn && off % 8 == 4 && accessOk off 4 && word32 v
  | .hiCtxCfgWrite fn c v => fnOk fn && ctxOk c && word32 v
  | .ctxOpen fn c => fnOk fn && ctxOk c
  | .ctxTeardown fn c => fnOk fn && ctxOk c
  | .ctxRelease fn c => fnOk fn && ctxOk c
  | .drainComplete c => ctxOk c
  | .qEnable fn c q v => fnOk fn && ctxOk c && queueOk q && word32 v && decide (2 ^ 31 ≤ v)
  | .qDisable fn c q v => fnOk fn && ctxOk c && queueOk q && decide (v < 2 ^ 31)
  | .qDisableComplete c q => ctxOk c && queueOk q
  | .tailDoorbell fn off size v => fnOk fn && decide (0 < size) && decide (off + size ≤ 2 ^ 24) && decide (v < 2 ^ (8 * size))
  | .headDoorbell fn off size v => fnOk fn && decide (0 < size) && decide (off + size ≤ 2 ^ 24) && decide (v < 2 ^ (8 * size))
  | .commandAccept c q e _ => ctxOk c && queueOk q && (match e with
      | .ok b => b.length == 64
      | .failed _ => true)
  | .engineChoose e _ => engineOk e
  | .killComplete id => idOk id
  | .waitTimeout id => idOk id
  | .commandCommit c q _ => ctxOk c && queueOk q
  | .semWrite id => idOk id
  | .allocSet id => idOk id
  | .descCreate id _ => idOk id
  | .descClear id => idOk id
  | .cacheInvalidate id => idOk id
  | .remoteSignal id => idOk id
  | .scrub id _ => idOk id
  | .runGrid id _ => idOk id
  | .itemClaim d t _ => tessOk d t
  | .itemFinish d t => tessOk d t
  | .nop d t _ => tessOk d t
  | .endI d t _ => tessOk d t
  | .trap d t _ => tessOk d t
  | .br d t _ => tessOk d t
  | .push d t _ => tessOk d t
  | .pop d t _ => tessOk d t
  | .salu d t => tessOk d t
  | .aalu d t => tessOk d t
  | .smul d t => tessOk d t
  | .vint d t => tessOk d t
  | .vcmp d t => tessOk d t
  | .vsel d t => tessOk d t
  | .vfp d t => tessOk d t
  | .vcvt d t => tessOk d t
  | .vred d t => tessOk d t
  | .vsfu d t => tessOk d t
  | .topk d t => tessOk d t
  | .vsplat d t => tessOk d t
  | .vext d t => tessOk d t
  | .vld d t => tessOk d t
  | .vst d t => tessOk d t
  | .xpose d t => tessOk d t
  | .ldtile d t => tessOk d t
  | .matmul d t => tessOk d t
  | .drain d t => tessOk d t
  | .load d t => tessOk d t
  | .store d t => tessOk d t
  | .fence d t => tessOk d t
  | .transferComplete d t k _ => tessOk d t && decide (k < 32)
  | .queueWaitWatchdog d t _ => tessOk d t
  | .instructionBudget d t _ => tessOk d t
  | .tdSparseCtlClear fn d => fnOk fn && dieOk d
  | .attnFwd d p _ => dieOk d && decide (p < 16)
  | .attnMerge d p _ => dieOk d && decide (p < 16)
  | .attnBwdQ d p _ => dieOk d && decide (p < 16)
  | .attnBwdKv d p _ => dieOk d && decide (p < 16)
  | .attnUnitTake d p => dieOk d && decide (p < 16)
  | .tdApCtlClear fn d => fnOk fn && dieOk d
  | .copy id _ => idOk id
  | .quantize id _ => idOk id
  | .dequantize id _ => idOk id
  | .gemv k b _ => bankOk k b
  | .gatherReduce k b _ => bankOk k b
  | .attnPartial k b _ => bankOk k b
  | .optStep k b _ => bankOk k b
  | .convert k b _ => bankOk k b
  | .fill k b _ => bankOk k b
  | .docentTaskStart k a _ => stackOk k && decide (a < 16)
  | .docentTaskComplete k b => bankOk k b
  | .broadcastSlice k => stackOk k
  | .mergePartial k _ => stackOk k
  | .tdDocCtlClear fn k => fnOk fn && stackOk k
  | .cacheOpen id => idOk id
  | .stepReserve id _ => idOk id
  | .stepCommit id _ => idOk id
  | .stepAbort id => idOk id
  | .sbCacheFreeRead fn k => fnOk fn && stackOk k
  | .sbCacheCtlClear fn k => fnOk fn && stackOk k
  | .dispatch id _ => idOk id
  | .combine id _ => idOk id
  | .expertOpen id => idOk id
  | .expertClose id => idOk id
  | .expertGather id _ => idOk id
  | .expertReturn id _ => idOk id
  | .copyFrame l f => linkDieOk l && frameOk f && f.type == 1
  | .verdict l f => linkDieOk l && frameOk f && f.type == 2
  | .result l f => linkDieOk l && frameOk f && f.type == 3
  | .resultAck l f => linkDieOk l && frameOk f && f.type == 4
  | .returnF l f => linkDieOk l && frameOk f && f.type == 5
  | .holdExpiry l _ => linkDieOk l
  | .resultResend l r => linkDieOk l && word32 r
  | .ldCrCtlClear fn l => fnOk fn && linkDieOk l
  | .hcopy id _ _ => idOk id
  | .hiCtxRootWrite fn c v => fnOk fn && ctxOk c && decide (v < 2 ^ 64)
  | .bar4Read p off n _ => hostPortOk p && decide (0 < n) && decide (off + n ≤ 2 ^ 41)
  | .bar4Write p off bs _ => hostPortOk p && decide (0 < bs.length) && decide (off + bs.length ≤ 2 ^ 41)
  | .functionLevelReset fn => fnOk fn
  | .perstAssert p => hostPortOk p
  | .dlDown p => hostPortOk p
  | .vfEnableClear p => hostPortOk p
  | .msixVectorUnmask fn v _ _ => fnOk fn && decide (v < 2048)
  | .d3hotEntry p => hostPortOk p
  | .d0Return p => hostPortOk p
  | .portTrained p n np e => wosonOk p && moduleOk n && decide (np < 64) && decide (e < 256)
  | .blockLockLoss p => wosonOk p
  | .ldWpRetrain fn p => fnOk fn && wosonOk p
  | .ldWpCtlClear fn p => fnOk fn && wosonOk p
  | .flitReceive p f => wosonOk p && flitOk f
  | .gapTimeout g => decide (g < 48)
  | .ackTimeout g => decide (g < 48)
  | .ldPkCtlClear fn l => fnOk fn && linkDieOk l
  | .readReq l p _ => linkDieOk l && packetOk p && p.ptype == 0x01
  | .writeReq l p _ => linkDieOk l && packetOk p && p.ptype == 0x02
  | .signalReq l p => linkDieOk l && packetOk p && p.ptype == 0x03
  | .readResp l p => linkDieOk l && packetOk p && p.ptype == 0x11
  | .writeAck l p => linkDieOk l && packetOk p && p.ptype == 0x12
  | .signalAck l p => linkDieOk l && packetOk p && p.ptype == 0x13
  | .courier l p => linkDieOk l && packetOk p && p.ptype == 0x21
  | .heartbeat l p => linkDieOk l && packetOk p && p.ptype == 0x31
  | .heartbeatSend => true
  | .heartbeatTimeout m => moduleOk m
  | .responseTimeout m => moduleOk m
  | .join l p => linkDieOk l && packetOk p && p.ptype == 0x32
  | .joinAck l p => linkDieOk l && packetOk p && p.ptype == 0x33
  | .joinRepeat m => moduleOk m
  | .pathLost l p => linkDieOk l && packetOk p && p.ptype == 0x34
  | .fenceExpiry l k => linkDieOk l && decide (k < 4096)
  | .powerOn b => decide (b.straps < 2 ^ 17)
  | .railsStable => true
  | .bootTemperatureWaitEnd => true
  | .deviceResetRequest fn v => fnOk fn && word32 v
  | .hd0HeartbeatTimeout => true
  | .quiescentPoint => true
  | .pllRelockComplete => true
  | .overlaySwitchRequest fn v => fnOk fn && word32 v
  | .remapRequest fn k v => fnOk fn && stackOk k && word32 v
  | .remapApply fn v => fnOk fn && word32 v
  | .remapSaveComplete => true
  | .persistSaveComplete => true
  | .getInfo fn n => fnOk fn && decide (n < 8192)
  | .attest fn n => fnOk fn && decide (n < 8192)
  | .getCert fn n => fnOk fn && decide (n < 8192)
  | .updateBegin fn n => fnOk fn && decide (n < 8192)
  | .updateData fn n => fnOk fn && decide (n < 8192)
  | .updateEnd fn n => fnOk fn && decide (n < 8192)
  | .updateAbort fn n => fnOk fn && decide (n < 8192)
  | .updateHoldTimeout => true
  | .requestUpdate n => word32 n
  | .requestFirmwareData off _ => word32 off
  | .verifyComplete => true
  | .applyComplete => true
  | .cancelUpdate => true
  | .activateFirmware => true
  | .setEventReceiver e => decide (e < 256)
  | .setEndpointId e => decide (e < 256)
  | .entdaa a => decide (a < 128)
  | .sensorRefresh => true
  | .sensorSample a d r => if a then decide (d < 256) && r.length == 4 else decide (d < 32) && decide (r.length ≤ 24)
  | .sensorFail a d n => if a then decide (d < 256) && decide (n < 4) else decide (d < 32) && decide (n < 24)
  | .coolDownEnd => true
  | .thermalAllowanceUpdate => true
  | .powerAllowanceUpdate d w => dieOk d && decide (w < 65536)
  | .powerCalibration p c => decide (p < 65536) && decide (c < 65536)
  | .heldWriteExpiry k a => stackOk k && decide (a < 16)
  | .docentPauseExpiry k b => bankOk k b
  | .refreshOperation k b => bankOk k b
  | .targetedRefresh k b r => bankOk k b && decide (r < 49152)
  | .railWarningCross r mv => decide (r < 7) && decide (mv < 65536)
  | .supplyRecovery => true
  | .railResetCross r mv => decide (r < 7) && decide (mv < 65536)
  | .railPowerLoss r mv => decide (r < 7) && decide (mv < 65536)
  | .patinaMeasurement a b => a.all (fun x => decide (x.1 < 32)) && b.all fun x => decide (x.1 < 32)
  | .patinaHeaderSave => true
  | .g2Entry d => decide (d < 442)
  | .g2Wake d => decide (d < 442)
  | .scLpCtlWrite fn v => fnOk fn && word32 v
  | .resyncRequest x _ => decide (x.index < 32)
  | .resyncAck x => decide (x.index < 32)
  | .tickSnapshot fn v => fnOk fn && word32 v
  | .snapshotMessage d => decide (d < 32)
  | .eventRecord d c a b => decide (d < 32) && decide (c < 65536) && word32 a && word32 b
  | .eventStore d => decide (d < 32)
  | .evtSlotRead fn i => fnOk fn && decide (i < 4096)
  | .tdEccCtlClear fn b => fnOk fn && decide (b < 2 ^ 26)
  | .hostLinkUp p r w _ => hostPortOk p && decide (r < 6) && decide (1 ≤ w) && decide (w ≤ 16)
  | .busMasterEnableWrite fn g => fnOk fn && hostCfgOk g.rest
  | .vfEnableSet p n => hostPortOk p && decide (n < 64)
  | .atsInvalidation fn lo hi => fnOk fn && decide (lo ≤ hi)
  | .completionTimeout c q _ => ctxOk c && queueOk q
  | .railWarningReturn r mv => decide (r < 7) && decide (mv < 65536)
  | .shareAccountCrossing e c => engineOk e && ctxOk c
  | .boundaryScanInstruction _ => true

end Sys2Proof
end

