-- ==== Sys2Proof/Tests/Slice0.lean ====
section
/-! SUPPORT. Small tests: each witness shows a state and operands that meet a statement's premises together (one for each of its
clauses), each test one effect of one command, worked out by hand from the rule its comment names. -/

namespace Sys2Proof.Tests

set_option Elab.async false

open Sys2Proof Sys2Proof.Machine

/-- A module in READY with context 0 open on the PF of port 0, Bus Master Enable set, zero memory, and two cached translations of that
context: the first mebibyte lies in bank 0 of stack 0, the second at striped address 0. -/
def base : State :=
  { boot := { st := .ready, wait := .none }
    ctxs := [(0, { st := .opened, share := 4, semCount := 64 })]
    funcs := [(0, { busMaster := true })]
    tlb := [⟨0, 0, 2 ^ 20, 2 ^ 41, true⟩, ⟨0, 2 ^ 20, 2 ^ 20, 0, true⟩] }

/-- The 64 bytes of a command from its fields, each an offset, a length and a value. -/
def raw (fs : List (Nat × Nat × Nat)) : List Byte :=
  fs.foldl (fun l f => l.take f.1 ++ leBytes f.2.2 f.2.1 ++ l.drop (f.1 + f.2.1)) (List.replicate 64 0)

/-- A command of queue 0 of context 0 that runs on some engines. -/
def cmd (fs : List (Nat × Nat × Nat)) (ds : List (Nat × Desc)) (es : List EngineId) : Cmd :=
  { id := ⟨0, 0, 0⟩, raw := raw fs, descs := ds, engines := es, startedOn := es, stage := .running, hasStarted := true, stamp := 1 }

/-- A contiguous tensor of one dimension. -/
def vec (f : Fmt) (base n : Nat) (bank : Bool) : Desc :=
  { writable := true, bank := bank, cg64 := false, fmt := f, base := base, size := [n], stride := [1], alloc := 0 }

/-- What a meaning answers, where it answers a next state. -/
def after (o : Ans) : State := match o with
  | .next t => t
  | _ => {}

/-- A read that answers, and what is asked of what it answers. -/
def okIs {ε β : Type} (x : Except ε β × State) (p : β → State → Bool) : Bool := match x with
  | (.ok b, u) => p b u
  | _ => false

/-- `okIs` gives the equation that the statements assume. -/
theorem okIs_eq {ε β : Type} {x : Except ε β × State} {p : β → State → Bool} (h : okIs x p = true) :
    ∃ b u, x = (.ok b, u) ∧ p b u = true := by
  obtain ⟨e, u⟩ := x
  cases e with
  | error f => cases h
  | ok b => exact ⟨b, u, rfl, h⟩

/-- Context 0 of `base` with one command accepted on queue 0. -/
def oneCmd (c : Cmd) : State := { base with queues := [(0, { enable := true, log2 := 4, sqHead := 1, sqTail := 1, accepted := 1 })], cmds := [c] }
/- ---- registers, contexts, queues ---- -/

theorem wit_StepRunsTheFrontCommand : base.pending = [] := rfl
theorem wit_ClockPeriodMovesTimeOnly : base.pending = [] ∧ .dma 0 ∈ base.allEngines ∧ (base.ctx 0).share ≠ 0 ∧ (base.ctx (257 % 256)).share = 0 ∧
    0 ∈ base.runningDies ∧ 0 ∉ State.reset.runningDies ∧ base.hports.any (·.2.mbBusy) = false ∧ base.boot.burning = false ∧
    ({ base with boot := { base.boot with burning := true, floor := 1 } } : State).boot.counter < 1 ∧
    (({ base with hports := [(1, { mbBusy := true, mbWait := 2 })] } : State).hport 1).mbBusy = true ∧
    1 < (({ base with hports := [(1, { mbBusy := true, mbWait := 2 })] } : State).hport 1).mbWait := by decide +kernel
theorem wit_StepKeepsSettled : base.Settled ∧ step base = .next base.tick := ⟨⟨.inl rfl, rfl, by decide⟩, rfl⟩
theorem wit_StepKeepsMemoryCanonical : Memory.wf base.mem = true ∧ step base = .next base.tick := ⟨rfl, rfl⟩
theorem wit_ExecRefusesOnlyTestInstructions : base.locked = false ∧ base.Calm := by decide +kernel
theorem wit_ClearCommandsZeroTheirCounters : base.Calm ∧ base.regsOpen 0 = true ∧ isPf 0 = true ∧ base.domainOff (portDomain 47) = false ∧
    31 ≠ hd0Die ∧ ({ base with hports := [(0, { numVf := 1 })] } : State).regsOpen 1 = true ∧ isPf 1 = false := by decide +kernel
theorem wit_RegisterReadAnswersAndClears : base.Calm ∧ base.barOpen 0 = true ∧ barAccess 0 8 = true ∧
    [hiBase + 0x160, hiBase + 0x5000 + 4 * 255, blockOfDie 31 + 0xD00C, scBase + 0x620].all (fun o => barAccess o 4 && base.sees 0 o) = true := by decide +kernel
/-- A VF sees no register of HD1. -/
theorem wit_RegisterReadAnswersAndClears_vf : let s : State := { base with hports := [(0, { numVf := 1 })] }
    s.barOpen 1 = true ∧ barAccess scBase 4 = true ∧ s.sees 1 scBase = false := by decide +kernel
theorem wit_RegisterWriteByAccessType : base.Calm ∧ base.barOpen 0 = true ∧ base.mayWrite 0 (hiBase + 0x4C00 + 4 * 255) = true ∧
    base.mayWrite 0 (hiBase + 0x4400 + 4 * 255) = true ∧ base.mayWrite 0 (scBase + 0x600 + 4 * 6) = true ∧ base.mayWrite 0 (tdBase 7 + 0x3004) = true ∧
    base.mayWrite 0 (tdBase 7 + 0x4000 + 0x40 * 127) = true ∧ 127 < base.tessPerCd ∧ bit (2 ^ 31 % 2 ^ 32) 31 = true := by decide +kernel
theorem wit_RegisterWriteByAccessType_none : barAccess 0x00300000 4 = true ∧ blockAt 0x00300000 = (.none, 0) ∧ barAccess (hiBase + 0x4C00) 8 = true ∧
    isPair (hiBase + 0x4C00) = false ∧ ({ base with hports := [(0, { numVf := 1 })] } : State).mayWrite 1 scBase = false := by decide +kernel
theorem wit_PairsAreCapturedAndBadSizesCounted : let o := hiBase + 0x8000 + 0x20 * 4095
    base.Calm ∧ base.barOpen 0 = true ∧ isPair o = true ∧ base.sees 0 o = true ∧ base.mayWrite 0 o = true ∧ isPair (o + 4 - 4) = true ∧ (o + 4) % 8 = 4 ∧
    base.mayWrite 0 (o + 4) = true ∧ base.mayConfigure 0 (4095 / 16) = true ∧ (base.queue 4095).enable = false ∧ (base.queue 4095).disabling = false := by
  decide +kernel
/-- Function 1 of port 0 sees and writes no pair of context 0, which is function 0's. -/
theorem wit_PairsAreCapturedAndBadSizesCounted_vf : let s : State := { base with hports := [(0, { numVf := 1 })] }
    s.barOpen 1 = true ∧ isPair (hiBase + 0x8000) = true ∧ s.sees 1 (hiBase + 0x8000) = false ∧ s.mayWrite 1 (hiBase + 0x8000) = false ∧
    s.sees 1 (hiBase + 0x8004) = false ∧ s.mayWrite 1 (hiBase + 0x8004) = false := by decide +kernel
/-- A 16-bit access at the end of BAR0, and a misaligned 64-bit one. -/
theorem wit_badSize : base.barOpen 0 = true ∧ 2 ^ 26 - 2 + 2 ≤ 2 ^ 26 ∧ 4 % 8 ≠ 0 := by decide +kernel
/-- R12: a read answers the port's UNPOP counter and clears it. -/
theorem test_rcRead : (after (exec (.rcRead 0 (hiBase + 0x108) 4) { base with hports := [(0, { unpop := 7 })] })).out = [.regRead 0 (hiBase + 0x108) 4 7] ∧
    ((after (exec (.rcRead 0 (hiBase + 0x108) 4) { base with hports := [(0, { unpop := 7 })] })).hport 0).unpop = 0 := by decide +kernel
/-- R16: a 16-bit read counts in BADSIZE and answers 0. -/
theorem test_badSize : ((after (exec (.bar0BadsizeAccess 0 0 2 false) base)).hport 0).badsize = 1 := by decide +kernel
/-- R167: BUDGET_X is written as it stands. -/
theorem test_registerWrite : ((after (exec (.registerWrite 0 (tdBase 3 + 0x3004) 4 5) base)).die 3).budX = 5 := by decide +kernel
/-- R15 and R448: a queue's SQ_BASE is written in two halves; bits 11:0 read 0. -/
theorem test_pairWrite : ((after (exec (.pairHighWrite 0 (hiBase + 0x8004) 1) (after (exec (.pairLowWrite 0 (hiBase + 0x8000) 0x12345) base)))).queue 0).sqBase =
    0x100012000 := by decide +kernel
/-- R15: the low half captures the high half for the next read of it. -/
theorem test_pairRead : let s : State := { base with queues := [(0, { sqBase := 0x100012000 })] }
    (after (exec (.pairHighRead 0 (hiBase + 0x8004)) { after (exec (.pairLowRead 0 (hiBase + 0x8000)) s) with queues := [] })).out =
    [.regRead 0 (hiBase + 0x8000) 4 0x12000, .regRead 0 (hiBase + 0x8004) 4 1] := by decide +kernel
/-- R231: TD_SPARSE_CTL.CLEAR zeroes the die's counters. -/
theorem test_sparseClear : ((after (exec (.tdSparseCtlClear 0 2) { base with dies := [(2, { groups := 9, mitems := 3 })] })).die 2).groups = 0 := by decide +kernel

/-- R68, R366: PRIORITY and SHARE are bits 1:0 and 5:2; a sum above 16 leaves SHARE. -/
theorem test_ctxCfg : let s : State := { base with ctxs := [(0, { share := 12 }), (1, { share := 2 })] }
    ((after (exec (.hiCtxCfgWrite 0 1 (4 * 4 + 3)) s)).ctx 1).share = 4 ∧ ((after (exec (.hiCtxCfgWrite 0 1 (4 * 4 + 3)) s)).ctx 1).prio = 3 ∧
    ((after (exec (.hiCtxCfgWrite 0 1 (4 * 5)) s)).ctx 1) = { share := 2, shareRefused := true } := by decide +kernel
theorem wit_ShareWriteKeepsTheSumWithinSixteen : base.Calm ∧ base.regsOpen 0 = true ∧ isPf 0 = true ∧ base.shareBut 1 + bits (4 * 12) 5 2 ≤ 16 ∧
    16 < base.shareBut 1 + bits (4 * 13) 5 2 ∧ base.shareBut 256 ≤ 16 ∧ isPf 1 = false ∧
    ({ base with hports := [(0, { numVf := 1 })] } : State).regsOpen 1 = true := by decide +kernel
theorem wit_ContextsMoveAndDrain : base.Calm ∧ base.mayCommand 0 0 = true ∧ base.mayCommand 0 255 = true ∧ (base.ctx 0).st = .opened ∧ (base.ctx 255).st = .closed ∧
    ({ base with ctxs := [(255, { st := .tornDown })] } : State).mayCommand 0 255 = true ∧ base.mayCommand 1 0 = false := by decide +kernel
theorem wit_ContextsMoveAndDrain_drain : let s : State := { base with ctxs := [(0, { st := .draining })] }
    let f : State := { base with ctxs := [(0, { st := .draining, flr := true })] }
    s.Calm ∧ s.drained 0 = true ∧ (s.drainEnd 0).resetWanted = none ∧ f.drained 0 = true ∧ (f.drainEnd 0).resetWanted = none ∧ base.drained 0 = false := by decide +kernel
/-- R70: the three operations of HI_CTX_CMD and the end of a drain. -/
theorem test_ctxOpen : ((after (exec (.ctxOpen 0 5) base)).ctx 5).st = .opened := by decide +kernel
theorem test_ctxTeardown : ((after (exec (.ctxTeardown 0 0) base)).ctx 0).st = .draining ∧ ((after (exec (.ctxTeardown 0 0) base)).ctx 0).cause = .hostRequest := by
  decide +kernel
theorem test_ctxRelease : ((after (exec (.ctxRelease 0 0) { base with ctxs := [(0, { st := .tornDown })], descs := [(1, some (vec .fp32 0 4 true))] })).desc 1) = none := by
  decide +kernel
theorem test_drainComplete : ((after (exec (.drainComplete 0) { base with ctxs := [(0, { st := .draining })] })).ctx 0).st = .tornDown := by decide +kernel

/-- A queue of 16 entries of context 0 with one entry to accept. -/
def q0 : Queue := { enable := true, log2 := 4, sqTail := 1 }
theorem wit_QueuesAndTheirDoorbells : base.Calm ∧ base.regsOpen 0 = true ∧ base.mayConfigure 0 0 = true ∧ bit (2 ^ 31 + 4) 31 = true ∧ bit 16 31 = false ∧
    (base.queue 15).enable = false ∧ (base.queue 15).disabling = false ∧ (base.ctx 0).st = .opened ∧ (2 ^ 31 + 4) % 32 = 4 ∧ (2 ^ 31 + 17) % 32 = 17 := by decide +kernel
theorem wit_QueuesAndTheirDoorbells_states : let s : State := { base with queues := [(0, q0), (1, { disabling := true })] }
    (s.queue 0).enable = true ∧ (s.queue 1).enable = false ∧ (s.queue 1).disabling = true ∧ s.owesNone 0 1 = true ∧
    ({ base with ctxs := [(0, { st := .tornDown })] } : State).mayConfigure 0 0 = true := by decide +kernel
theorem wit_QueuesAndTheirDoorbells_bells : let s : State := { base with queues := [(0, { q0 with cqTail := 2 })] }
    s.regsOpen 0 = true ∧ s.postedLanded 0 = true ∧ s.slotCtx 0 0 = some 0 ∧ (s.ctx 0).port = 0 / 64 ∧ s.fnEnabled (s.ctx 0).fn = true ∧
    s.bellOk 0 0 15 false = true ∧ s.bellOk 0 0 2 true = true ∧ s.bellOk 0 0 16 false = false ∧ s.bellOk 0 0 3 true = false ∧
    headFirst 2 = false ∧ headFirst 6 = true := by decide +kernel
/-- A slot without a context; one of a function that is not enabled; a posted write that is held. -/
theorem wit_QueuesAndTheirDoorbells_others : base.slotCtx 0 256 = none ∧
    (let s : State := { base with ctxs := [(0, { st := .opened, func := 3 })], queues := [(0, { q0 with cqTail := 2 })] }
     s.slotCtx 0 0 = some 0 ∧ s.bellOk 0 0 15 false = true ∧ s.fnEnabled (s.ctx 0).fn = false) ∧
    ({ base with held := [⟨0, 0, 0x40, [1], .host 0, []⟩] } : State).postedLanded 0 = false := by decide +kernel
/-- R450: SQ TAIL moves; an index behind TAIL is dropped and counted. -/
theorem test_tailDoorbell : let s : State := { base with queues := [(0, { q0 with sqTail := 3 })] }
    ((after (exec (.tailDoorbell 0 0 4 5) s)).queue 0).sqTail = 5 ∧ ((after (exec (.tailDoorbell 0 0 4 2) s)).hport 0).dbdrop = 1 := by decide +kernel
theorem test_headDoorbell : let s : State := { base with queues := [(0, { q0 with cqTail := 3 })] }
    ((after (exec (.headDoorbell 0 4 4 3) s)).queue 0).cqHead = 3 := by decide +kernel
/-- R449: an enable needs LOG2SIZE from 4 to 16; a disable leaves DISABLING until no record is owed. -/
theorem test_qEnable : ((after (exec (.qEnable 0 0 0 (2 ^ 31 + 4)) base)).queue 0).enable = true ∧ ((after (exec (.qEnable 0 0 0 (2 ^ 31 + 3)) base)).hport 0).qcfg = 1 := by
  decide +kernel
theorem test_qDisable : ((after (exec (.qDisable 0 0 0 0) { base with queues := [(0, q0)] })).queue 0).disabling = true := by decide +kernel
theorem test_qDisableComplete : ((after (exec (.qDisableComplete 0 0) { base with queues := [(0, { disabling := true, sqTail := 3 })] })).queue 0).sqTail = 0 := by decide +kernel

/- ---- acceptance, engines, commits, control commands ---- -/

/-- SEM_WRITE of semaphore 5 with value 9, with its record in interrupt-free form. -/
def semRaw : List Byte := raw [(0, 1, 7), (1, 1, 2), (4, 4, 0x11223344), (0x20, 2, 0x8005), (0x24, 4, 9)]
/-- Context 0 of `base` with one entry in queue 0. -/
def oneEntry : State := { base with queues := [(0, q0)] }
theorem wit_AcceptanceConsumesOneEntry : let u := oneEntry.environ {}
    oneEntry.Calm ∧ oneEntry.stalled = false ∧ u.mayAccept 0 0 = true ∧ u.readEntry 0 0 (.ok semRaw) = (some semRaw, u) ∧ u.stalled = false ∧
    u.readEntry 0 0 (.failed 0) = (none, (u.readEntry 0 0 (.failed 0)).2) ∧ (u.readEntry 0 0 (.failed 0)).2.stalled = false ∧ (base.environ {}).mayAccept 0 0 = false ∧
    (u.ctx 0).st ≠ .draining ∧ okIs (u.check 0 semRaw) (fun ds v => v.roomFor (v.enginesOf 0 semRaw ds [])) = true ∧ cls semRaw ≠ 4 := by
  decide +kernel
/-- A semaphore outside the context's range (check 8); a draining context; a host control queue with 2,048 commands. -/
theorem wit_AcceptanceConsumesOneEntry_ends :
    (match (oneEntry.check 0 (raw [(0, 1, 7), (1, 1, 2), (0x20, 2, 0x8040)])).1 with
      | .error _ => true
      | .ok _ => false) = true ∧
    ({ oneEntry with ctxs := [(0, { st := .draining })] } : State).mayAccept 0 0 = true ∧
    (let s : State := { oneEntry with cmds := List.replicate 2048 { cmd [(0, 1, 7)] [] [.hostCtl 0] with id := ⟨0, 1, 0⟩ } }
     s.mayAccept 0 0 = true ∧ okIs (s.check 0 semRaw) (fun ds v => !v.roomFor (v.enginesOf 0 semRaw ds [])) = true ∧
     (s.acceptRaw 0 0 semRaw).stalled = false) := by decide +kernel
/-- R77: SQ HEAD advances, and the command is queued for the host control engine. -/
theorem test_commandAccept : let t := after (exec (.commandAccept 0 0 (.ok semRaw) {}) oneEntry)
    (t.queue 0).sqHead = 1 ∧ t.cmds.map (fun c => (c.id.pos, c.engines, c.stage)) = [(0, [.hostCtl 0], .queued)] := by decide +kernel
/-- R77: an undefined opcode ends with COMMAND_MALFORMED. -/
theorem test_commandAccept_malformed : (after (exec (.commandAccept 0 0 (.ok (raw [(0, 1, 7), (1, 1, 9)])) {}) oneEntry)).cmds.map (fun c => c.ending.map (·.status)) =
    [some .commandMalformed] := by decide +kernel

/-- A ready COPY of context c. -/
def ready (c : Nat) : Cmd := { id := ⟨c, 0, 0⟩, raw := raw [(0, 1, 3), (1, 1, 1)], descs := [], engines := [.dma 0], waitMet := true, limitOn := true, readyAt := some 0 }
/-- Four running COPYs of context 1, which has no share, and the ready one of context 0, which has one. -/
def crowded : State := { base with ctxs := [(0, { st := .opened, share := 4 }), (1, { st := .opened })]
                                   cmds := ready 0 :: (List.range 4).map fun i => { ready 1 with id := ⟨1, 1, i⟩, stage := .running, startedOn := [.dma 0], hasStarted := true, readyAt := none } }
theorem wit_EngineStartsOrKills : base.Calm ∧ ({ base with quiesce := true } : State).mayChoose (.dma 0) = false ∧ (({ base with cmds := [ready 0] } : State).environ {}).mayChoose (.dma 0) = true ∧
    (let u : State := { base with cmds := [ready 0] }
     leastBy (u.rank (.dma 0)) ((u.candidates (.dma 0)).filter (u.canStart (.dma 0))) = some (ready 0) ∧ u.cmd (ready 0).id = some (ready 0) ∧
     (u.startOn (.dma 0) (ready 0)).stalled = false ∧ cls (ready 0).raw ≠ 5) := by decide +kernel
theorem wit_EngineStartsOrKills_kill : let u := crowded
    leastBy (u.rank (.dma 0)) ((u.candidates (.dma 0)).filter (u.canStart (.dma 0))) = none ∧
    leastBy (u.rank (.dma 0)) ((u.candidates (.dma 0)).filter fun c => (u.victim (.dma 0) c).isSome) = some (ready 0) ∧
    leastBy (u.rank (.dma 0)) ((u.candidates (.dma 0)).filter fun c => !u.canStart (.dma 0) c && (u.victim (.dma 0) c).isSome) = some (ready 0) ∧
    (u.victim (.dma 0) (ready 0)).map (·.id.ctx) = some 1 ∧ ((u.victim (.dma 0) (ready 0)).bind fun y => u.cmd y.id) = u.victim (.dma 0) (ready 0) ∧
    (u.ctx 0).share ≠ 0 := by decide +kernel
theorem test_engineChoose : (after (exec (.engineChoose (.dma 0) {}) { base with cmds := [ready 0] })).cmds.map (·.stage) = [.running] := by decide +kernel
/-- R365, R371: the kill is counted in the killed command's context. -/
theorem test_shareAccountCrossing : ((after (exec (.shareAccountCrossing (.dma 0) 0) crowded)).ctx 1).kills = 1 := by decide +kernel
/-- A killed COPY, and a queued one whose wait is unmet. -/
def killed : Cmd := { ready 0 with stage := .killing }
def waits : Cmd := { ready 0 with raw := raw [(0, 1, 3), (1, 1, 1), (0x14, 2, 0x8003), (0x18, 4, 1), (0x1E, 2, 1)], waitMet := false, readyAt := none }
theorem wit_KillsAndWaitsEnd : ({ base with cmds := [killed] } : State).Calm ∧ ({ base with cmds := [killed] } : State).cmd ⟨0, 0, 0⟩ = some killed ∧ killed.stage = .killing ∧ (ready 0).stage ≠ .killing ∧
    base.mayTimeOut waits = true ∧ base.mayTimeOut (ready 0) = false := by decide +kernel
theorem test_killComplete : (after (exec (.killComplete ⟨0, 0, 0⟩) { base with cmds := [killed] })).cmds.map (·.stage) = [.queued] := by decide +kernel
/-- R89: RESULT is the semaphore's value. -/
theorem test_waitTimeout : (after (exec (.waitTimeout ⟨0, 0, 0⟩) { base with cmds := [{ waits with raw := raw [(0, 1, 3), (1, 1, 1), (0x14, 2, 0x8003), (0x18, 4, 4), (0x1E, 2, 1)] }], sems := [(3, 2)] })).cmds.map (·.ending) =
    [some { status := .waitTimeout, r0 := 2 }] := by decide +kernel

/-- A finished command with one byte planned, good or failing. -/
def finished (e : Ending) : Cmd := { cmd [(0, 1, 3), (1, 1, 1), (0x16, 2, 0x8002), (0x1C, 2, 5)] [] [.dma 0] with stage := .finished, ending := some e, writes := [(2 ^ 41, 0xAB)] }
theorem wit_CommitAppliesAllAtOnce : let u := oneCmd (finished okEnd)
    let v := oneCmd (finished { status := .indexOutOfRange })
    u.Calm ∧ (u.environ {}).oldest 0 0 = some (finished okEnd) ∧ u.cmd ⟨0, 0, 0⟩ = some (finished okEnd) ∧ u.mayCommit (finished okEnd) = true ∧ (u.ctx 0).flr = false ∧
    (u.queue 0).cqDev = false ∧ okEnd.good = true ∧ (finished okEnd).effects = [] ∧ (finished okEnd).isStep = false ∧
    v.mayCommit (finished { status := .indexOutOfRange }) = true ∧ (Ending.good { status := .indexOutOfRange }) = false ∧
    ¬ (cls (finished okEnd).raw = 5 ∧ opc (finished okEnd).raw = 1) ∧ (u.environ {}).poisonHit (finished okEnd).writes = none := by decide +kernel
/-- A merge into a poisoned granule; a context that a Function Level Reset drains; a completion queue in device memory. -/
theorem wit_CommitAppliesAllAtOnce_more : let c := finished { status := .indexOutOfRange }
    let q : Queue := { enable := true, cqDev := true, log2 := 4, sqHead := 1, sqTail := 1, accepted := 1, cqBase := 0x4000 }
    let d : State := { oneCmd c with queues := [(0, q)] }
    let f : State := { oneCmd c with ctxs := [(0, { st := .draining, flr := true })] }
    ({ oneCmd (finished okEnd) with mem := { bad := [2 ^ 36] } } : State).poisonHit (finished okEnd).writes = some (2 ^ 36) ∧
    f.mayCommit c = true ∧ (f.ctx 0).flr = true ∧ d.mayCommit c = true ∧ (d.queue 0).cqDev = true ∧
    okIs (({ d with mem := d.mem.unveil c.stamp true } : State).resolve 0 (d.recordVa c.id) true { bank := none, remote := false }) (fun _ _ => true) = true := by decide +kernel
/-- R83, R85, R90: the write lands and the semaphore is signalled; of a failing command neither. -/
theorem test_commandCommit : (after (exec (.commandCommit 0 0 {}) (oneCmd (finished okEnd)))).mem.read (2 ^ 41) = 0xAB ∧
    (after (exec (.commandCommit 0 0 {}) (oneCmd (finished okEnd)))).sem 2 = 5 := by decide +kernel
theorem test_commandCommit_fails : (after (exec (.commandCommit 0 0 {}) (oneCmd (finished { status := .indexOutOfRange })))).sem 2 = 0 ∧
    ((after (exec (.commandCommit 0 0 {}) (oneCmd (finished { status := .indexOutOfRange })))).queue 0).written = 1 := by decide +kernel

/-- A running control command. -/
def ctl (op : Nat) (fs : List (Nat × Nat × Nat)) : Cmd := cmd ([(0, 1, 7), (1, 1, op)] ++ fs) [(0x0A, vec .fp32 0x1000 32 true)] [.hostCtl 0]
def semC : Cmd := ctl 2 [(0x20, 2, 0x8005), (0x24, 4, 9)]
def allocC : Cmd := ctl 3 [(0x20, 2, 1023), (0x22, 2, 1), (0x30, 8, 0x1000)]
/-- The image of R198 of 32 FP32 elements at 0x1000. -/
def image : List Byte := leBytes (2 ^ 63 + 2 ^ 62 + 1 * 2 ^ 52 + 0x1000) 8 ++ leBytes 32 4 ++ leBytes 0 20 ++ leBytes 1 5 ++ leBytes 0 25 ++ leBytes 0 2
def createC : Cmd := ctl 1 [(0x20, 2, 4095), (0x28, 8, 0x2000)]
def withImage : State := { oneCmd createC with mem := ({} : Mem).writeAll (spread (2 ^ 41 + 0x2000) image), allocs := [(0, some ⟨true, true, 0, 2 ^ 20⟩)] }
def clearC : Cmd := ctl 4 [(0x20, 2, 7)]
def discardC : Cmd := ctl 6 [(0x0A, 2, 0x8000)]
def signalC : Cmd := ctl 7 [(0x20, 1, 1)]
theorem wit_ControlCommandsActInTheirTurn : (let s := oneCmd semC
      s.Calm ∧ s.commitsNow semC ∧ s.running semC.id 7 2 = some semC) ∧
    (oneCmd allocC).running allocC.id 7 3 = some allocC ∧ (oneCmd clearC).running clearC.id 7 4 = some clearC ∧
    (oneCmd discardC).running discardC.id 7 6 = some discardC ∧ withImage.running createC.id 7 1 = some createC ∧
    okIs ((withImage.environ {}).readBytes (createC.eng none) (u64 createC.raw 0x28) 64 { bank := none, remote := false })
      (fun b u => !u.stalled && (u.imageFail 0 b.1).isNone) = true := by decide +kernel
theorem wit_ControlCommandsActInTheirTurn_held : let s := { oneCmd { semC with id := ⟨0, 0, 1⟩ } with cmds := [ready 0, { semC with id := ⟨0, 0, 1⟩ }] }
    let p := { oneCmd signalC with peers := [(1, { reachable := true })] }
    s.earlierDone ⟨0, 0, 1⟩ = false ∧ s.running ⟨0, 0, 1⟩ 7 2 = some { semC with id := ⟨0, 0, 1⟩ } ∧ p.running signalC.id 7 7 = some signalC ∧ signalC.acked = false ∧
    signalC.unacked = 0 ∧ p.earlierDone signalC.id = true ∧ (p.peer (u8 signalC.raw 0x20)).reachable = true ∧
    ((oneCmd signalC).peer (u8 signalC.raw 0x20)).reachable = false ∧ ({ oneCmd signalC with funcs := [] } : State).recordReady signalC.id = false := by decide +kernel
theorem test_semWrite : (after (exec (.semWrite ⟨0, 0, 0⟩) (oneCmd semC))).sem 5 = 9 := by decide +kernel
theorem test_allocSet : (after (exec (.allocSet ⟨0, 0, 0⟩) (oneCmd allocC))).alloc 1023 = some ⟨false, false, 0, 0x1000⟩ := by decide +kernel
theorem test_descCreate : (after (exec (.descCreate ⟨0, 0, 0⟩ {}) withImage)).desc 4095 = some (vec .fp32 0x1000 32 true) := by decide +kernel
theorem test_descClear : (after (exec (.descClear ⟨0, 0, 0⟩) { oneCmd clearC with descs := [(7, some (vec .fp32 0 4 true))] })).desc 7 = none := by decide +kernel
/-- R391: the line of the extent's first byte is gone, another stays. -/
theorem test_cacheInvalidate : let s := { oneCmd discardC with dcache := [((2 ^ 41 + 0x1000) / 128, some []), ((2 ^ 41 + 0x2000) / 128, some [])] }
    (after (exec (.cacheInvalidate ⟨0, 0, 0⟩) s)).dcache.map (·.1) = [(2 ^ 41 + 0x2000) / 128] := by decide +kernel
theorem test_remoteSignal : (after (exec (.remoteSignal ⟨0, 0, 0⟩) { oneCmd signalC with peers := [(1, { reachable := true })] })).reqs.map (·.kind) = [.signal] := by decide +kernel

/- ---- work items and the two instruction streams ---- -/

/-- A striped writable FP32 tensor of 32 columns and 4 rows at the second mebibyte. -/
def gridD : Desc := { writable := true, bank := false, cg64 := false, fmt := .fp32, base := 2 ^ 20, size := [32, 4], stride := [1, 32], alloc := 0 }
/-- A RUN_GRID of nx items of die 0 in some state of its work. -/
def gridC (nx : Nat) (g : Grid) : Cmd :=
  { cmd [(0, 1, 1), (1, 1, 1), (8, 2, 0x8000), (0x20, 8, 0x100), (0x28, 2, nx), (0x2A, 2, 1), (0x2C, 2, 1), (0x30, 4, 77)] [(0x08, gridD)] [.tessGroup 0] with work := .grid g }
/-- The work of a grid whose one item runs on tessera 0. -/
def running1 : Grid := { start := 1, placed := true, items := [0], running := [0], ran := [0] }
/-- Tessera 0 of die 0 runs an item with word w at X and v at A. -/
def item (w v : W128) (t : Tess) : State :=
  { base with
    cmds := [gridC 1 running1]
    tess := [(0, { t with st := .running, item := some ⟨⟨0, 0, 0⟩, 1, 0⟩, mustClear := false, lastCtx := some 0, loadedFor := some (⟨0, 0, 0⟩, 1)
                          ximem := [(0, w)], aimem := [(0, v)] })] }
/-- An instruction word from its fields, each a lowest bit and a value (R137 to R157). -/
def word (fs : List (Nat × Nat)) : W128 := BitVec.ofNat 128 (fs.foldl (fun a f => a + f.2 * 2 ^ f.1) 0)
def nopW : W128 := word [(0, 1)]

/-- X issues word w; the second premise of `xIssues` holds with it. -/
def xOk (w : W128) (t : Tess) : Bool := match (item w nopW t).sim 0 0 with
  | some (c, m0) => match m0.xTurn (opcode w) with
    | .go m => (m.aHaltNow c).isNone
    | _ => false
  | none => false
theorem xOk_issues {w : W128} {t : Tess} (h : xOk w t = true) : ∃ c m, (item w nopW t).xIssues 0 0 (opcode w) c m := by
  unfold xOk at h
  split at h
  · split at h
    · exact ⟨_, _, rfl, _, ‹_›, ‹_›, Option.isNone_iff_eq_none.mp h⟩
    · cases h
  · cases h
/-- A issues word v. -/
def aOk (v : W128) (t : Tess) : Bool := match (item nopW v t).sim 0 0 with
  | some (c, m0) => match m0.aTurn c (opcode v) with
    | .go m => m.xHaltNow.isNone
    | _ => false
  | none => false
theorem aOk_issues {v : W128} {t : Tess} (h : aOk v t = true) : ∃ c m, (item nopW v t).aIssues 0 0 (opcode v) c m := by
  unfold aOk at h
  split at h
  · split at h
    · exact ⟨_, _, rfl, _, ‹_›, ‹_›, Option.isNone_iff_eq_none.mp h⟩
    · cases h
  · cases h
/-- Tessera 0 after a row, from X's word w, or A's word v. -/
def xRun (i : Instr) (w : W128) (t : Tess) : Tess := (after (exec i (item w nopW t))).tessera 0
def aRun (i : Instr) (v : W128) (t : Tess) : Tess := (after (exec i (item nopW v t))).tessera 0

/-- S4 and A4 hold 5, S5 and A5 hold 2^32 - 1. -/
def sc : Tess := { sreg := [(4, 5), (5, 0xFFFFFFFF)], areg := [(4, 5), (5, 0xFFFFFFFF)] }
theorem wit_ScalarInstructionsHaveTheirResult :
    xOk nopW {} = true ∧ aOk nopW {} = true ∧ xOk (word [(0, 2)]) {} = true ∧ aOk (word [(0, 2)]) {} = true ∧
    xOk (word [(0, 4), (8, 4), (13, 4), (18, 1), (22, 9)]) sc = true ∧ xOk (word [(0, 4), (8, 4), (13, 5), (18, 1), (22, 9)]) sc = true ∧
    aOk (word [(0, 4), (8, 4), (13, 4), (18, 6), (22, 9)]) sc = true ∧ aOk (word [(0, 4), (8, 4), (13, 5), (18, 6), (22, 9)]) sc = true ∧
    xOk (word [(0, 0x10), (8, 3), (13, 4), (23, 1), (24, 0xA), (64, 7)]) sc = true ∧ xOk (word [(0, 0x11), (8, 3), (13, 4), (18, 5), (24, 2)]) sc = true ∧
    aOk (word [(0, 0x10), (8, 3), (13, 4), (18, 5), (24, 0xC)]) sc = true := by decide +kernel
theorem test_nop : (xRun (.nop 0 0 true) nopW {}).xpc = 1 ∧ (aRun (.nop 0 0 false) nopW {}).apc = 1 := by decide +kernel
theorem test_end : (xRun (.endI 0 0 true) (word [(0, 2)]) {}).xEnded = true ∧ (aRun (.endI 0 0 false) (word [(0, 2)]) {}).aEnded = true := by decide +kernel
/-- R141: BR.EQ of equal registers goes to its target, BR.GEU of 5 and 2^32 - 1 goes on. -/
theorem test_br : (xRun (.br 0 0 true) (word [(0, 4), (8, 4), (13, 4), (18, 1), (22, 9)]) sc).xpc = 9 ∧
    (aRun (.br 0 0 false) (word [(0, 4), (8, 4), (13, 5), (18, 6), (22, 9)]) sc).apc = 1 := by decide +kernel
/-- R142: 5 - (2^32 - 1) wraps to 6; -1 shifted right arithmetically stays -1. -/
theorem test_salu : (xRun (.salu 0 0) (word [(0, 0x10), (8, 3), (13, 4), (18, 5), (24, 1)]) sc).sr 3 = 6 ∧
    (xRun (.salu 0 0) (word [(0, 0x10), (8, 3), (13, 5), (18, 4), (24, 7)]) sc).sr 3 = 0xFFFFFFFF := by decide +kernel
theorem test_aalu : (aRun (.aalu 0 0) (word [(0, 0x10), (8, 3), (13, 4), (18, 5), (24, 0)]) sc).ar 3 = 4 := by decide +kernel
/-- R142: the high half of 5 * -1 is -1 signed and 4 unsigned. -/
theorem test_smul : (xRun (.smul 0 0) (word [(0, 0x11), (8, 3), (13, 4), (18, 5), (24, 1)]) sc).sr 3 = 0xFFFFFFFF ∧
    (xRun (.smul 0 0) (word [(0, 0x11), (8, 3), (13, 4), (18, 5), (24, 2)]) sc).sr 3 = 4 := by decide +kernel

/-- X's first word is a POP of queue 0, which A pushes and never does: it waits for a FENCE behind a LOAD. -/
def xStuck : State := item (word [(0, 9), (16, 1)]) (word [(0, 0x52)]) { xfers := [⟨1, true, 0, [0, 0], 1, 16, 64, 0, 64, []⟩] }
/-- A's first word is a POP of queue 0, which X pushes; X's next word issues only 2^21 cycles later. -/
def aStuck : State := item nopW (word [(0, 9), (16, 1)]) { qdir := 1, xNext := 2 ^ 21 }
theorem wit_StreamsHaltByTrapWatchdogAndBudget :
    (match (item (word [(0, 3), (64, 9)]) nopW {}).sim 0 0 with
      | some (_, m0) => (match m0.xTurn 0x03 with
        | .halt 0x41 0 _ => true
        | _ => false)
      | none => false) = true ∧
    (match (item nopW (word [(0, 3)]) {}).sim 0 0 with
      | some (c, m0) => (match m0.aTurn c 0x03 with
        | .halt 0x41 m => m.xHaltNow.isNone
        | _ => false)
      | none => false) = true := by decide +kernel
theorem wit_StreamsHaltByTrapWatchdogAndBudget_waits :
    (match xStuck.sim 0 0 with
      | some (c, m0) => m0.xWaits == some 0 && (m0.aWaits c).isNone && !m0.t.aEnded && m0.aStill c (2 ^ 20) && (m0.upTo simFuel (2 ^ 20)).bad.isNone &&
          ((m0.upTo simFuel (2 ^ 20)).t.queueServes (m0.upTo simFuel (2 ^ 20)).xWord).isNone
      | none => false) = true ∧
    (match aStuck.sim 0 0 with
      | some (c, m0) => m0.aWaits c == some 0 && m0.xWaits.isNone && !m0.t.xEnded && m0.aMay (2 ^ 20) && (m0.upTo simFuel (2 ^ 20)).bad.isNone &&
          ((m0.upTo simFuel (2 ^ 20)).t.queueServes (m0.upTo simFuel (2 ^ 20)).aWord).isNone
      | none => false) = true := by decide +kernel
theorem wit_StreamsHaltByTrapWatchdogAndBudget_budget :
    (match (item nopW nopW { xBudget := some 0, aBudget := none }).sim 0 0 with
      | some (_, m0) => !m0.t.xEnded && (m0.upTo simFuel 0).bad.isNone && (m0.upTo simFuel 0).t.xBudget == some 0
      | none => false) = true ∧
    (match (item nopW nopW { aBudget := some 0 }).sim 0 0 with
      | some (_, m0) => !m0.t.aEnded && m0.aMay 0 && (m0.upTo simFuel 0).bad.isNone && (m0.upTo simFuel 0).xHaltNow.isNone
      | none => false) = true := by decide +kernel
/-- R141, R165: TRAP halts with reason 0x41. -/
theorem test_trap : ((after (exec (.trap 0 0 true) (item (word [(0, 3)]) nopW {}))).halt 0).reason = 0x41 := by decide +kernel
theorem test_queueWaitWatchdog : ((after (exec (.queueWaitWatchdog 0 0 true) xStuck)).halt 0).reason = 0x20 ∧
    ((after (exec (.queueWaitWatchdog 0 0 false) aStuck)).halt 0).stream = false := by decide +kernel
theorem test_instructionBudget : ((after (exec (.instructionBudget 0 0 true) (item nopW nopW { xBudget := some 0 }))).halt 0).reason = 0x40 := by decide +kernel

/-- Queue 0 holds an entry whose first word is 9. -/
def entry9 (qdir : Nat) : Tess := { qdir := qdir, queues := [(0, [⟨leBytes 9 4 ++ List.replicate 252 0, [], 0⟩])] }
theorem wit_QueueInstructionsMoveEntries :
    xOk (word [(0, 8), (8, 4), (16, 1)]) { sc with qdir := 1 } = true ∧ xOk (word [(0, 8), (28, 0xBFF00), (48, 64)]) { qdir := 1 } = true ∧
    aOk (word [(0, 8), (8, 4), (16, 1)]) { sc with qdir := 0 } = true ∧ aOk (word [(0, 8), (28, 0), (48, 64)]) {} = true ∧
    xOk (word [(0, 9), (8, 4), (16, 1)]) (entry9 0) = true ∧ xOk (word [(0, 9), (28, 0), (48, 64)]) (entry9 0) = true ∧
    aOk (word [(0, 9), (8, 4), (16, 1)]) { entry9 1 with xNext := 2 } = true ∧ aOk (word [(0, 9), (28, 0), (48, 64)]) { entry9 1 with xNext := 2 } = true ∧
    64 * 3 + 64 ≤ ((entry9 1).headEntry 0).length ∧ (queueSegs (word [(0, 9), (28, 0), (48, 64)])).Nodup := by decide +kernel
/-- R147: a token's word enters the queue, and leaves it for S4. -/
theorem test_push : ((xRun (.push 0 0 true) (word [(0, 8), (8, 4), (16, 1)]) { sc with qdir := 1 }).headEntry 0).take 4 = leBytes 5 4 := by decide +kernel
theorem test_pop : (xRun (.pop 0 0 true) (word [(0, 9), (8, 4), (16, 1)]) (entry9 0)).sr 4 = 9 ∧ (xRun (.pop 0 0 true) (word [(0, 9), (8, 4), (16, 1)]) (entry9 0)).queues = [] := by
  decide +kernel

/-- V1 holds 5 in every lane, V2 the FP32 value 1.5 (BF16 pair 0x3FC0, 0). -/
def vc : Tess := { v := [(1, List.replicate 256 5), (2, List.replicate 256 0x3FC00000)], sreg := [(4, 5)] }
theorem wit_VectorIntegerLanes : xOk (word [(0, 0x20), (8, 3), (13, 1), (18, 2), (28, 0xB)]) vc = true ∧ xOk (word [(0, 0x21), (8, 3), (13, 1), (18, 2), (28, 8)]) vc = true ∧
    xOk (word [(0, 0x21), (8, 3), (13, 1), (18, 2), (28, 3)]) vc = true ∧ xOk (word [(0, 0x21), (8, 3), (13, 1), (18, 2), (28, 3), (32, 1)]) vc = true ∧
    xOk (word [(0, 0x22), (8, 3), (13, 1), (18, 2), (23, 1)]) vc = true ∧ xOk (word [(0, 0x29), (8, 3), (52, 4)]) vc = true ∧
    xOk (word [(0, 0x2A), (13, 1), (52, 6), (57, 255)]) vc = true := by decide +kernel
theorem test_vint : ((xRun (.vint 0 0) (word [(0, 0x20), (8, 3), (13, 1), (18, 0), (28, 1)]) vc).vr 3).getD 255 0 = 5 := by decide +kernel
/-- R143: 5 < 5 signed is false; V1 is equal to itself. -/
theorem test_vcmp : ((xRun (.vcmp 0 0) (word [(0, 0x21), (8, 3), (13, 1), (18, 1), (28, 5)]) vc).vr 3).getD 7 1 = 0 ∧
    ((xRun (.vcmp 0 0) (word [(0, 0x21), (8, 3), (13, 1), (18, 1), (28, 4)]) vc).vr 3).getD 7 1 = 0xFFFFFFFF := by decide +kernel
/-- R146: a mask of 5 takes bits 0 and 2 of VA, the others of VB. -/
theorem test_vsel : ((xRun (.vsel 0 0) (word [(0, 0x22), (8, 3), (13, 1), (18, 2), (23, 1)]) vc).vr 3).getD 0 0 = 0x3FC00005 := by decide +kernel
theorem test_vsplat : ((xRun (.vsplat 0 0) (word [(0, 0x29), (8, 3), (52, 4)]) vc).vr 3).getD 255 0 = 5 := by decide +kernel
theorem test_vext : (xRun (.vext 0 0) (word [(0, 0x2A), (13, 2), (52, 6), (57, 255)]) vc).sr 6 = 0x3FC00000 := by decide +kernel

theorem wit_VectorFloatLanes : xOk (word [(0, 0x23), (8, 3), (13, 1), (18, 2), (23, 2), (28, 3)]) vc = true ∧ xOk (word [(0, 0x23), (8, 3), (13, 1), (28, 7), (32, 1)]) vc = true ∧
    xOk (word [(0, 0x24), (8, 3), (13, 2), (33, 0), (37, 2), (44, 1)]) vc = true ∧ xOk (word [(0, 0x25), (8, 3), (13, 2), (28, 5)]) vc = true ∧
    xOk (word [(0, 0x26), (8, 3), (13, 2), (28, 4)]) vc = true ∧ xOk (word [(0, 0x28), (8, 30), (13, 2), (18, 1), (47, 15), (51, 1), (52, 4)]) vc = true := by decide +kernel
/-- R143: 1.5 * 1.5 + 1.5 = 3.75 (0x40700000). -/
theorem test_vfp : ((xRun (.vfp 0 0) (word [(0, 0x23), (8, 3), (13, 2), (18, 2), (23, 2), (28, 3)]) vc).vr 3).getD 0 0 = 0x40700000 := by decide +kernel
/-- R145: 1.5 becomes BF16 0x3FC0 in the upper half. -/
theorem test_vcvt : ((xRun (.vcvt 0 0) (word [(0, 0x24), (8, 3), (13, 2), (33, 0), (37, 2), (44, 1)]) vc).vr 3).getD 9 0 = 0x3FC00000 := by decide +kernel
/-- R144: the sum of 256 lanes of 1.5 is 384 (0x43C00000) in lane 0. -/
theorem test_vred : ((xRun (.vred 0 0) (word [(0, 0x25), (8, 3), (13, 2), (28, 0)]) vc).vr 3).take 2 = [0x43C00000, 0] := by decide +kernel
/-- R110: TANH holds its unit for 8 cycles. -/
theorem test_vsfu : (xRun (.vsfu 0 0) (word [(0, 0x26), (8, 3), (13, 9), (28, 4)]) vc).sfuFree = 8 := by decide +kernel
/-- R112: of equal values the one of the smallest index leads; indices are offset by S4; the other lanes hold 0xFFFFFFFF. -/
theorem test_topk : ((xRun (.topk 0 0) (word [(0, 0x28), (8, 6), (13, 2), (47, 1), (52, 4)]) vc).vr 7).take 3 = [5, 6, 0xFFFFFFFF] := by decide +kernel

theorem wit_ScratchpadMovesStartAJob : xOk (word [(0, 0x30), (8, 3), (28, 0), (48, 64)]) {} = true ∧ xOk (word [(0, 0x31), (8, 3), (28, 0xBFC00), (48, 64)]) {} = true ∧
    xOk (word [(0, 0x32), (28, 0), (48, 64), (68, 0x10000), (88, 64)]) {} = true ∧ xOk (word [(0, 0x40), (8, 0), (68, 2), (76, 1)]) {} = true := by decide +kernel
theorem test_vld : (xRun (.vld 0 0) (word [(0, 0x30), (8, 3), (28, 0), (48, 64)]) {}).vPend = [3] := by decide +kernel
theorem test_vst : ((xRun (.vst 0 0) (word [(0, 0x31), (8, 3), (28, 0x400), (48, 64)]) {}).lsu.map fun j => j.writes.map (·.2.1)) = some (List.range' 16 16) := by decide +kernel
/-- R148: the first source row of XPOSE is one segment. -/
theorem test_xpose : ((xRun (.xpose 0 0) (word [(0, 0x32), (28, 0), (48, 128), (68, 0x10000), (88, 64)]) {}).lsu.map fun j => j.reads.take 2) = some [(0, 0), (1, 2)] := by decide +kernel
theorem test_ldtile : (xRun (.ldtile 0 0) (word [(0, 0x40), (8, 0), (68, 2), (76, 1)]) {}).tile1.loading = true := by decide +kernel

/-- Tile buffer 0 holds a BF16 tile. -/
def tiled : Tess := { tile0 := { holds := true, fmt := .bf16 } }
theorem wit_MatrixInstructionsStartAPass : xOk (word [(0, 0x41), (8, 0), (28, 128), (48, 63), (63, 2)]) tiled = true ∧
    (tiled.passFor (word [(0, 0x41), (8, 0), (28, 128), (48, 63), (63, 2)])).isSome = true ∧ xOk (word [(0, 0x42), (48, 3), (61, 1), (62, 31)]) {} = true ∧
    xOk (word [(0, 0x42), (8, 0), (28, 256), (48, 63)]) {} = true ∧ xOk (word [(0, 0x42), (8, 0), (28, 256), (48, 3), (67, 1), (69, 2), (73, 0x8000)]) {} = true := by decide +kernel
theorem test_matmul : ((after (exec (.matmul 0 0) (item (word [(0, 0x41), (8, 0), (28, 128), (48, 3), (63, 2)]) nopW tiled))).die 0).npasses = 1 := by decide +kernel
/-- R109: the four rows of a DRAIN to V registers fill one register. -/
theorem test_drain : ((xRun (.drain 0 0) (word [(0, 0x42), (48, 3), (61, 1), (62, 31)]) { acc := [(3, List.replicate 64 7)] }).vr 31).drop 191 = 0 :: List.replicate 64 7 := by decide +kernel

/-- A LOAD or STORE of 2 rows of 16 elements at column A2, row A3 of D. -/
def boxW (op : Nat) : W128 := word [(0, op), (11, 2), (22, 0), (42, 64), (62, 1), (68, 15)]
/-- A's transfer 1 outstanding: 2 rows of 16 elements from column 24, row 3 of D, so that 8 columns and 1 row lie inside. -/
def moving (load : Bool) : State := item nopW nopW { xfers := [⟨1, load, 0, [24, 3], 2, 16, 64, 0, 64, if load then [] else List.replicate 2 (leBytes 0x11223344 4 ++ List.replicate 60 0)⟩], nextId := 2 }
def gridC1 : Cmd := gridC 1 running1
theorem wit_TransfersMoveBoxes : aOk (boxW 0x50) {} = true ∧ aOk (boxW 0x51) {} = true ∧ aOk (word [(0, 0x52)]) {} = true ∧ (moving true).Calm ∧
    (moving true).xferAt 0 0 0 ≠ none ∧ (((moving true).environ {}).xferAt 0 0 0).map (·.2.load) = some true ∧
    (((moving false).environ {}).xferAt 0 0 0).map (·.2.load) = some false ∧ ((moving true).tessera (tessKey 0 0)).st ≠ .halted := by decide +kernel
/-- A halted tessera whose LOAD is still to land (R164), and whether its snapshot waits. -/
def haltedLoad : State := { moving true with tess := [(0, { (moving true).tessera 0 with st := .halted, failed := some gridC1 })] }
theorem wit_TransfersMoveBoxes_halted : haltedLoad.xferAt 0 0 0 ≠ none ∧ (haltedLoad.tessera (tessKey 0 0)).st = .halted ∧
    (haltedLoad.tessera (tessKey 0 0)).snapWait = none := by decide +kernel
/-- A STORE whose box the A port still reads, and one whose box is read. -/
theorem wit_TransfersMoveBoxes_stores :
    (match (({ moving false with tess := [(0, { (moving false).tessera 0 with aJobs := [{ id := 1, kind := .store, start := 2 ^ 40, reads := [(0, 0)] }] })] } : State).environ {}).sim 0 0 with
      | some (c, m0) => (m0.reads c 1).bad.isNone && (m0.reads c 1).t.aJobs.any (fun j => j.id == 1)
      | none => false) = true ∧
    (match ((moving false).environ {}).sim 0 0 with
      | some (c, m0) => (m0.reads c 1).bad.isNone && !(m0.reads c 1).t.aJobs.any (fun j => j.id == 1) && ((m0.reads c 1).t.xfers.find? fun f => f.id == 1).isSome &&
          okIs ((((moving false).environ {}).putSim 0 0 c (m0.reads c 1)).planElems (gridC1.eng (some 0)) gridD [([24, 3], 1)] []) fun ws u =>
            !u.stalled && decide (u.landsAll ws)
      | none => false) = true := by decide +kernel
/-- The A port's own step: one LOAD job of one segment is left. -/
theorem wit_TransfersMoveBoxes_port : let j : Job := { id := 1, kind := .load, start := 1, writes := [(1, 3, List.replicate 64 7)] }
    let m : Sim := { t := { cycle := 4, aJobs := [j] }, d := {}, g := {}, factor := none }
    m.t.passes = [] ∧ m.t.loader = none ∧ m.t.drainJ = none ∧ m.t.lsu = none ∧ m.t.aJobs = [j] ∧ j.kind = .load ∧ j.reads = [] ∧ j.start ≤ m.t.cycle + 1 ∧
    1 ≤ m.t.cycle + 1 := by decide +kernel
theorem wit_TransfersMoveBoxes_lands : (match (moving true).xferAt 0 0 0 with
      | some (c, x) => okIs (((moving true).environ {}).maskedRows c (c.eng (some 0)) x) (fun y u1 =>
          y.2 == [] && okIs (u1.readElems (c.eng (some 0)) (c.xferDesc x) [[24, 3], [31, 3]]) (fun z u2 => z.2 == [] && !u2.stalled))
      | none => false) = true := by decide +kernel
theorem test_load : ((aRun (.load 0 0) (boxW 0x50) { areg := [(2, 24), (3, 3)] }).xfers.map fun x => (x.coord, x.rows, x.cols, x.bytes)) = [([24, 3], 2, 16, 64)] := by decide +kernel
/-- R115, R156: STORE's two rows are two reads of the A port from the next cycle on. -/
theorem test_store : ((aRun (.store 0 0) (boxW 0x51) {}).aJobs.map fun j => (j.start, j.reads)) = [(1, [(0, 0), (1, 1)])] := by decide +kernel
theorem test_fence : (aRun (.fence 0 0) (word [(0, 0x52)]) {}).apc = 1 := by decide +kernel
/-- R156: element (24, 3) lies at 4 * (24 + 32 * 3) = 480 of D; the box's second row lies outside and is not written. -/
theorem test_transferComplete : (after (exec (.transferComplete 0 0 0 {}) (moving false))).mem.cells = [(480, 0x44), (481, 0x33), (482, 0x22), (483, 0x11)] := by decide +kernel

/- ---- grids ---- -/

/-- A grid of 40 items, not placed, and placed in the pool with tessera 0 idle. -/
def unplaced40 : State := { base with cmds := [gridC 40 { start := 1 }] }
def masked40 : Cmd := { gridC 40 { start := 1 } with raw := raw [(0, 1, 1), (1, 1, 1), (2, 2, 16), (0x10, 2, 0x8000), (0x28, 2, 40), (0x2A, 2, 1), (0x2C, 2, 1)], descs := [(0x10, vec .uint8 0 5 true)] }
theorem wit_RunGridPlacesItsItems : unplaced40.unplaced ⟨0, 0, 0⟩ = some (gridC 40 { start := 1 }, { start := 1 }) ∧ bit (flags (gridC 40 { start := 1 }).raw) 4 = false ∧
    bit (flags masked40.raw) 4 = true ∧
    okIs ((({ base with cmds := [masked40] } : State).environ {}).readElems (masked40.eng (some 0)) (masked40.descD 0x10) ((List.range 5).map fun i => [i]))
      (fun y u => y.2 == [] && !u.stalled) = true := by decide +kernel
/-- R93: of a mask whose first byte is 5, items 0 and 2 remain, and 38 are counted. -/
theorem test_runGrid : let t := after (exec (.runGrid ⟨0, 0, 0⟩ {}) { base with cmds := [masked40], mem := ({} : Mem).write (2 ^ 41) 5 })
    (t.die 0).mitems = 38 ∧ (t.cmds.map fun c => match c.work with
      | .grid g => g.pool
      | _ => []) = [[0, 2]] := by decide +kernel

def pool40 : Grid := { start := 1, placed := true, items := List.range 40, pool := List.range 40 }
/-- A program header of R133 with one X and one A word. -/
def header : List Byte := leBytes 0x54455353 4 ++ leBytes 1 1 ++ leBytes 5 1 ++ leBytes 0 2 ++ leBytes 16 4 ++ leBytes 16 4 ++ List.replicate 240 0
def claims (t : Tess) : State := { base with cmds := [gridC 40 pool40], tess := [(0, { t with mustClear := false })], mem := ({} : Mem).writeAll (spread (2 ^ 41 + 0x100) (header ++ leBytes 2 16 ++ leBytes 1 16)) }
theorem wit_TesseraClaimsAnItem : (pool40.setDeque 0 [7]).deque (tessKey 0 0) = 7 :: [] ∧ pool40.deque (tessKey 0 0) = [] ∧ pool40.pool = 0 :: (List.range 40).tail ∧
    (let g : Grid := { start := 1, deques := [(3, [1, 2]), (5, [4, 6])] }
     g.deque (tessKey 0 0) = [] ∧ (0 = 0 → g.pool = []) ∧ g.deque (tessKey 0 3) ≠ [] ∧ ∀ u, u < 128 → u ≠ 0 → (g.deque (tessKey 0 u)).length ≤ (g.deque (tessKey 0 3)).length ∧
       (u < 3 → (g.deque (tessKey 0 u)).length < (g.deque (tessKey 0 3)).length)) := by decide +kernel
/-- A tessera that holds item 0 of the grid and clears itself, and one that has lost its item. -/
theorem wit_TesseraClaimsAnItem_clearing : let s := claims { st := .clearing, item := some ⟨⟨0, 0, 0⟩, 1, 0⟩ }
    s.Calm ∧ s.stalled = false ∧ (s.tessera 0).st = .clearing ∧ (s.environ {}).itemCmd 0 0 = some (gridC 40 pool40) ∧ (gridC 40 pool40).work = .grid pool40 ∧
    ((claims { st := .clearing }).tessera 0).st = .clearing ∧ ((claims { st := .clearing }).tessera 0).item = none ∧
    (claims { lastCtx := some 1 }).claimFor 0 0 = some (gridC 40 pool40, pool40) ∧ ((claims { lastCtx := some 1 }).tessera 0).lastCtx ≠ some 0 := by decide +kernel
theorem wit_TesseraClaimsAnItem_load : let s := claims { lastCtx := some 0 }
    (s.tessera 0).mustClear = false ∧ (s.tessera 0).lastCtx = some 0 ∧ s.cmd ⟨0, 0, 0⟩ = some (gridC 40 pool40) ∧
    (s.tessera (tessKey 0 0)).st = .idle ∧ tessDomain 0 0 ∉ s.offDom ∧ s.claimFor 0 0 = some (gridC 40 pool40, pool40) ∧
    (pool40.obtain 0 0 s.tessPerCd 0 false false).1 = some 0 ∧ (claims { lastCtx := some 0, loadedFor := some (⟨0, 0, 0⟩, 1) }).claimFor 0 0 = some (gridC 40 pool40, pool40) ∧
    (s.tessera 0).loadedFor ≠ some (⟨0, 0, 0⟩, 1) ∧
    okIs (((s.environ {}).holdItem 0 0 (gridC 40 pool40) pool40 0).readBytes (((gridC 40 pool40).eng (some 0)).by (tessSeer 0)) 0x100 256 { bank := none, remote := false })
      (fun h u1 => h.2 == [] && headerGood h.1 && okIs (u1.readBytes (((gridC 40 pool40).eng (some 0)).by (tessSeer 0)) 0x200 (u32 h.1 8 + u32 h.1 12) { bank := none, remote := false })
        (fun b u2 => b.2 == [] && !u2.stalled)) = true := by decide +kernel
/-- A header of zeros is a PROGRAM_HEADER_INVALID halt. -/
theorem wit_TesseraClaimsAnItem_bad : okIs (((base.environ {}).holdItem 0 0 (gridC 40 pool40) pool40 0).readBytes (((gridC 40 pool40).eng (some 0)).by (tessSeer 0)) 0x100 256 { bank := none, remote := false })
    (fun h u1 => h.2 == [] && !headerGood h.1 && !u1.stalled) = true := by decide +kernel
/-- R95, R129, R134: the item's linear number in S3, PARAM0 in S4, the words in their memories, and 15 items in the deque. -/
theorem test_itemClaim : let t := after (exec (.itemClaim 0 0 {}) (claims { lastCtx := some 0 }))
    (t.tessera 0).sr 4 = 77 ∧ (t.tessera 0).ximem = [(0, 2)] ∧ (t.tessera 0).aimem = [(0, 1)] ∧ (t.tessera 0).qdir = 5 ∧ (t.cmds.map fun c => match c.work with
      | .grid g => (g.pool.length, (g.deque 0).length)
      | _ => (0, 0)) = [(24, 15)] := by decide +kernel

def ended : Tess := { xEnded := true, aEnded := true }
/-- The three ends of a grid: no rerun, a rerun asked for, and a rerun that clipped. -/
def ending (g : Grid) : State := { item 0 0 ended with cmds := [gridC 1 g] }
theorem wit_ItemFinishesAndGridEnds : (match (ending running1).sim 0 0 with
      | some (c, m) => decide (c = gridC1) && m.t.xfers.isEmpty && m.t.queues.isEmpty && c.unacked == 0 && (m.till Sim.quiet simFuel).bad.isNone
      | none => false) = true ∧
    (let fin (g : Grid) : Grid := { g with running := g.running.filter (· != 0), itemsRun := g.itemsRun + 1 }
     (fin running1).isOver = true ∧ (fin { running1 with pool := [3] }).isOver = false ∧ running1.run = 1 ∧ running1.guard.exceeds = false ∧
     ({ gt := some 0, c := 1, t := 1 } : Guard).exceeds = true ∧ ({ running1 with run := 2 } : Grid).run ≠ 1) := by decide +kernel
theorem test_itemFinish : (after (exec (.itemFinish 0 0) (ending running1))).cmds.map (fun c => c.ending.map fun e => (e.status, e.detail, e.r0)) = [some (.ok, 1, 1)] := by decide +kernel

/- ---- attention units, DMA, scrub, host copies ---- -/

/-- A bank-pool tensor of several dimensions, packed. -/
def box (f : Fmt) (b : Nat) (size : List Nat) (bank : Bool) : Desc :=
  { writable := true, bank := bank, cg64 := false, fmt := f, base := b, size := size
    stride := (List.range size.length).map fun i => ((size.take i).foldl (· * ·) 1 : Nat), alloc := 0 }
/-- An attention command of die 0 with one row of 32 channels; DETAIL of its one unit comes from zero memory. -/
def attnC (op : Nat) : Cmd :=
  { cmd [(0, 1, 2), (1, 1, op)]
      [(0x08, box .bf16 0x1000 [32, 1, 1] true), (0x0A, if op = 2 then box .fp32 0x2000 [32, 1, 1, 2] true else box .bf16 0x2000 [32, 1, 1] true),
       (0x0C, if op = 2 then box .fp32 0x3000 [2, 1, 1, 2] true else box .bf16 0x3000 [32, 1, 1] true), (0x0E, box .bf16 0x4000 [32, 1, 1] true),
       (0x20, box .fp32 0x5000 [2, 1, 1] true), (0x34, box .bf16 0x6000 [32, 1, 1] true), (0x36, box .bf16 0x7000 [32, 1, 1] true),
       (0x3A, box .bf16 0x8000 [32, 1, 1] true)] [.attn 0] with work := .attn { next := 1 } }
/-- Pipeline 3 of die 0 runs the command's only unit. -/
def onPipe (op : Nat) : State := { base with cmds := [attnC op], pipes := [(3, { running := true, opcode := op, cmd := some ⟨0, 0, 0⟩ })] }
/-- The premises of a unit's run: the reads of the unit and the plan of its writes succeed and leave the rest of the state. -/
def unitRuns (op : Nat) (f : Eng → Cmd → Nat → Reader UnitOut) : Bool :=
  let s := onPipe op
  let c := attnC op
  let e := (c.eng (some 0)).by (pipeSeer (pipeKey 0 3))
  decide s.Calm && decide (s.pipeCmd 0 3 op = some c) && okIs (f e c (s.pipe (pipeKey 0 3)).unit (s.environ {})) fun o v =>
    o.2 == [] && okIs (v.planUnit e c o.1.writes []) fun ws w =>
      !w.stalled && (ws.all fun x => !isRemote x.1 && !w.holdsAt x.1) && (w.poisonHit ws).isNone
theorem wit_AttentionUnitsRunOnPipelines_fwd : unitRuns 1 fwdUnit = true := by decide +kernel
theorem wit_AttentionUnitsRunOnPipelines_merge : unitRuns 2 mergeUnit = true := by decide +kernel
theorem wit_AttentionUnitsRunOnPipelines_bwdQ : unitRuns 3 bwdQUnit = true := by decide +kernel
theorem wit_AttentionUnitsRunOnPipelines_bwdKv : unitRuns 4 bwdKvUnit = true := by decide +kernel
/-- A command whose unit no pipeline has taken, and pipeline 3 free or running. -/
theorem wit_AttentionUnitsRunOnPipelines_take : let x : Cmd := { attnC 1 with work := .attn {} }
    let s : State := { base with cmds := [x] }
    (s.cmds.filter fun c => cls c.raw == 2 && c.allStarted && c.ending.isNone && c.attnLeft && targetDie c.raw == 0 &&
      (!pinned c.raw || targetTess c.raw == 3)) = x :: [] ∧ (s.pipe (pipeKey 0 3)).running = false ∧ s.cmd x.id = some x ∧
    ((onPipe 1).pipe (pipeKey 0 3)).running = true ∧ (attnUnits x.raw x.descs = 1) := by decide +kernel
theorem test_attnUnitTake : (after (exec (.attnUnitTake 0 3) { base with cmds := [{ attnC 1 with work := .attn {} }] })).pipe 3 =
    { running := true, opcode := 1, cmd := some ⟨0, 0, 0⟩ } := by decide +kernel
/-- R251: one block computed, none skipped, no row without a key. -/
theorem test_attnFwd : (after (exec (.attnFwd 0 3 {}) (onPipe 1))).cmds.map (fun c => c.ending.map fun e => (e.status, e.r0, e.r1)) = [some (.ok, 1, 0)] := by decide +kernel
/-- R255: the one row of two parts is one merge; both parts have l = 0. -/
theorem test_attnMerge : (after (exec (.attnMerge 0 3 {}) (onPipe 2))).cmds.map (·.ending) = [some { status := .ok, r0 := 1, r2 := 1 }] := by decide +kernel
theorem test_attnBwdQ : ((after (exec (.attnBwdQ 0 3 {}) (onPipe 3))).die 0).apBlocks = 1 := by decide +kernel
theorem test_attnBwdKv : ((after (exec (.attnBwdKv 0 3 {}) (onPipe 4))).pipe 3).running = false := by decide +kernel

/-- A DMA command of 32 elements: FP32 source at 0x1000, a destination, and a scale tensor. -/
def dmaC (op : Nat) (df : Fmt) : Cmd :=
  cmd [(0, 1, 3), (1, 1, op), (0x20, 1, if op = 1 then 0 else 1)] [(0x08, vec df 0x2000 32 true), (0x0A, vec (if op = 3 then .e4m3 else .fp32) 0x1000 32 true), (0x0C, vec .e8m0 0x3000 1 true)] [.dma 0]
/-- Two at 0x1000: FP32 2.0. -/
def dmaS (op : Nat) (df : Fmt) : State := { oneCmd (dmaC op df) with mem := ({} : Mem).writeAll (spread (2 ^ 41 + 0x1000) (leBytes 0x40000000 4)) }
theorem wit_DmaCommandsConvertTheirTensors : (dmaS 1 .bf16).running ⟨0, 0, 0⟩ 3 1 = some (dmaC 1 .bf16) ∧ (dmaS 2 .e4m3).running ⟨0, 0, 0⟩ 3 2 = some (dmaC 2 .e4m3) ∧
    (dmaS 3 .bf16).running ⟨0, 0, 0⟩ 3 3 = some (dmaC 3 .bf16) ∧
    (let s := (dmaS 1 .bf16).environ {}
     let c := dmaC 1 .bf16
     okIs (s.readElems (c.eng (some 0)) (c.descD 0x0A) (tuples (c.descD 0x08).size)) fun e v => e.2 == [] &&
       okIs (v.planElems (c.eng (some 0)) (c.descD 0x08) (((tuples (c.descD 0x08).size).zip (e.1.map fun x => (convert .bf16 false (Fmt.fp32.decode x)).enc)) ++ (c.descD 0x08).padZeros) [])
         fun _ w => !w.stalled) = true := by decide +kernel
/-- QUANTIZE's two plans, and DEQUANTIZE's two reads. -/
theorem wit_DmaCommandsConvertTheirTensors_scaled :
    (let s := (dmaS 2 .e4m3).environ {}
     let c := dmaC 2 .e4m3
     okIs (s.planElems (c.eng (some 0)) (c.descD 0x08) ((tuples [32]).map fun i => (i, 0)) []) fun ws v =>
       okIs (v.planElems (c.eng (some 0)) (c.descD 0x0C) ([([0], 0)] ++ (c.descD 0x0C).padZeros) ws) fun _ w => !w.stalled) = true ∧
    (let s := (dmaS 3 .bf16).environ {}
     let c := dmaC 3 .bf16
     okIs (s.readElems (c.eng (some 0)) (c.descD 0x0A) (tuples [32])) fun e v => e.2 == [] &&
       okIs (v.readElems (c.eng (some 0)) (c.descD 0x0C) ((tuples [32]).map fun i => (i.headD 0 / 32) :: i.drop 1)) fun y w => y.2 == [] && !w.stalled) = true := by
  decide +kernel
/-- R210: FP32 2.0 becomes BF16 0x4000; 32 elements, none clipped. -/
theorem test_copy : (after (exec (.copy ⟨0, 0, 0⟩ {}) (dmaS 1 .bf16))).cmds.map (·.ending) = [some { status := .ok, detail := 32 }] ∧
    (after (exec (.copy ⟨0, 0, 0⟩ {}) (dmaS 1 .bf16))).mem.now (2 ^ 41 + 0x2001) = 0x40 := by decide +kernel
/-- R195: the greatest magnitude 2 has exponent 1, E4M3's greatest exponent is 8: the E8M0 scale 2^-7 is 127 - 7 = 120. -/
theorem test_quantize : (after (exec (.quantize ⟨0, 0, 0⟩ {}) (dmaS 2 .e4m3))).mem.now (2 ^ 41 + 0x3000) = 120 := by decide +kernel
theorem test_dequantize : (after (exec (.dequantize ⟨0, 0, 0⟩ {}) (dmaS 3 .bf16))).cmds.map (·.ending) = [some { status := .ok, detail := 32 }] := by decide +kernel

/-- SCRUB of row 0 of bank 0 of stack 0. -/
def scrubC : Cmd := cmd [(0, 1, 7), (1, 1, 5), (0x20, 1, 1), (0x28, 2, 1), (0x30, 4, 1)] [(0x08, vec .uint8 0x1000 4096 true)] [.hostCtl 0]
def scrubS (m : Mem) : State := { oneCmd scrubC with mem := m }
theorem wit_ScrubChecksItsRows : base.mem.bad = [] ∧ base.mem.weak = [] ∧
    (let s := scrubS { weak := [2 ^ 36] }
     2 ^ 36 ∈ s.rowGranules 0 0 0 ∧ (s.rowGranules 0 0 0).Nodup ∧ s.mem.bad = [] ∧ s.mem.weak = [2 ^ 36] ∧ s.holdsWrites 0 (0 / 64) = false) ∧
    (let s := scrubS { bad := [2 ^ 36] }
     2 ^ 36 ∈ s.rowGranules 0 0 0 ∧ (s.rowGranules 0 0 0).Nodup ∧ s.mem.bad = [2 ^ 36] ∧ s.mem.weak = []) := by decide +kernel
theorem wit_ScrubChecksItsRows_run : let s := scrubS { weak := [2 ^ 36] }
    s.running ⟨0, 0, 0⟩ 7 5 = some scrubC ∧ okIs ((s.environ {}).scrubRowsOf scrubC) (fun rows v =>
      let x := rows.foldl State.scrubRow ({}, v)
      okIs ((x.2.noteFindings rows x.1).planElems (scrubC.eng none) (scrubC.descD 0x08) (x.1.bytes.zipIdx.map fun b => ([b.2], b.1.toNat)) []) fun _ w => !w.stalled) = true := by
  decide +kernel
/-- R494: one of the row's 64 granules had a correctable error. -/
theorem test_scrub : (after (exec (.scrub ⟨0, 0, 0⟩ {}) (scrubS { weak := [2 ^ 36] }))).cmds.map (·.ending) = [some { status := .ok, r0 := 1, r2 := 64 }] := by decide +kernel

/-- HCOPY of 4 bytes; the third translation is a host window. -/
def hcopyC (toHost : Bool) : Cmd :=
  cmd [(0, 1, 6), (1, 1, 1)] [(0x08, vec .uint8 (if toHost then 0x200000 else 0x1000) 4 (!toHost)), (0x0A, vec .uint8 (if toHost then 0x1000 else 0x200000) 4 toHost)] [.hostCopy 0]
def hostS (toHost : Bool) : State := { oneCmd (hcopyC toHost) with tlb := base.tlb ++ [⟨0, 2 ^ 21, 2 ^ 20, 2 ^ 42, true⟩] }
theorem wit_HostCopiesMoveBytes : (hostS false).running ⟨0, 0, 0⟩ 6 1 = some (hcopyC false) ∧ ((hostS false).environ {}).hostIsDst (hcopyC false) = false ∧
    okIs (((hostS false).environ {}).resolveHost 0 false ((hcopyC false).descD 0x0A).allBytes) (fun hpa v => decide (hpa.length ≤ 4) &&
      (let r : State := { v.keepPages 0 hpa with out := v.out ++ ((v.keepPages 0 hpa).hostReads 0 hpa).map fun r => .hostRead 0 r.1 r.2.2 }
       let src := (hcopyC false).descD 0x0A
       decide (((v.keepPages 0 hpa).hostReads 0 hpa) ≠ []) &&
       okIs (r.planAt ((hcopyC false).eng none) ((hcopyC false).descD 0x08) { bank := some true, remote := false } ((tuples [4]).zip ((tuples [4]).map fun i =>
         elemFrom src.fmt (fun va => Assoc.get 0 (src.allBytes.zip [1, 2, 3, 4]) va) (src.elem i).1 (src.elem i).2)) []) fun _ w => !w.stalled)) = true := by
  decide +kernel
theorem wit_HostCopiesMoveBytes_toHost : (hostS true).running ⟨0, 0, 0⟩ 6 1 = some (hcopyC true) ∧ ((hostS true).environ {}).hostIsDst (hcopyC true) = true ∧
    okIs (((hostS true).environ {}).resolveHost 0 true ((hcopyC true).descD 0x08).allBytes) (fun hpa v =>
      okIs ((v.keepPages 0 hpa).resolveAll 0 false { bank := some true, remote := false } ((tuples [4]).map fun i => (((hcopyC true).descD 0x0A).elem i).1)) fun pas w =>
        (w.touch 0 none (granules pas) (hcopyC true).seer).1.isNone && !(w.touch 0 none (granules pas) (hcopyC true).seer).2.stalled) = true := by decide +kernel
theorem wit_HostCopiesMoveBytes_queue : oneEntry.mayAccept 0 0 = true ∧ (oneEntry.queue 0).sqDev = false ∧ (oneEntry.ctx 0).st = .opened := by decide +kernel
/-- R455: the four bytes of the host are planned for the destination. -/
theorem test_hcopy : (after (exec (.hcopy ⟨0, 0, 0⟩ (.ok [1, 2, 3, 4]) {}) (hostS false))).cmds.map (·.ending) = [some { status := .ok, detail := 4 }] ∧
    ([0, 3].map fun i => (after (exec (.hcopy ⟨0, 0, 0⟩ (.ok [1, 2, 3, 4]) {}) (hostS false))).mem.now (2 ^ 41 + 0x1000 + i)) = [1, 4] := by decide +kernel
theorem test_hcopy_out : (after (exec (.hcopy ⟨0, 0, 0⟩ (.ok []) {}) (hostS true))).out = [.hostWrite 0 0 [0, 0, 0, 0]] := by decide +kernel
theorem test_completionTimeout : ((after (exec (.completionTimeout 0 0 (some (⟨0, 0, 0⟩, 0))) (hostS false))).hport 0).hosterr = 1 := by decide +kernel

/- ---- docents ---- -/

/-- A docent command of stack 0 whose bank operands lie in bank 0 (R268), with tasks. -/
def docC (op : Nat) (fs : List (Nat × Nat × Nat)) (ds : List (Nat × Desc)) (w : DocWork) : Cmd :=
  { cmd ([(0, 1, 4), (1, 1, op)] ++ fs) ds [.registrar 0] with work := .doc w, places := (List.range 64).map fun i => (i, 2 ^ 41 + 512 * i) }
def docS (c : Cmd) : State := { oneCmd c with stackTab := [(0, { frames := 1, free := 1024, base := 16 })] }
/-- One active task of bank 0 that has one item, with a slice in its operand buffer where the operation has one. -/
def task (i : DocItem) (slice : List (List (List Nat)) := []) : DocWork :=
  { planned := [0], tasks := [{ stack := 0, bank := 0, st := .active, items := [i], buf := slice, sent := slice.length }] }
def gemvC : Cmd := docC 1 [(0x20, 4, 0x3F800000)] [(0x08, vec .fp32 0x100000 1 false), (0x0A, box .bf16 0x1000 [32, 1] true), (0x0C, box .bf16 0x101000 [32, 1] false), (0x0E, box .e8m0 0x2000 [1, 1] true)] (task (.row 0) [[List.replicate 32 0]])
def gatherC : Cmd := docC 2 [] [(0x08, box .fp32 0x100000 [32, 1] false), (0x0A, box .bf16 0x1000 [32, 4] true), (0x0C, box .int32 0x101000 [1, 1] false)] (task (.pick 0 0 3))
def attnPC : Cmd := docC 3 [(0x24, 4, 0x3F800000)] [(0x08, box .bf16 0x100000 [32, 1, 1] false), (0x0A, box .bf16 0x101000 [32, 1, 1] false), (0x0C, vec .int32 0x102000 1 false), (0x0E, vec .int32 0x103000 1 false)]
  (task (.page ⟨0, true, 0, 2, 0, 0, 0⟩) [[List.replicate 32 0]])
/-- The same over a page that is not fresh, for a row whose m is known to be 1. -/
def attnSkip : Cmd := { attnPC with work := .doc { task (.page ⟨0, false, 0, 2, 0, 0, 0⟩) [[List.replicate 32 0]] with recv := [(0, 0, 0x3F800000)] } }
def optC : Cmd := docC 4 [(0x28, 8, 0x100100)] [(0x08, vec .fp32 0x1000 1 true), (0x0A, vec .fp32 0x1100 1 true), (0x0C, vec .fp32 0x1000 1 true), (0x0E, vec .fp32 0x1200 1 true),
  (0x10, vec .fp32 0x1300 1 true), (0x20, vec .fp32 0x1200 1 true), (0x22, vec .fp32 0x1300 1 true)] (task (.elems [0]) [[[0]]])
def convC (scaled : Bool) : Cmd := docC 5 [(0x20, 1, 1)] ([(0x08, box .e4m3 0x1000 [32, 1] true), (0x0A, box .bf16 0x2000 [32, 1] true)] ++
  if scaled then [(0x22, box .e8m0 0x3000 [1, 1] true)] else []) (task (.elems [0]))
def fillC : Cmd := docC 6 [(0x20, 4, 0x3F)] [(0x08, box .e4m3 0x1000 [32, 1] true)] (task (.elems [0]))
/-- A layout of one sequence, layer and head of 32 BF16 channels. -/
def lay : Layout := { wbase := 2 ^ 30, seqMax := 1, layers := 1, hkv := 1, dm32 := 1, fmt := .bf16, scale := none, maxLog := 0 }
def pageS (c : Cmd) : State := { docS c with ctxs := [(0, { st := .opened, layout := some lay })] }
/-- The active task of a command. -/
def atask (c : Cmd) : DocTask := c.doc.tasks.headD ⟨0, 0, .waiting, [], 0, false, [], [], 0, 0, []⟩
/-- The task's premises: the active task of bank 0 is the command's first. -/
def active (s : State) (c : Cmd) : Bool := match s.docTask 0 0 .active with
  | some (x, t) => decide (x = c) && !t.paused && decide (s.cmd c.id = some c) && !s.stalled && decide s.Calm && t.items.length == 1 && t.taken == 0
  | none => false
theorem wit_DocentsWorkItemByItem : active (docS gemvC) gemvC = true ∧ active (docS gatherC) gatherC = true ∧ active (pageS attnPC) attnPC = true ∧ active (pageS attnSkip) attnSkip = true ∧ active (docS optC) optC = true ∧
    active (docS (convC true)) (convC true) = true ∧ active (docS (convC false)) (convC false) = true ∧ active (docS fillC) fillC = true ∧
    (convC false).desc 0x22 = none ∧ ((convC true).desc 0x22).isSome = true := by decide +kernel
/-- One vector of 32 elements is one slice, the last of its row. -/
theorem wit_DocentsWorkItemByItem_gemv : sliceCount (gemvC.descD 0x0C) = 1 ∧ (atask gemvC).buf ≠ [] ∧
    sliceCount (box .bf16 0 [2048, 1] false) ≠ 1 ∧ (0 < 32 ∧ ([(Fp.one, Fp.one)] : List (Fp × Fp)).length % 1 = 0) ∧
    okIs (((docS gemvC).environ {}).bankRead gemvC (atask gemvC) (gemvC.descD 0x0A) ((List.range 32).map fun k => [k, 0])) (fun _ s1 =>
      okIs (s1.bankRead gemvC (atask gemvC) (gemvC.descD 0x0E) [[0, 0]]) fun _ s2 => !s2.stalled) = true := by decide +kernel
theorem wit_DocentsWorkItemByItem_gather : okIs (((docS gatherC).environ {}).bankRead gatherC (atask gatherC) (gatherC.descD 0x0A) ((gatherC.descD 0x0A).rowIdx [3]))
    (fun _ s1 => !s1.stalled) = true := by decide +kernel
/-- The reads of a page; `skip` is what the test of R323 answers. -/
def pageReads (c : Cmd) (pd : PageDesc) (skip : Bool) : Bool :=
  let q (_ : Nat) : List Fp := List.replicate 32 Fp.zero
  okIs (((pageS c).environ {}).readElems (c.docEng (atask c)) (c.descD 0x0E) [[0]]) fun p s1 => p.2 == [] &&
    okIs (s1.skipPage c (atask c) pd lay q (fun _ => []) (p.1.headD 0)) fun b s3 => b == skip && !s3.stalled &&
      (let base := (pageS c).frameAddr ⟨0, 0, 0⟩
       let x := s3.touch 0 none (granulesOf base 128 ++ granulesOf (base + lay.n * 64) 128 ++ granulesOf (base + 0x4000 + lay.pb) 0 ++
         granulesOf (base + 0x4000 + lay.pb + lay.n * lay.groups * lay.sb) 0) (c.docEng (atask c)).who
       x.1.isNone && !x.2.stalled)
theorem wit_DocentsWorkItemByItem_page : pageReads attnPC ⟨0, true, 0, 2, 0, 0, 0⟩ false = true ∧ pageReads attnSkip ⟨0, false, 0, 2, 0, 0, 0⟩ true = true ∧
    bits (u16 attnPC.raw 0x2C) 2 1 = 0 ∧ lay.row = 64 ∧ ((pageS attnPC).ctx 0).layout = some lay ∧ (atask attnPC).buf ≠ [] := by decide +kernel
theorem wit_DocentsWorkItemByItem_opt : okIs (((docS optC).environ {}).readBytes (optC.docEng (atask optC)) 0x100100 32 { bank := none }) (fun p s1 => p.2 == [] &&
    okIs (s1.bankRead optC (atask optC) (optC.descD 0x0C) [[0]]) fun _ s3 => okIs (s3.bankRead optC (atask optC) (optC.descD 0x0E) [[0]]) fun _ s4 =>
      okIs (s4.bankRead optC (atask optC) (optC.descD 0x10) [[0]]) fun _ s5 => !s5.stalled) = true ∧ (atask optC).buf ≠ [] := by decide +kernel
theorem wit_DocentsWorkItemByItem_convert : okIs (((docS (convC true)).environ {}).bankRead (convC true) (atask (convC true)) ((convC true).descD 0x0A)
    (((convC true).descD 0x0A).rowIdx [0])) (fun _ s1 => !s1.stalled) = true ∧
    ((docS fillC).environ {}).landsAll (((docS fillC).environ {}).bankWrite fillC (atask fillC) (fillC.descD 0x08) [([0, 0], 0x3F)] []) := by decide +kernel
/-- What the parts, arrivals and plans of the one command are after a row. -/
def parts (o : Ans) : List Part := (after o).cmds.flatMap fun c => (c.doc.tasks.flatMap (·.parts)) ++ c.doc.arrived.map (·.2)
theorem test_gemv : (parts (exec (.gemv 0 0 {}) (docS gemvC))).map (fun p => (p.key, p.o)) = [(0, [0])] := by decide +kernel
/-- R278: row 3 of the table begins at 0x1000 + 3 * 64 and holds BF16 1.0, FP32 0x3F800000. -/
theorem test_gatherReduce : (parts (exec (.gatherReduce 0 0 {}) { docS gatherC with mem := ({} : Mem).writeAll (spread (2 ^ 41 + 0x10C0) (leBytes 0x3F80 2)) })).map
    (fun p => (p.key, p.o.take 2, p.n)) = [(0, [0x3F800000, 0], 1)] := by decide +kernel
/-- R281: two tokens of score 0. -/
theorem test_attnPartial : (parts (exec (.attnPartial 0 0 {}) (pageS attnPC))).map (fun p => (p.key, p.m)) = [(0, 0), (0, 0)] := by decide +kernel
/-- R284: a NaN gradient leaves the element, counted. -/
theorem test_optStep : (after (exec (.optStep 0 0 {}) (docS { optC with work := .doc (task (.elems [0]) [[[0x7FC00000]]]) }))).cmds.map (fun c => (c.doc.counts.c0, c.doc.counts.c1)) = [(0, 1)] := by
  decide +kernel
/-- R285: BF16 1.0 is E4M3 0x38. -/
theorem test_convert : let t := after (exec (.convert 0 0 {}) { docS (convC false) with mem := ({} : Mem).writeAll (spread (2 ^ 41 + 0x2000) (leBytes 0x3F80 2)) })
    t.mem.now (2 ^ 41 + 0x1000) = 0x38 ∧ (t.cmds.map fun c => c.doc.counts.c0) = [32] := by decide +kernel
theorem test_fill : (after (exec (.fill 0 0 {}) (docS fillC))).mem.cells.map (·.2) = List.replicate 32 0x3F := by decide +kernel

def asTask (c : Cmd) (st : TaskSt) : Cmd := { c with work := .doc { planned := [0], tasks := [{ stack := 0, bank := 0, st := st, items := [.elems [0]] }] } }
def starts : Cmd := asTask fillC .waiting
def fresh1 : Cmd := { fillC with work := .doc {} }
theorem wit_DocentTasksStartCompleteAndMerge : (docS starts).docOn 0 = some starts ∧ starts.stage = .running ∧ starts.ending = none ∧ starts.work = .doc starts.doc ∧ 0 ∈ starts.doc.planned ∧
    (starts.doc.tasks.find? fun t => t.stack == 0 && t.bank / 64 == 0 && t.st == .waiting) = some { stack := 0, bank := 0, st := .waiting, items := [.elems [0]] } ∧
    (docS starts).Calm ∧ (docS starts).activeOn 0 0 < planBudget (docS starts).planEff ∧ (docS starts).docentsStopped 0 0 = false ∧
    ({ docS starts with atherm := [(0, { temp := 900 })] } : State).docentsStopped 0 0 = true := by decide +kernel
theorem wit_DocentTasksStartCompleteAndMerge_first : (docS fresh1).docOn 0 = some fresh1 ∧ 0 ∉ fresh1.doc.planned ∧ 4 ≤ opc fresh1.raw ∧ fresh1.doc.tasks = [] ∧
    mkTasks 0 fresh1.placedItems = { stack := 0, bank := 0, st := .waiting, items := [.elems [0]] } :: (mkTasks 0 fresh1.placedItems).tail := by decide +kernel
theorem wit_DocentTasksStartCompleteAndMerge_complete : let c := asTask fillC .computed
    ((docS c).docTask 0 0 .computed).map (·.1) = some c ∧ c.allStarted = true ∧ (∀ j ∈ c.parts, j ∈ c.doc.planned) ∧ c.doc.arrived = [] ∧ 4 ≤ opc c.raw ∧
    partsEnding c.parts.length c.doc.failed = none ∧ partsEnding c.parts.length [(0, { status := .eccUncorrectable })] ≠ none := by decide +kernel
/-- The operand buffer of a task lacks its first slice of X. -/
def needsX : Cmd := { gemvC with work := .doc (task (.row 0)) }
theorem wit_DocentTasksStartCompleteAndMerge_slice : (docS needsX).docOn 0 = some needsX ∧ (needsX.doc.tasks.find? fun t => t.stack == 0 && needsX.takesSlice t) = some (atask needsX) ∧
    okIs ((docS needsX).readElems ((needsX.eng none).by (mergeSeer 0)) ((docS needsX).sliceOf needsX (atask needsX)).1
      ((docS needsX).sliceOf needsX (atask needsX)).2.flatten) (fun es v => es.2 == [] && !v.stalled) = true := by decide +kernel
/-- Plans that end their command: index 4 of a table of four rows, and sequence 1 of a layout of one. -/
def unplanned (c : Cmd) : Cmd := { c with work := .doc {} }
def named (c : Cmd) (at_ n : Nat) : State := { docS (unplanned c) with ctxs := [(0, { st := .opened, layout := some lay })], mem := ({} : Mem).writeAll (spread (bankView 0 0 0 - bankView 0 0 0 + at_) (leBytes n 4)) }
theorem wit_DocentTasksStartCompleteAndMerge_plans : (unplanned gatherC).home = 0 ∧ (named gatherC 0x1000 4).docOn 0 = some (unplanned gatherC) ∧ 0 ∉ (unplanned gatherC).doc.planned ∧
    okIs (((named gatherC 0x1000 4).environ {}).readElems (((unplanned gatherC).eng none).by (registrarSeer 0)) (gatherC.descD 0x0C) (tuples (gatherC.descD 0x0C).size))
      (fun ns v => ns.2 == [] && !v.stalled && (match (unplanned gatherC).picks ns.1 with
        | .error p => p == 0
        | .ok _ => false)) = true ∧
    okIs (((named attnPC 0x2000 1).environ {}).readElems (((unplanned attnPC).eng none).by (registrarSeer 0)) (attnPC.descD 0x0C) (tuples (attnPC.descD 0x0C).size))
      (fun ns v => ns.2 == [] && (ns.1.zipIdx.find? fun x => decide (lay.seqMax ≤ x.1)) == some (1, 0) &&
        okIs (v.readElems (((unplanned attnPC).eng none).by (registrarSeer 0)) (attnPC.descD 0x0E) (tuples (attnPC.descD 0x0E).size)) fun q w => q.2 == [] && !w.stalled) = true := by
  decide +kernel

/-- A bag's partial behind another of the same bag, and an attention row's. -/
def merging (c : Cmd) : Cmd := { c with work := .doc { c.doc with arrived := [(0, ⟨0, 0, 0x3F800000, [0x40000000], 1⟩)], merged := [(0, ⟨0, 0, 0x3F800000, [0x3F800000], 1⟩)] } }
theorem wit_DocentTasksStartCompleteAndMerge_merge : ((docS (merging gatherC)).cmds.findSome? fun c => if c.stage == .running && c.ending.isNone then
      (c.doc.arrived.find? fun a => a.1 == 0).map fun a => (c, a.2) else none) = some (merging gatherC, ⟨0, 0, 0x3F800000, [0x40000000], 1⟩) ∧
    (merging gatherC).doc.tasks ≠ [] ∧ (findPart (merging gatherC).doc.merged 0 0).isSome = true ∧ (findPart (merging gatherC).doc.merged 0 1).isNone = true ∧
    opc (merging attnPC).raw = 3 := by decide +kernel
theorem test_docentTaskStart : (after (exec (.docentTaskStart 0 0 {}) (docS starts))).cmds.map (fun c => c.doc.tasks.map (·.st)) = [[.active]] ∧
    (after (exec (.docentTaskStart 0 0 {}) (docS fresh1))).cmds.map (fun c => c.doc.tasks.map (·.st)) = [[.active]] := by decide +kernel
theorem test_docentTaskComplete : (after (exec (.docentTaskComplete 0 0) (docS (asTask fillC .computed)))).cmds.map (fun c => c.ending.map (·.status)) = [some .ok] := by decide +kernel
theorem test_broadcastSlice : (after (exec (.broadcastSlice 0) (docS needsX))).cmds.map (fun c => (c.doc.slice, c.doc.tasks.map (·.buf))) = [([(0, 1)], [[[List.replicate 32 0]]])] := by decide +kernel
/-- R288: 1 + 2 = 3 (0x40400000), of two indices. -/
theorem test_mergePartial : (after (exec (.mergePartial 0 {}) (docS (merging gatherC)))).cmds.map (fun c => c.doc.merged.map fun p => (p.2.o, p.2.n)) = [[([0x40400000], 2)]] := by decide +kernel

/- ---- the key-value cache ---- -/

/-- What `commitsNow` asks, as a value. -/
def nowOk (s : State) (c : Cmd) : Bool := decide (s.commitsNow c)
theorem nowOk_commitsNow {s : State} {c : Cmd} (h : nowOk s c = true) : s.commitsNow c := of_decide_eq_true h
def stepC (op : Nat) (fs : List (Nat × Nat × Nat)) : Cmd := cmd ([(0, 1, 4), (1, 1, op)] ++ fs) [(0x0A, box .int32 0x1000 [2, 1] true)] [.registrar 0]
def openC : Cmd := stepC 0x10 [(0x20, 8, 2 ^ 30), (0x28, 2, 1), (0x2A, 2, 1), (0x2C, 1, 1), (0x2D, 1, 1), (0x2E, 1, Fmt.bf16.code)]
/-- Context 0 with a layout, its lengths and pages, and a pool of one frame a bank in stack 0. -/
def cacheS (c : Cmd) (x : Ctx) (k : Stack) (ps : List PageEntry) (list : List Nat) : State :=
  { oneCmd c with ctxs := [(0, { x with st := .opened, layout := some lay })], stackTab := [(0, { k with frames := 1, base := 16 })], pages := ps
                  mem := ({} : Mem).writeAll (spread (2 ^ 41 + 0x1000) (list.flatMap fun n => leBytes n 4)) }
def freePool : Stack := { free := 1024, tblUnits := 1 }
def takenPool : Stack := { free := 1023, reserved := 1 }
def reservedPage : PageEntry := ⟨0, 0, 0, 0, .reserved, 0, 0, 0⟩
def stepping (op : Nat) : State := cacheS (stepC op []) { stepOpen := true, rlen := [(0, 1)] } takenPool [reservedPage] []
def quiet (op : Nat) : State := cacheS (stepC op []) {} freePool [] []
theorem wit_CacheOpensAndItsStepsEnd : (oneCmd openC).running ⟨0, 0, 0⟩ 4 0x10 = some openC ∧ nowOk (oneCmd openC) openC = true ∧ (oneCmd openC).unconserved = [] ∧
    base.regsOpen 0 = true := by decide +kernel
theorem wit_CacheOpensAndItsStepsEnd_closed : (quiet 0x12).Calm ∧ ((quiet 0x12).environ {}).leavingClear 0 = true ∧ (quiet 0x12).running ⟨0, 0, 0⟩ 4 0x12 = some (stepC 0x12 []) ∧ (quiet 0x13).running ⟨0, 0, 0⟩ 4 0x13 = some (stepC 0x13 []) ∧
    ((quiet 0x12).ctx 0).stepOpen = false ∧ nowOk (quiet 0x12) (stepC 0x12 []) = true ∧ nowOk (quiet 0x13) (stepC 0x13 []) = true ∧ (quiet 0x12).unconserved = [] ∧
    ((quiet 0x12).ctx 0).layout = some lay := by decide +kernel
theorem wit_CacheOpensAndItsStepsEnd_open : let s := stepping 0x12
    let x := (s.environ {}).rebuildPages 0 lay (s.rebuilt 0 lay)
    s.running ⟨0, 0, 0⟩ 4 0x12 = some (stepC 0x12 []) ∧ (s.ctx 0).stepOpen = true ∧ x.2.1 = [] ∧ x.2.2.stalled = false ∧
    nowOk x.2.2 (stepC 0x12 []) = true ∧ (∀ w ∈ x.1, x.2.2.holdsAt w.1 = false) ∧ x.2.2.leavingClear 0 = true ∧ (x.2.2.applyCommit 0).unconserved = [] ∧
    (s.pages.map fun e => (e.ctx, e.seq, e.pair, e.page)).Nodup ∧ s.stalled = false := by decide +kernel
/-- A placard granule that cannot be rebuilt, and a held write to a page that leaves. -/
theorem wit_CacheOpensAndItsStepsEnd_waits : let s := stepping 0x12
    let w : Cmd := { dmaC 1 .bf16 with id := ⟨0, 1, 0⟩, writes := [(s.frameAddr ⟨0, 0, 0⟩, 7)] }
    let b : State := { cacheS (stepC 0x12 []) { stepOpen := true, clen := [(0, 1)] } takenPool [{ reservedPage with st := .leaving }] [] with cmds := [stepC 0x12 [], w] }
    partsEnding 16 [(0, { status := .eccUncorrectable })] ≠ none ∧ b.leavingClear 0 = false ∧ (b.rebuilt 0 lay) = [] ∧
    nowOk (b.rebuildPages 0 lay []).2.2 (stepC 0x12 []) = true := by decide +kernel
theorem wit_CacheOpensAndItsStepsEnd_abort : let s := stepping 0x13
    s.running ⟨0, 0, 0⟩ 4 0x13 = some (stepC 0x13 []) ∧ (s.ctx 0).stepOpen = true ∧ nowOk s (stepC 0x13 []) = true ∧ (s.applyAbort 0).unconserved = [] := by decide +kernel
theorem test_cacheOpen : ((after (exec (.cacheOpen ⟨0, 0, 0⟩) (oneCmd openC))).ctx 0).layout = some lay := by decide +kernel
/-- R308: FREE. -/
theorem test_sbCacheFreeRead : (after (exec (.sbCacheFreeRead 0 0) (quiet 0x12))).out = [.regRead 0 (sbBase 0 + 0x3008) 4 1024] := by decide +kernel
/-- R316: the reserved page is mapped, its length committed. -/
theorem test_stepCommit : let t := after (exec (.stepCommit ⟨0, 0, 0⟩ {}) (stepping 0x12))
    (t.pages.map (·.st), (t.ctx 0).clen, (t.stack 0).mapped) = ([.mapped], [(0, 1)], 1) := by decide +kernel
theorem test_stepAbort : let t := after (exec (.stepAbort ⟨0, 0, 0⟩) (stepping 0x13))
    (t.pages, (t.ctx 0).rlen, (t.stack 0).free) = ([], [], 1024) := by decide +kernel

/-- A list that reserves one token of sequence 0; one with a bad sequence; a pool without frames. -/
def reserveC : Cmd := stepC 0x11 []
def reserveS (q : Nat) (k : Stack) : State := cacheS reserveC {} k [] [q, 1]
def noFrames : State := { reserveS 0 {} with stackTab := [] }
def reserveOk (s : State) : Bool := decide (s.running ⟨0, 0, 0⟩ 4 0x11 = some reserveC) && decide ((s.ctx 0).layout = some lay) &&
  okIs ((s.environ {}).readElems (reserveC.eng none) (reserveC.descD 0x0A) (tuples (reserveC.descD 0x0A).size)) fun x v => x.2 == [] && !v.stalled && nowOk v reserveC
theorem wit_StepReserveHoldsFramesOrNone : reserveOk (reserveS 5 freePool) = true ∧ reserveOk (reserveS 0 freePool) = true ∧ reserveOk noFrames = true ∧
    (List.range 1).find? ((reserveS 5 freePool).stepEntryBad 0 lay (stepList [5, 1])) = some 0 ∧
    (List.range 1).find? ((reserveS 0 freePool).stepEntryBad 0 lay (stepList [0, 1])) = none ∧
    ((countingEntries (stepList [0, 1])).foldl ((reserveS 0 freePool).stepSeq 0 lay) {}).lack = [] ∧
    ((countingEntries (stepList [0, 1])).foldl (noFrames.stepSeq 0 lay) {}).lack ≠ [] ∧
    ((reserveS 0 freePool).applyReserve 0 ((reserveS 0 freePool).planReserve 0 lay (stepList [0, 1])).2).unconserved = [] := by decide +kernel
/-- R313 to R315: frame 0 of bank 0 is reserved. -/
theorem test_stepReserve : let t := after (exec (.stepReserve ⟨0, 0, 0⟩ {}) (reserveS 0 freePool))
    (t.pages, (t.stack 0).free, (t.ctx 0).rlen) = ([reservedPage], 1023, [(0, 1)]) := by decide +kernel
theorem test_stepReserve_bad : let t := after (exec (.stepReserve ⟨0, 0, 0⟩ {}) (reserveS 5 freePool))
    (t.pages, (t.queue 0).written) = ([], 1) := by decide +kernel

/- ---- experts ---- -/

/-- Experts 0 (slot 0 of this module, context 0) and 1 (slot 0 of module 1). -/
def mapped : State := { base with expert := [(0, 2 ^ 31), (1, 2 ^ 31 + 1 * 2 ^ 24)], resMib := 1, binMib := 1 }
def courierC (op : Nat) (fs : List (Nat × Nat × Nat)) (ds : List (Nat × Desc)) : Cmd := cmd ([(0, 1, 5), (1, 1, op)] ++ fs) ds [.courier 0]
def expertS (c : Cmd) : State := { mapped with cmds := [c], queues := (oneCmd c).queues }
/-- DISPATCH of one token of 2 FP32 to one expert, result rows of 2 FP32. -/
def dispC : Cmd := courierC 1 [(0x20, 1, 3), (0x21, 1, 0), (0x22, 2, 2), (0x24, 4, 7)] [(0x0A, box .fp32 0x1000 [2, 1] true), (0x0C, box .int32 0x2000 [1, 1] true)]
def numbered (n : Nat) : State := { expertS dispC with mem := ({} : Mem).writeAll (spread (2 ^ 41 + 0x2000) (leBytes n 4)) }
def numbersOk (s : State) : Bool := decide (s.running ⟨0, 0, 0⟩ 5 1 = some dispC) && okIs ((s.environ {}).expertNumbers dispC) fun x v => x.2 == [] && !v.stalled
theorem wit_DispatchReservesThenSends : numbersOk (numbered 0) = true ∧ numbersOk (numbered 9) = true ∧ numbersOk { numbered 0 with resMib := 0 } = true ∧ dispC.work = .none ∧
    (match dispatchCopies (numbered 9) [] [9] with
      | .error q => q == 0
      | .ok _ => false) = true ∧
    (match dispatchCopies (numbered 0) [] [0] with
      | .error _ => false
      | .ok l => l == [(0, 0)] && (numbered 0).canReserve 8 ((numbered 0).newCopies 0 3 l) && !(State.canReserve { numbered 0 with resMib := 0 } 8 ((numbered 0).newCopies 0 3 l)) &&
          decide ((numbered 0).senderOf 0 < 6)) = true := by decide +kernel
/-- A reserved entry for this module and one for the unreachable module 1. -/
def sendC : Cmd := { dispC with work := .disp { copies := [(0, 0, 0)] } }
def resv (q m : Nat) : LEntry := { st := .reserved, ctx := 0, handle := 3, copyNo := q, dest := m }
def sendS (m : Nat) : State := { expertS sendC with ledger := [(0, resv 0 m)], handles := [(3, { st := .sending, t := 1, k := 1, rout := 2 })] }
theorem wit_DispatchReservesThenSends_send : (sendS 0).running ⟨0, 0, 0⟩ 5 1 = some sendC ∧ ((sendS 0).entriesOf 0 3).filter (fun k => ((sendS 0).entry k).st == .reserved) = [0] ∧
    (decide (((sendS 1).entry 0).dest ≠ (sendS 1).modid) && !((sendS 1).peer ((sendS 1).entry 0).dest).reachable) = true ∧ ((sendS 0).entry 0).dest = (sendS 0).modid ∧
    ((sendS 1).handle (handleKey 0 3)).st = .sending ∧
    okIs (((sendS 0).environ {}).readRows (sendC.eng none) (sendC.descD 0x0A) [[0]]) (fun x v => x.2 == [] && !v.stalled) = true := by decide +kernel
/-- R336: one dispatch step reserves entry 0 and sends its COPY to courier 0. -/
theorem test_dispatch : let t := after (exec (.dispatch ⟨0, 0, 0⟩ {}) (numbered 0))
    ((t.entry 0).st, t.frames.map fun f => (f.1, f.2.1, f.2.2.type, f.2.2.step, f.2.2.payload.length)) = (.sent, [(0, 0, 1, 7, 8)]) := by decide +kernel
theorem test_dispatch_bad : (after (exec (.dispatch ⟨0, 0, 0⟩ {}) (numbered 9))).cmds.map (fun c => c.ending.map (·.status)) = [some .indexOutOfRange] := by decide +kernel

/-- COMBINE of the one token: weight 2.0, base 1.0, result row [3.0, 0]. -/
def combC : Cmd := courierC 2 [(0x20, 1, 3), (0x24, 1, 0)] [(0x08, box .fp32 0x1000 [2, 1] true), (0x0A, box .fp32 0x2000 [2, 1] true), (0x0C, box .fp32 0x3000 [1, 1] true), (0x22, box .uint8 0x4000 [1, 1] true)]
def doneE (st : LSt) : LEntry := { resv 0 0 with st := st, res := leBytes 0x40400000 4 ++ leBytes 0 4 }
def combS (st : LSt) : State := { expertS combC with
  ledger := [(0, doneE st)], handles := [(3, { st := .out, t := 1, k := 1, rout := 2 })]
  mem := ({} : Mem).writeAll (spread (2 ^ 41 + 0x2000) (leBytes 0x3F800000 4) ++ spread (2 ^ 41 + 0x3000) (leBytes 0x40000000 4)) }
theorem wit_CombineSumsItsCopies : (combS .doneP).running ⟨0, 0, 0⟩ 5 2 = some combC ∧
    (let s := combS .doneP
     let h := s.handle 3
     let es := (s.entriesOf 0 3).map s.entry
     ((h.st == .sending || h.st == .out) && h.t == (combC.descD 0x08).dim 1 && h.k == (combC.descD 0x0C).dim 0 && h.rout == (combC.descD 0x08).dim 0 && h.rfmt == u8 combC.raw 0x24) = true ∧
     es = [doneE .doneP]) ∧ ((combS .sent).entriesOf 0 3).map (combS .sent).entry = [doneE .sent] ∧
    (let s := (combS .doneP).environ {}
     okIs (s.readElems (combC.eng none) (combC.descD 0x0A) (tuples [2, 1])) fun x v => x.2 == [] &&
       okIs (v.readElems (combC.eng none) (combC.descD 0x0C) (tuples [1, 1])) fun y v2 => y.2 == [] &&
         okIs (v2.planElems (combC.eng none) (combC.descD 0x08) ((tuples [2, 1]).zip [0, 0]) []) fun pl v3 =>
           okIs (v3.planElems (combC.eng none) (combC.descD 0x22) ((tuples [1, 1]).zip [0]) pl) fun _ v4 => !v4.stalled) = true := by decide +kernel
/-- R352: 1 + 2 * 3 = 7 (0x40E00000). -/
theorem test_combine : let t := after (exec (.combine ⟨0, 0, 0⟩ {}) (combS .doneP))
    ([3, 2, 1, 0].map fun i => t.mem.now (2 ^ 41 + 0x1000 + i)) = [0x40, 0xE0, 0, 0] ∧
    t.cmds.map (·.ending) = [some { status := .ok, detail := 1, r0 := 1 }] := by decide +kernel
theorem test_combine_mismatch : (after (exec (.combine ⟨0, 0, 0⟩ {}) { combS .doneP with handles := [] })).cmds.map (fun c => c.ending.map (·.r3)) = [some (2 ^ 31)] := by decide +kernel

/-- Commands on slot 0, step 7. -/
def slotC (op : Nat) : Cmd := courierC op [(0x20, 4, 7), (0x24, 2, 0), (0x26, 2, 1), (0x28, 2, 4), (0x2A, 2, 8)]
  [(0x08, box .fp32 0x1000 [2, 2, 1] true), (0x0A, box .fp32 0x1000 [2, 2, 1] true), (0x2C, vec .int32 0x2000 1 true)]
def slotS (op : Nat) (x : Slot) : State := { expertS (slotC op) with slots := [(0, x)] }
def copy1 : Frame := { type := 1, omod := 0, old := 2, ledger := 0, gen := 0, expert := 0, rrow := 8, step := 7, fmt := 0, payload := leBytes 0x3F800000 4 ++ leBytes 0 4 }
def binned : BinCopy := { ref := 6, frame := copy1 }
def opened7 (cs : List BinCopy) : Slot := { newest := some (7, 4, 8), isOpen := true, odd := { used := true, step := 7, copies := cs } }
theorem wit_ExpertCommandsActOnTheirSlots : (slotS 3 {}).running ⟨0, 0, 0⟩ 5 3 = some (slotC 3) ∧ nowOk (slotS 3 {}) (slotC 3) = true ∧
    (∀ i ∈ slotRange (slotC 3).raw, (((slotS 3 {}).slot i).bin 7).copies = []) ∧ (∀ i ∈ slotRange (slotC 3).raw, ((slotS 3 {}).courier (i % 6)).held = []) ∧
    (slotS 3 {}).mem.unveil (slotC 3).stamp false = (slotS 3 {}).mem ∧ (slotC 3).writes = [] ∧ u16 (slotC 3).raw 0x26 = 1 ∧
    (∃ i ∈ slotRange (slotC 3).raw, (((slotS 3 (opened7 [binned])).slot i).bin 7).copies ≠ []) ∧
    (slotS 4 (opened7 [])).running ⟨0, 0, 0⟩ 5 4 = some (slotC 4) ∧ nowOk (slotS 4 (opened7 [])) (slotC 4) = true := by decide +kernel
theorem wit_ExpertCommandsActOnTheirSlots_gather : let s := slotS 5 (opened7 [binned])
    s.running ⟨0, 0, 0⟩ 5 5 = some (slotC 5) ∧ (((s.slot 0).binOf 7).copies.length ≤ 2 ∧ ∀ b ∈ ((s.slot 0).binOf 7).copies, b.frame.payload.length ≤ 8) ∧
    okIs ((s.environ {}).planElems ((slotC 5).eng none) ((slotC 5).descD 0x08) ((List.range 2).flatMap fun r =>
      rowElems ((slotC 5).descD 0x08) [r, 0] ((([binned] : List BinCopy)[r]?.map fun x => x.frame.payload).getD [])) []) (fun pl v =>
        okIs (v.planElems ((slotC 5).eng none) ((slotC 5).descD 0x2C) [([0], 1)] pl) fun _ v2 => !v2.stalled) = true := by decide +kernel
theorem wit_ExpertCommandsActOnTheirSlots_return : let s := slotS 6 (opened7 [binned])
    s.running ⟨0, 0, 0⟩ 5 6 = some (slotC 6) ∧ (slotC 6).work = .none ∧
    okIs ((s.environ {}).readRows ((slotC 6).eng none) ((slotC 6).descD 0x0A) [[0, 0]]) (fun x v => x.2 == [] && !v.stalled) = true ∧
    binned ∈ ((s.slot 0).bin 7).copies ∧ binned.acked = false ∧ binned.gone = false ∧ binned.frame.omod = s.modid ∧ (s.peer 1).reachable = false ∧
    ({ binned with acked := true } : BinCopy).acked = true ∧ ({ s with peers := [(1, { reachable := true })] } : State).peer 1 = { reachable := true } := by decide +kernel
theorem test_expertOpen : let x := (after (exec (.expertOpen ⟨0, 0, 0⟩) (slotS 3 {}))).slot 0
    (x.newest, x.isOpen) = (some (7, 4, 8), true) := by decide +kernel
theorem test_expertClose : ((after (exec (.expertClose ⟨0, 0, 0⟩) (slotS 4 (opened7 [])))).slot 0).isOpen = false := by decide +kernel
/-- R347: the copy's row, and the count of the bin. -/
theorem test_expertGather : let t := after (exec (.expertGather ⟨0, 0, 0⟩ {}) (slotS 5 (opened7 [binned])))
    t.mem.now (2 ^ 41 + 0x1003) = 0x3F ∧ t.mem.now (2 ^ 41 + 0x2000) = 1 ∧ t.cmds.map (·.ending) = [some { status := .ok, detail := 1, r0 := 1 }] := by decide +kernel
theorem test_expertReturn : (after (exec (.expertReturn ⟨0, 0, 0⟩ {}) (slotS 6 (opened7 [binned])))).frames.map (fun f => (f.1, f.2.1, f.2.2.type, f.2.2.binref)) = [(0, 2, 3, 6)] := by decide +kernel

/-- A COPY at courier 0: its slot's state, and the frame's variations. -/
def arrives (x : Slot) : State := { mapped with slots := [(0, x)] }
def full : List BinCopy := (List.range 4).map fun i => { binned with ref := 6 * i }
theorem wit_CopiesAreJudged : let e := mapped.expertEntry 0
    mapped.Calm ∧ (arrives {}).frameDue 0 copy1 = true ∧ ({ mapped with frames := [(1, 0, { copy1 with gen := 1 }), (1, 0, copy1)] } : State).frameDue 0 copy1 = false ∧
    copy1.type = 1 ∧ copy1.reserved = 0 ∧ bit e 31 = true ∧ bits e 29 24 = mapped.modid ∧ (mapped.ctx (bits e 15 8)).st = .opened ∧ bits (mapped.expertEntry 1) 29 24 ≠ mapped.modid ∧
    bit (mapped.expertEntry 2) 31 = false ∧ (({ mapped with ctxs := [] } : State).ctx 0).st ≠ .opened ∧ ((arrives {}).slot 0).newest = none ∧
    ((arrives (opened7 [])).slot 0).newest = some (7, 4, 8) ∧ copy1.step = 7 ∧ copy1.payload.length = 8 ∧ ((arrives (opened7 full)).slot 0).binOf 7 = { used := true, step := 7, copies := full } ∧
    full.length = 4 ∧ ((arrives (opened7 [])).courier 0).used + 8 ≤ (arrives (opened7 [])).binMib * 2 ^ 20 ∧
    ¬ (((arrives (opened7 [])).courier 0).used + 8 ≤ ({ arrives (opened7 []) with binMib := 0 } : State).binMib * 2 ^ 20) ∧
    (({ mapped with couriers := [(0, { held := [(0, copy1)] })] } : State).courier 0).held[0]? = some (0, copy1) := by decide +kernel
/-- R343: refused with reason 1 when the bin is full; else accepted with a BINREF. -/
theorem test_copyFrame : ((after (exec (.copyFrame 0 copy1) (arrives (opened7 full)))).frames.map fun f => (f.2.1, f.2.2.type, f.2.2.reason)) = [(2, 2, 1)] ∧
    ((after (exec (.copyFrame 0 copy1) (arrives (opened7 [])))).frames.map fun f => (f.2.1, f.2.2.type, f.2.2.reason, f.2.2.binref)) = [(2, 2, 0, 6)] := by decide +kernel
/-- R343: the step of a slot without a step has yet to open. -/
theorem test_copyFrame_held : ((after (exec (.copyFrame 0 copy1) (arrives {}))).courier 0).held = [(0, copy1)] := by decide +kernel
theorem test_holdExpiry : (after (exec (.holdExpiry 0 0) { mapped with couriers := [(0, { held := [(0, copy1)] })] })).frames.map (fun f => f.2.2.reason) = [3] := by decide +kernel

/-- A ledger entry of courier 2, and a frame for it. -/
def ledgerS (st : LSt) (m : Nat) (h : HSt) : State := { mapped with ledger := [(131072, { doneE st with res := [], dest := m })], handles := [(3, { st := h, t := 1, k := 1, rout := 2 })] }
def back (ty r : Nat) : Frame := { copy1 with type := ty, reason := r, binref := 6 }
theorem wit_FramesMoveLedgerEntries : let e := (ledgerS .sent 0 .out).entry 131072
    (ledgerS .sent 0 .out).Calm ∧ (ledgerS .sent 0 .out).frameDue 2 (back 2 0) = true ∧
    (e.gen = (back 2 0).gen ∧ (back 2 0).omod = mapped.modid ∧ (back 2 0).old = 2) ∧ e.st = .sent ∧ (back 2 0).reason = 0 ∧ (back 2 1).reason ≠ 0 ∧ (back 2 0).reserved = 0 ∧
    ((ledgerS .sent 0 .out).handle (handleKey e.ctx e.handle)).st ≠ .orphan ∧ ((ledgerS .sent 0 .orphan).handle (handleKey e.ctx e.handle)).st = .orphan ∧
    ((ledgerS .accepted 0 .out).entry 131072).st = .accepted ∧ ((ledgerS .accepted 0 .out).entry 131072).dest = mapped.modid ∧
    ((ledgerS .accepted 1 .out).entry 131072).dest ≠ mapped.modid ∧ ((ledgerS .doneP 0 .out).entry 131072).st = .doneP ∧ (mapped.entry 131072).st = .free := by decide +kernel
def sentCopy : BinCopy := { binned with sent := some (0, copy1.payload) }
def returning : State := { slotS 6 (opened7 [sentCopy]) with cmds := [{ slotC 6 with work := .returning }] }
theorem wit_FramesMoveLedgerEntries_ack : let f := back 4 0
    (sentCopy.ref == f.binref && sentCopy.sent.isSome && sentCopy.frame.ledger == f.ledger && sentCopy.frame.gen == f.gen) = true ∧
    (∃ x ∈ returning.slots, ∃ b ∈ x.2.even.copies ++ x.2.odd.copies, b = sentCopy) ∧ returning.cmd ⟨0, 0, 0⟩ = some { slotC 6 with work := .returning } ∧ (slotC 6).stage = .running ∧
    ((returning.slots.flatMap fun x => if x.1 % 6 = 0 then x.2.even.copies ++ x.2.odd.copies else []).find? fun b => b.ref == 6 && !b.acked && !b.gone) = some sentCopy := by decide +kernel
theorem test_verdict : ((after (exec (.verdict 2 (back 2 0)) (ledgerS .sent 0 .out))).entry 131072).st = .accepted ∧
    ((after (exec (.verdict 2 (back 2 1)) (ledgerS .sent 0 .out))).entry 131072).st = .doneC := by decide +kernel
theorem test_result : let t := after (exec (.result 2 (back 3 0)) (ledgerS .accepted 0 .out))
    ((t.entry 131072).st, (t.entry 131072).res, t.frames.map fun f => (f.1, f.2.1, f.2.2.type)) = (.doneP, copy1.payload, [(2, 0, 4)]) := by decide +kernel
theorem test_returnF : ((after (exec (.returnF 2 (back 5 5)) (ledgerS .accepted 0 .out))).entry 131072).st = .doneC := by decide +kernel
/-- R342: no rule moves a FREE entry. -/
theorem test_returnF_stale : ((after (exec (.returnF 2 (back 5 5)) mapped)).courier 2).stale = 1 := by decide +kernel
theorem test_resultAck : (after (exec (.resultAck 0 (back 4 0)) returning)).cmds.map (·.ending) = [some { status := .ok, detail := 1 }] := by decide +kernel
theorem test_resultResend : (after (exec (.resultResend 0 6) returning)).frames.map (fun f => (f.2.1, f.2.2.type)) = [(2, 3)] := by decide +kernel

/- ---- the host ---- -/

/-- A row of memory that may not be written: its array die is above its window. -/
def hot : State := { base with atherm := [(0, { temp := 900 })] }
def above : State := { base with hports := [(0, { bar4 := 2 ^ 42 })] }
/-- A write of the first array die that waits in port 0's name. -/
def waiting0 : State := { base with held := [⟨0, 0, 0x40, [5], .host 0, []⟩] }
theorem wit_HostAccessesReachMemory : base.Calm ∧ base.bar4Open 0 0x40 4 = true ∧ base.readWaits (base.bar4Addr 0 0x40) 4 = false ∧
    base.allPopulated (base.bar4Addr 0 0x40) 4 = true ∧ above.bar4Open 0 0x40 4 = true ∧ above.allPopulated (above.bar4Addr 0 0x40) 4 = false ∧
    waiting0.Calm ∧ waiting0.bar4Open 0 0x40 4 = true ∧ waiting0.readWaits (waiting0.bar4Addr 0 0x40) 4 = true ∧ waiting0.postedLanded 0 = false ∧
    ({ waiting0 with bells := [(0, 0, 4, 0)] } : State).bells = [(0, 0, 4, 0)] ∧ base.postedLanded 0 = true ∧
    ({ waiting0 with reads4 := [(0, 0x40, 4)] } : State).reads4 = [(0, 0x40, 4)] := by decide +kernel
theorem wit_HostAccessesReachMemory_more : (∀ g ∈ granulesOf 0x40 4, g ∉ (base.environ {}).mem.bad ∧ g ∉ (base.environ {}).mem.weak) ∧
    (∃ g ∈ granulesOf 0x40 4, g ∈ (({ base with mem := { bad := [2] } } : State).environ {}).mem.bad) ∧
    base.holdsWrites 0 0 = false ∧ base.arrayDieOf 0x40 = some (0, 0) ∧ 0x40 % 2048 + 4 ≤ 2048 ∧ hot.arrayDieOf 0x40 = some (0, 0) ∧ hot.holdsWrites 0 0 = true := by decide +kernel

def seven : State := { base with mem := ({} : Mem).write 0x41 7 }
theorem test_bar4Read : (after (exec (.bar4Read 0 0x40 2 {}) seven)).out = [.bar4Data 0 0x40 [0, 7] false] := by decide +kernel
/-- R392: a read behind a held write waits for it. -/
theorem test_bar4Read_waits : (after (exec (.bar4Read 0 0x40 2 {}) waiting0)).reads4 = [(0, 0x40, 2)] := by decide +kernel
theorem test_bar4Write : (after (exec (.bar4Write 0 0x40 [9] {}) base)).mem.cells = [(0x40, 9)] ∧ (after (exec (.bar4Write 0 0x40 [9] {}) hot)).held.length = 1 := by
  decide +kernel

def ctxIn (st : CtxSt) : State := { base with ctxs := [(0, { st := st })] }
theorem wit_FunctionsAndPortsReset : base.Calm ∧ base.configOpen = true ∧ State.reset.configOpen = false ∧ 2 < (({ base with hports := [(0, { numVf := 3 })] } : State).hport 0).numVf ∧ base.pkg = .active ∧ base.fnEnabled 0 = true ∧ base.portEnabled 0 = true ∧
    [CtxSt.opened, .draining, .tornDown, .closed].map (fun st => ((ctxIn st).ctx 0).st) = [.opened, .draining, .tornDown, .closed] := by decide +kernel
theorem test_functionLevelReset : let t := after (exec (.functionLevelReset 0) base)
    ((t.ctx 0).st, (t.func 0).busMaster) = (.draining, false) := by decide +kernel
theorem test_vfEnableClear : let t := after (exec (.vfEnableClear 0) { base with hports := [(0, { numVf := 3 })] })
    ((t.hport 0).numVf, (t.ctx 0).st) = (0, .opened) := by decide +kernel
theorem test_perstAssert : ((after (exec (.perstAssert 0) base)).ctx 0).cause = .reinitialise := by decide +kernel
theorem test_dlDown : ((after (exec (.dlDown 0) { base with hports := [(0, { linkup := true })] })).hport 0).linkup = false := by decide +kernel

/-- The PF of port 0 has two vectors, vector 1 pending, and may have four VFs. -/
def vectored : State := { base with vectors := [(0, 2)], totalVf := [(0, 4)], funcs := [(0, { msixOn := true, pend := [1], ats := [(0x1000, 0x1000)], cfg := { ats := true } })] }
/-- Port 1 is the other enabled port, in D3hot or not; the module in S2 or entering it. -/
def twoPorts (d3 : Bool) (p : Pkg) : State := { base with boot := { st := .ready, wait := .none }, funcs := [(64, { d3 := d3 })], pkg := p, cmds := [gridC1] }
theorem wit_HostSetsFunctionsLinksAndPower : vectored.Calm ∧ vectored.configOpen = true ∧ State.reset.Calm ∧ State.reset.configOpen = false ∧ vectored.portEnabled 0 = true ∧ vectored.boot.st = .ready ∧ 4 ≤ Assoc.get 0 vectored.totalVf 0 ∧ 1 ≤ vectored.arranged 0 ∧ vectored.fnEnabled 0 = true ∧
    1 < Assoc.get 0 vectored.vectors 0 ∧ 1 ∈ (vectored.func 0).pend ∧ 0 ∉ (vectored.func 0).pend ∧ vectored.regsOpen 0 = true ∧ 0 = 64 * (vectored.ctx 0).port ∧ vectored.regsOpen 64 = true := by
  decide +kernel
theorem wit_HostSetsFunctionsLinksAndPower_d3 : (twoPorts false .active).portEnabled 1 = true ∧ ((twoPorts false .active).func 64).d3 = false ∧ ((twoPorts true .active).func 64).d3 = true ∧
    (twoPorts true .active).boot.st = .ready ∧ (twoPorts true .active).pkg = .active ∧ (twoPorts true .s2).wantsQuiesce = false ∧ (twoPorts true .entering).pkg = .entering ∧
    (twoPorts true .entering).wantsQuiesce = false ∧ ({ twoPorts true .entering with planReq := 3 } : State).planReq = 3 ∧ ({ twoPorts true .entering with applyReq := true } : State).wantsQuiesce = true := by decide +kernel
/-- R439: NumVFs 2 resets VF 3. -/
theorem test_vfEnableSet_less : let t := after (exec (.vfEnableSet 0 2) { vectored with hports := [(0, { numVf := 3 })], ctxs := [(0, { st := .opened, func := 3 }), (1, { st := .opened, func := 2 })] })
    ((t.hport 0).numVf, (t.ctx 0).st, (t.ctx 1).st) = (2, .draining, .opened) := by decide +kernel
theorem test_vfEnableSet : ((after (exec (.vfEnableSet 0 4) vectored)).hport 0).numVf = 4 ∧ ((after (exec (.vfEnableSet 0 5) vectored)).hport 0).numVf = 0 := by decide +kernel
/-- R436: below 16 GT/s (rate code 2) the link is degraded. -/
theorem test_hostLinkUp : let p := (after (exec (.hostLinkUp 0 2 1 false) base)).hport 0
    (p.linkup, p.rate, p.degraded) = (true, 2, true) := by decide +kernel
theorem test_busMasterEnableWrite : ((after (exec (.busMasterEnableWrite 0 ⟨false, {}⟩) base)).func 0).busMaster = false := by decide +kernel
theorem test_atsInvalidation : ((after (exec (.atsInvalidation 0 0x1800 0x1900) vectored)).func 0).ats = [] := by decide +kernel
theorem test_msixVectorUnmask : (after (exec (.msixVectorUnmask 0 1 true true) vectored)).out = [.msix 0 0 1] := by decide +kernel
theorem test_hiCtxRootWrite : let t := after (exec (.hiCtxRootWrite 0 0 0xFFFF) base)
    ((t.ctx 0).root, t.tlb) = (0x8001, []) := by decide +kernel
theorem test_d3hotEntry : let t := after (exec (.d3hotEntry 0) (twoPorts true .active))
    (t.pkg, t.quiesce, (t.func 0).d3) = (.entering, true, true) := by decide +kernel
theorem test_d0Return : (after (exec (.d0Return 1) (twoPorts true .s2))).pkg = .active := by decide +kernel

/- ---- links ---- -/

/-- Group 0 is ports 0 and 1 to module 1, which is reachable; modules 1 and 2 are routed over it; export entry 0 is the first mebibyte,
readable and writable. -/
def linked : State :=
  { base with
    groupTab := [(0, 2 ^ 63 + 2 ^ 48 + 3)], routeTab := [(1, 2 ^ 31), (2, 2 ^ 31)], exportTab := [(0, 2 ^ 63 + 2 ^ 62 + 2 ^ 61)]
    ports := [(0, { st := .up }), (1, { st := .up })], peers := [(1, { reachable := true, epoch := 2 })]
    groups := [(0, { lepoch := 5, credits := [(0, 512), (1, 512), (2, 1024), (3, 64)] })] }
def training : State := { linked with ports := [(0, { st := .training }), (1, { st := .training })] }
theorem wit_PortsTrainAndLeaveUp : training.Calm ∧ training.portFits 0 0 0 = true ∧ training.boot.st = .ready ∧ (training.port 0).st ≠ .up ∧ training.portGroup 0 = some 0 ∧ training.portGroup 9 = none ∧
    entryNbr (training.groupEntry 0) = 1 ∧ training.groupUp 0 = false ∧ ({ linked with ports := [(1, { st := .up })] } : State).groupUp 0 = true ∧
    (∀ ld, ld < 6 → (training.courier ld).waiting = []) ∧ linked.regsOpen 0 = true ∧ isPf 0 = true ∧ linked.domainOff (portDomain 0) = false := by decide +kernel
theorem wit_PortsTrainAndLeaveUp_lost : linked.portGroup 0 = some 0 ∧ (linked.port 0).st = .up ∧ (∃ k ∈ linked.groupPorts 0, k ≠ 0 ∧ (linked.port k).st = .up) ∧
    (∀ k ∈ ({ linked with ports := [(0, { st := .up })] } : State).groupPorts 0, k ≠ 0 → (State.port { linked with ports := [(0, { st := .up })] } k).st ≠ .up) := by decide +kernel
theorem test_portTrained : let t := after (exec (.portTrained 0 1 0 7) training)
    ((t.port 0).st, (t.group 0).lepoch) = (.up, 8) := by decide +kernel
theorem test_portTrained_other : ((after (exec (.portTrained 0 3 0 7) training)).port 0).st = .training := by decide +kernel
theorem test_blockLockLoss : let t := after (exec (.blockLockLoss 0) linked)
    ((t.port 0).st, (t.port 1).st) = (.training, .up) := by decide +kernel
theorem test_ldWpRetrain : ((after (exec (.ldWpRetrain 0 1) linked)).port 1).st = .training := by decide +kernel

/-- A sound one-flit READ_REQ of one granule from module 1, in its turn or ahead. -/
def readPk : Packet := { ptype := 1, dmod := 0, smod := 1, hops := 3, pepoch := 2, tag := 9, lenw := 1 }
def readFlit (seq : Nat) : Flit := ({ (readPk.flits.headD { ftype := 0 }) with seq := seq, lepoch := 5, fecOk := true }).seal
def fit (f : Flit) : Flit := ({ f with payload := padTo 244 f.payload }).seal
/-- One flit of this end not yet acknowledged. -/
def unackedS (stuck : Nat) : State := { linked with groups := [(0, { lepoch := 5, stuck := stuck, naking := true, txSeq := 1, replay := [(0, { ftype := 1 })], credits := [(0, 512)] })] }
theorem wit_FlitsAreTakenInOrder : let f := fit (readFlit 0)
    linked.Calm ∧ linked.resyncing (portCrossing 0) = false ∧ ((linked.upPorts 0).filter (· != 0)) = [1] ∧ linked.portGroup 0 = some 0 ∧ (linked.port 0).st = .up ∧ flitFits f = true ∧ linked.groupOk 0 = true ∧ 0 ∈ linked.groupPorts 0 ∧ f.sound = true ∧ f.lepoch = (linked.group 0).lepoch ∧
    f.nak = false ∧ (linked.group 0).wait = [] ∧ f.ftype = 1 ∧ f.seq = (linked.group 0).rxSeq ∧ (linked.group 0).ahead = [] ∧ (fit (readFlit 3)).seq ≠ (linked.group 0).rxSeq ∧
    (fit (readFlit 3)).sound = true ∧ ({ f with fecOk := false } : Flit).sound = false ∧ (linked.port 0).fails.length + 1 ≤ 16 ∧
    (List.replicate 16 0).length + 1 > 16 ∧ flitFits { f with fecOk := false } = true := by decide +kernel
theorem wit_FlitsAreTakenInOrder_ack : ((fit { ftype := 0, lepoch := 5, fecOk := true }).ftype ≠ 1 ∧ (fit { ftype := 0, lepoch := 5, fecOk := true }).sound = true) ∧
    (unackedS 0).Calm ∧ (unackedS 0).sendPorts 0 ≠ [] ∧ (unackedS 0).groupUp 0 = true ∧ ((unackedS 0).group 0).naking = true ∧ ((unackedS 0).group 0).replay ≠ [] ∧ ((unackedS 0).group 0).stuck < 7 ∧ 7 ≤ ((unackedS 7).group 0).stuck := by
  decide +kernel
theorem test_flitReceive : (after (exec (.flitReceive 0 (fit (readFlit 0))) linked)).inbox = [(0, readPk)] := by decide +kernel
theorem test_flitReceive_damaged : let t := after (exec (.flitReceive 0 { fit (readFlit 0) with crc := 0 }) linked)
    ((t.port 0).crcerr, t.inbox, (t.group 0).naking) = (1, [], true) := by decide +kernel
theorem test_gapTimeout : (after (exec (.gapTimeout 0) (unackedS 0))).out.length = 1 := by decide +kernel
theorem test_ackTimeout : ((after (exec (.ackTimeout 0) (unackedS 0))).group 0).stuck = 1 ∧ ((after (exec (.ackTimeout 0) (unackedS 7))).port 0).st = .training := by decide +kernel

/-- A packet in link die 0. -/
def holding (p : Packet) : State := { linked with inbox := [(0, p)] }
def far (h : Nat) : Packet := { readPk with dmod := 2, hops := h }
def sigPk : Packet := { readPk with ptype := 3, payload := padTo 32 (leBytes 0x8003 2 ++ leBytes 4 2) }
def writePk : Packet := { readPk with ptype := 2, payload := List.replicate 32 5 }
theorem wit_PacketsAreForwardedOrServed : (holding readPk).Calm ∧ (holding readPk).packetDue 0 1 readPk = true ∧ packetRow 0 (far 1) {} = some (.readReq 0 (far 1) {}) ∧ (far 1).dmod ≠ linked.modid ∧ (linked.courier 0).fences = [] ∧
    (linked.courier (linked.routeDie 2)).fences = [] ∧ linked.routeValid 2 = true ∧ (linked.routeOut 2).isSome = true ∧ linked.routeValid 3 = false ∧ 3 ≤ 0x31 / 16 ∧ (far 0).hops = 0 ∧
    ({ readPk with reserved := 1 } : Packet).reserved ≠ 0 ∧ (1, 2, 2) ∈ (({ linked with couriers := [(0, { fences := [(1, 2, 2)] })] } : State).courier 0).fences ∧
    (linked.peer 3).reachable = false ∧ ({ readPk with pepoch := 1 } : Packet).pepoch ≠ (linked.peer 1).epoch := by decide +kernel
theorem wit_PacketsAreForwardedOrServed_served : let pa := linked.exportAddr readPk.addr
    readPk.reserved = 0 ∧ readPk.dmod = linked.modid ∧ (linked.peer readPk.smod).reachable = true ∧ readPk.pepoch = (linked.peer readPk.smod).epoch ∧ linked.readWaits pa 32 = false ∧
    ({ linked with held := [⟨0, 0, pa, [5], .host 0, []⟩] } : State).readWaits pa 32 = true ∧
    bit (linked.exportOf readPk.addr) 63 = true ∧ bit (linked.exportOf readPk.addr) 62 = true ∧ bit (linked.exportOf readPk.addr) 61 = true ∧ linked.allPopulated pa 32 = true ∧
    bit (({ linked with exportTab := [] } : State).exportOf readPk.addr) 63 = false ∧ (∀ g ∈ granulesOf pa 32, g ∉ linked.mem.bad) ∧
    (∃ g ∈ granulesOf pa 32, g ∈ ({ linked with mem := { bad := [0] } } : State).mem.bad) ∧ pa % 2048 + 32 ≤ 2048 ∧ linked.arrayDieOf pa = some (0, 0) ∧ linked.holdsWrites 0 0 = false ∧
    ({ linked with atherm := hot.atherm } : State).holdsWrites 0 0 = true ∧ linked.semOpen (semNo 0x8003) = true ∧ linked.semOpen (semNo 0x8FFF) = false := by decide +kernel
/-- R421: the answer to module 1 leaves as one flit. -/
theorem test_readReq : let t := after (exec (.readReq 0 readPk {}) (holding readPk))
    (t.inbox, t.out.length) = ([], 1) := by decide +kernel
theorem test_readReq_hops : ((after (exec (.readReq 0 (far 0) {}) (holding (far 0)))).courier 0).pkHop = 1 := by decide +kernel
theorem test_writeReq : (after (exec (.writeReq 0 writePk {}) (holding writePk))).mem.now 31 = 5 := by decide +kernel
theorem test_signalReq : (after (exec (.signalReq 0 sigPk) (holding sigPk))).sem 3 = 4 := by decide +kernel

/-- Command 0 waits for module 1's answer of tag 9. -/
def awaitsS (k : ReqKind) (c : Cmd) (p : Packet) : State := { linked with queues := (oneCmd c).queues, cmds := [c], reqs := [⟨9, 1, k, ⟨0, 0, 0⟩, 0⟩], inbox := [(0, p)] }
def resp (pt st : Nat) : Packet := { readPk with ptype := pt, status := st, payload := List.replicate 32 6 }
def readerC : Cmd := { dmaC 1 .bf16 with unacked := 1 }
def writerC : Cmd := { finished okEnd with unacked := 1 }
theorem wit_ResponsesReachTheirCommands : (awaitsS .signal signalC (resp 0x13 0)).Calm ∧ (awaitsS .signal signalC (resp 0x13 0)).packetDue 0 0x13 (resp 0x13 0) = true ∧ (resp 0x11 0).status ≤ 3 ∧ (resp 0x11 0).reserved = 0 ∧ (resp 0x11 0).dmod = linked.modid ∧ (linked.peer 1).reachable = true ∧ (resp 0x11 0).pepoch = (linked.peer 1).epoch ∧
    (awaitsS (.read 0x100 1) readerC (resp 0x11 0)).reqs.find? (fun r => r.peer == 1 && r.tag == 9 && r.kind.isRead) = some ⟨9, 1, .read 0x100 1, ⟨0, 0, 0⟩, 0⟩ ∧
    (awaitsS (.write 0x100 1) writerC (resp 0x12 0)).reqs.find? (fun r => r.peer == 1 && r.tag == 9 && r.kind.isWrite) = some ⟨9, 1, .write 0x100 1, ⟨0, 0, 0⟩, 0⟩ ∧
    (awaitsS .signal signalC (resp 0x13 0)).reqs.find? (fun r => r.peer == 1 && r.tag == 9 && r.kind == .signal) = some ⟨9, 1, .signal, ⟨0, 0, 0⟩, 0⟩ ∧
    (awaitsS (.read 0x100 1) readerC (resp 0x11 0)).cmd ⟨0, 0, 0⟩ = some readerC ∧ readerC.open_ = true ∧ (linked.ctx 0).st = .opened ∧ writerC.stage ≠ .running ∧ signalC.stage = .running ∧
    cls signalC.raw = 7 ∧ nowOk (awaitsS .signal signalC (resp 0x13 0)) { signalC with unacked := 0, acked := true } = true ∧
    (linked.reqs.any fun r => r.peer == 1 && r.tag == 9) = false := by decide +kernel
/-- The earlier command of the queue is not done; a COPY frame for this module, and one with reserved bits. -/
def courierPk (f : Frame) : Packet := { readPk with ptype := 0x21, payload := padTo 64 (frameBytes f) }
theorem wit_ResponsesReachTheirCommands_more :
    ({ oneCmd { signalC with id := ⟨0, 0, 1⟩ } with cmds := [ready 0, { signalC with id := ⟨0, 0, 1⟩ }] } : State).earlierDone ⟨0, 0, 1⟩ = false ∧
    (frameOf (courierPk copy1).payload).type = 1 ∧ (frameOf (courierPk copy1).payload).reserved = 0 ∧ (frameOf (courierPk { copy1 with reserved := 1 }).payload).reserved ≠ 0 := by decide +kernel
theorem test_readResp : (after (exec (.readResp 0 (resp 0x11 0)) (awaitsS (.read 0x100 1) readerC (resp 0x11 0)))).cmds.map (fun c => c.remote.lookup 0x11F) = [some 6] := by decide +kernel
/-- R422: status 2 ends the command with TRANSLATION_FAULT, which tears down its context. -/
theorem test_readResp_fault : let t := after (exec (.readResp 0 (resp 0x11 2)) (awaitsS (.read 0x100 1) readerC (resp 0x11 2)))
    (t.ctx 0).cause = .translationFault := by decide +kernel
theorem test_writeAck : (after (exec (.writeAck 0 (resp 0x12 0)) (awaitsS (.write 0x100 1) writerC (resp 0x12 0)))).cmds.map (·.unacked) = [0] := by decide +kernel
theorem test_signalAck : (after (exec (.signalAck 0 (resp 0x13 0)) (awaitsS .signal signalC (resp 0x13 0)))).cmds = [] := by decide +kernel
theorem test_courier : (after (exec (.courier 0 (courierPk copy1)) { holding (courierPk copy1) with expert := mapped.expert })).frames.map (fun f => (f.1, f.2.1, f.2.2.type)) = [(0, 0, 1)] := by decide +kernel

/-- Packets of module 1 about reachability. -/
def ctlPk (pt a b : Nat) : Packet := { readPk with ptype := pt, lenw := 1, payload := padTo 32 (leBytes a 2 ++ leBytes b 2) }
def peerS (p : Packet) (q : Peer) : State := { linked with inbox := [(0, p)], peers := [(1, q)] }
theorem wit_PeersJoinAndAreLost : linked.Calm ∧ (holding (ctlPk 0x31 0 0)).inTurn 0 (ctlPk 0x31 0 0) = true ∧ linked.isPeer 1 = true ∧ linked.isPeer 3 = false ∧ linked.pkg ≠ .s2 ∧ linked.boot.st = .ready ∧ (ctlPk 0x31 0 0).ptype = 0x31 ∧ (ctlPk 0x31 0 0).dmod = linked.modid ∧
    ((peerS (ctlPk 0x31 0 0) {}).peer 1).reachable = false ∧ ((peerS (ctlPk 0x31 0 0) {}).peer 1).joining = false ∧ ((peerS (ctlPk 0x31 0 0) { joining := true }).peer 1).joining = true ∧
    (linked.peer 1).reachable = true ∧ (awaitsS .signal signalC (resp 0x13 0)).awaits 1 = true ∧ u16 (ctlPk 0x34 1 2).payload 2 = (linked.peer 1).epoch ∧
    u16 (ctlPk 0x34 1 3).payload 2 ≠ (linked.peer 1).epoch ∧ bit (u16 (ctlPk 0x32 4 1).payload 2) 0 = true ∧ bit (u16 (ctlPk 0x32 2 0).payload 2) 0 = false := by decide +kernel
theorem test_heartbeat : ((after (exec (.heartbeat 0 (ctlPk 0x31 0 0)) (peerS (ctlPk 0x31 0 0) {}))).peer 1).joining = true := by decide +kernel
theorem test_joinRepeat : (after (exec (.joinRepeat 1) (peerS readPk { joining := true }))).out.length = 1 := by decide +kernel
/-- R424: heartbeats to modules 1 and 2. -/
theorem test_heartbeatSend : (after (exec .heartbeatSend linked)).out.length = 2 := by decide +kernel
/-- R427: the epoch becomes the greater one; RST marks the module unreachable. -/
theorem test_join : let q := (after (exec (.join 0 (ctlPk 0x32 4 1)) (peerS (ctlPk 0x32 4 1) { reachable := true, epoch := 2 }))).peer 1
    (q.epoch, q.reachable) = (4, false) := by decide +kernel
theorem test_joinAck : (after (exec (.joinAck 0 (ctlPk 0x33 4 0)) (peerS (ctlPk 0x33 4 0) { epoch := 3, joining := true }))).peer 1 =
    { reachable := true, epoch := 4, joining := false, rst := false } := by decide +kernel
theorem test_heartbeatTimeout : ((after (exec (.heartbeatTimeout 1) linked)).peer 1).reachable = false := by decide +kernel
theorem test_responseTimeout : ((after (exec (.responseTimeout 1) (awaitsS .signal signalC (resp 0x13 0)))).peer 1).reachable = false := by decide +kernel
theorem test_pathLost : ((after (exec (.pathLost 0 (ctlPk 0x34 1 2)) (holding (ctlPk 0x34 1 2)))).peer 1).reachable = false ∧
    ((after (exec (.pathLost 0 (ctlPk 0x34 1 3)) (holding (ctlPk 0x34 1 3)))).peer 1).reachable = true := by decide +kernel
theorem test_fenceExpiry : ((after (exec (.fenceExpiry 0 0) { linked with couriers := [(0, { fences := [(1, 2, 2)] })] })).courier 0).fences = [] := by decide +kernel

/- ---- boot and resets ---- -/

/-- A board whose flash is erased: no slot passes, so the boot ends in RECOVERY. Whether a slot passes rests on the hash and the
signature checks, whose values the model leaves open (log entry 2), so no test states that one does; the later steps of
the boot are shown from the states in which it waits. -/
def board : Board := { straps := 0, flash := [] }
def risen : State := { State.reset with board := some board, rails := (List.range 7).map fun r => (r, { mv := 700 }) }
def coldS (w : BootWait) (logic array : Int) : State :=
  { base with boot := { st := if w = .logicCold then .load else .bringup, wait := w }, board := some board, therm := [(0, { temp := logic })], atherm := [(0, { temp := array })] }
theorem wit_RailsRiseAndTheModuleBoots : State.reset.Calm ∧ risen.Calm ∧ (coldS .arrayCold 200 8).Calm ∧ base.boot.wait ≠ .power ∧ State.reset.boot.wait = .power ∧ risen.boot.wait = .power ∧ risen.board = some board ∧ risen.rails ≠ [] ∧
    (∀ r ∈ risen.rails, r.2.warn = false) ∧
    (let x : State := { risen with boot := { risen.boot with wait := .none, straps := 0, slow := false } }
     x.slotFail x.firstSlot = some 1 ∧ x.slotFail (1 - x.firstSlot) = some 1) ∧
    (coldS .logicCold (-100) 200).boot.wait = .logicCold ∧ (∀ y ∈ (coldS .logicCold (-100) 200).therm, -160 ≤ y.2.temp) ∧
    (coldS .arrayCold 200 8).boot.wait = .arrayCold ∧ (∀ y ∈ (coldS .arrayCold 200 8).atherm, 0 ≤ y.2.temp) ∧
    (∃ y ∈ (coldS .arrayCold 200 (-8)).atherm, y.2.temp < 0) ∧ (∃ y ∈ (coldS .logicCold (-168) 200).therm, y.2.temp < -160) := by decide +kernel
theorem test_powerOn : (after (exec (.powerOn board) State.reset)).board = some board := by decide +kernel
theorem test_railsStable : (after (exec .railsStable risen)).boot.st = .recovery := by decide +kernel
theorem test_bootTemperatureWaitEnd : (after (exec .bootTemperatureWaitEnd (coldS .arrayCold 200 8))).boot.st = .ready ∧
    (after (exec .bootTemperatureWaitEnd (coldS .arrayCold 200 (-8)))).boot.st = .bringup := by decide +kernel

/-- The ready module with a board, a command and its queue. -/
def running : State := { oneCmd semC with board := some board }
theorem wit_DeviceResetsRestartTheModule : running.Calm ∧ running.inbox = [] ∧ running.frames = [] ∧ (holding readPk).inbox ≠ [] ∧ (holding readPk).barOpen 0 = true ∧
    (({ running with cross := [(returnCrossing hd0Die, { disagree := true })] } : State).crossing (returnCrossing hd0Die)).disagree = true ∧ State.reset.boot.wait = .power ∧ running.barOpen 0 = true ∧ isPf 0 = true ∧ bit 0x8000C3A5 31 = true ∧ 0x8000C3A5 % 65536 = 0xC3A5 ∧ isPf 1 = false ∧
    running.boot.wait ≠ .power ∧ running.boot.wait ≠ .coolDown ∧
    (∃ c ∈ running.cmds, c.ending = none ∧ (running.ctx 0).flr = false ∧ (running.queue (queueKey c.id)).cqDev = false ∧ (running.func (running.ctx 0).fn).busMaster = true) := by decide +kernel
theorem test_deviceResetRequest : let t := after (exec (.deviceResetRequest 0 0x8000C3A5) running)
    (t.cmds, t.resetCause, t.out.length) = ([], 1, 1) := by decide +kernel
/-- R63: the reset waits for a packet in flight; R60: a cause that HD1 could not capture reads 0xF. -/
theorem test_deviceResetRequest_waits : let t := after (exec (.deviceResetRequest 0 0x8000C3A5) { running with inbox := [(0, readPk)] })
    (t.cmds, t.resetWanted, t.resetCount) = ([], some 1, 0) := by decide +kernel
theorem test_deviceResetRequest_lost : (after (exec (.deviceResetRequest 0 0x8000C3A5)
    { running with cross := [(returnCrossing hd0Die, { disagree := true })] })).resetCause = 0xF := by decide +kernel
theorem test_deviceResetRequest_key : (after (exec (.deviceResetRequest 0 0x8000C3A4) running)).cmds.length = 1 := by decide +kernel
theorem test_hd0HeartbeatTimeout : let t := after (exec .hd0HeartbeatTimeout running)
    (t.resetCause, t.out) = (4, [.linkDrop 0, .linkDrop 1]) := by decide +kernel

/-- Stopped for a quiescent point; with a switch to overlay 1, a lower root and a remap of row 5 of bank 3 pending. -/
def stopped (p : Pkg) (c : List Cmd) : State := { base with quiesce := true, pkg := p, cmds := c, overlays := [(0, some {}), (1, some { expert := [(0, 2 ^ 31)] })] }
theorem wit_ReconfigurationAtQuiescentPoints : (stopped .active []).Calm ∧ (stopped .entering []).inbox = [] ∧ (stopped .entering []).frames = [] ∧
    ({ stopped .entering [] with inbox := [(0, readPk)] } : State).inbox ≠ [] ∧ base.quiesce = false ∧ (∃ c ∈ (stopped .active [semC]).cmds, c.stage = .running ∨ c.stage = .killing) ∧ (stopped .active []).quiesce = true ∧
    (stopped .active []).pkg ≠ .entering ∧ (∀ c ∈ (stopped .active []).cmds, c.stage ≠ .running ∧ c.stage ≠ .killing) ∧ (stopped .entering []).pkg = .entering ∧
    (∀ c ∈ (stopped .entering []).ctxs, c.2.st ≠ .draining) ∧ ({ stopped .active [] with ovlBusy := some 1 } : State).ovlBusy = some 1 ∧
    (stopped .active []).overlay 1 = some { expert := [(0, 2 ^ 31)] } ∧ ({ stopped .active [] with patina := { pendingK := true } } : State).patina.pendingK = true ∧
    (base.stack 0).freeSpare 3 = some 0 ∧ (base.stack 0).entryOf 3 5 = none ∧ (List.range 32).find? (fun i => ((base.stack 0).remap i).isNone) = some 0 ∧
    ({ base with relocking := true } : State).relocking = true := by decide +kernel
theorem wit_ReconfigurationAtQuiescentPoints_requests : base.barOpen 0 = true ∧ base.boot.st = .ready ∧ isPf 0 = true ∧ bit 0x80000001 31 = true ∧ base.switchRefusal 1 = some 1 ∧
    ({ stopped .active [] with ctxs := [] } : State).switchRefusal 1 = none ∧ (stopped .active []).active = 0 ∧ base.regsOpen 0 = true ∧ 49152 ≤ bits 0x8003C000 15 0 ∧ bits 0x80030005 15 0 < 49152 ∧ (base.stack 0).pending = [] ∧
    8 ≤ (List.replicate 8 (3, 9, 0)).length ∧ (¬ ∃ q ∈ List.replicate 8 (3, 9, 0), q.1 = 3 ∧ q.2.1 = 5) ∧
    ({ base with persistBusy := true, stackTab := [(0, { saving := true })] } : State).savesRemaps = true ∧ ({ base with persistBusy := true } : State).savesRemaps = false ∧ base.persistAgain = false := by
  decide +kernel
theorem test_quiescentPoint : let t := after (exec .quiescentPoint { stopped .active [] with ovlBusy := some 1 })
    (t.active, t.quiesce, t.expert) = (1, false, [(0, 2 ^ 31)]) := by decide +kernel
theorem test_quiescentPoint_s2 : (after (exec .quiescentPoint (stopped .entering []))).pkg = .s2 := by decide +kernel
theorem test_pllRelockComplete : (after (exec .pllRelockComplete { base with relocking := true })).relocking = false := by decide +kernel
theorem test_overlaySwitchRequest : (after (exec (.overlaySwitchRequest 0 0x80000001) base)).ovlRefuse = 1 := by decide +kernel
theorem test_remapRequest : ((after (exec (.remapRequest 0 0 0x80030005) base)).stack 0).pending = [(3, 5, 3)] := by decide +kernel
theorem test_remapApply : let t := after (exec (.remapApply 0 0x80000000) base)
    (t.applyReq, t.quiesce) = (true, true) := by decide +kernel
theorem test_persistSaveComplete : let t := after (exec .persistSaveComplete { base with persistBusy := true })
    (t.persistBusy, t.persistUse, t.out) = (false, 1, [.persistWrite 1 1]) := by decide +kernel
theorem test_remapSaveComplete : ((after (exec .remapSaveComplete { base with persistBusy := true, stackTab := [(0, { saving := true, unsaved := true })] })).stack 0).unsaved = false := by decide +kernel

/- ---- the mailbox and the sideband ---- -/

/-- Port 0's mailbox buffer with bytes in it, and an update that it or another holds. -/
def mailed (bs : List Byte) (u : Option Update) : State := { base with hports := [(0, { mbBuf := bs.zipIdx.map fun b => (b.2, b.1) })], update := u }
def byMe (len next : Nat) : Option Update := some { who := .mailbox 0, len := len, next := next }
def byPldm (v : Bool) : Option Update := some { who := .pldm, len := 8, next := 4, verified := v }
/-- A GO and, with the next command, its response (here a second GO, which BUSY makes ignored). -/
def go (i : Instr) (s : State) : State := after (exec (.getInfo 0 0) (after (exec i s)))
/-- The slot that does not run, 1, can be neither erased nor written. -/
def worn (s : State) : State := { s with board := some { board with flashWorn := [1] } }
theorem wit_MailboxOperationsAnswer : (mailed [] none).Calm ∧ (mailed [] none).portEnabled 0 = true ∧ (mailed [] none).boot.st = .ready ∧
    (mailed [] none).update = none ∧ u32 (leBytes 8 4) 0 = 8 ∧ (8 : Nat) ≤ 0x017FF000 ∧ u32 (leBytes 0x01800000 4) 0 > 0x017FF000 ∧
    (mailed [] (byMe 8 4)).update.map (fun u => (decide (u.who = .mailbox 0), u.next, u.len)) = some (true, 4, 8) ∧
    (mailed [] (byPldm false)).update.map (fun u => decide (u.who = .mailbox 0)) = some false ∧ (mailed [] (byMe 8 8)).updateFail = some 2 ∧
    ({ mailed [] none with boot := { st := .recovery, wait := .none } } : State).boot.st = .recovery ∧ State.reset.boot.st ≠ .ready ∧
    State.reset.boot.st ≠ .recovery ∧ (mailed [] none).slotWorn = false ∧ (worn (mailed [] none)).slotWorn = true ∧ (worn (mailed [] none)).Calm := by decide +kernel
theorem test_getInfo : let t := after (exec (.getInfo 0 0) (mailed [] none))
    ((t.hport 0).mbBusy, (t.hport 0).mbDone, ((go (.getInfo 0 0) (mailed [] none)).hport 0).mbResult, ((go (.getInfo 0 1) (mailed [] none)).hport 0).mbResult) =
    (true, false, 0, 2) := by decide +kernel
theorem test_attest : ((go (.attest 0 31) (mailed [] none)).hport 0).mbResult = 2 := by decide +kernel
theorem test_getCert : ((go (.getCert 0 4) (mailed [] none)).hport 0).mbDone = true := by decide +kernel
theorem test_updateBegin : (go (.updateBegin 0 4) (mailed (leBytes 8 4) none)).update = byMe 8 0 ∧
    ((go (.updateBegin 0 4) (worn (mailed (leBytes 8 4) none))).hport 0).mbResult = 6 := by decide +kernel
theorem test_updateData : (go (.updateData 0 6) (mailed (leBytes 4 4 ++ [1, 2]) (byMe 8 4))).update = byMe 8 6 := by decide +kernel
theorem test_updateEnd : let t := go (.updateEnd 0 0) (mailed [] (byMe 8 8))
    ((t.hport 0).mbResult, t.update) = (4, none) := by decide +kernel
theorem test_updateAbort : (go (.updateAbort 0 0) (mailed [] (byMe 8 4))).update = none := by decide +kernel
theorem test_updateHoldTimeout : (after (exec .updateHoldTimeout (mailed [] (byMe 8 4)))).update = none := by decide +kernel

theorem wit_SidebandOperationsAnswer : base.Calm ∧ (worn base).slotWorn = true ∧ base.slotWorn = false ∧ (8 : Nat) ≤ 0x017FF000 ∧ base.boot.st = .ready ∧ (mailed [] (byPldm false)).update.isSome = true ∧ base.update = none ∧
    ((byPldm false).map fun u => (u.who, u.next, u.len, u.verified)) = some (.pldm, 4, 8, false) ∧ ((byPldm true).map (·.verified)) = some true ∧
    (∃ u, (mailed [] (byMe 8 4)).update = some u ∧ u.who ≠ .pldm) ∧ (mailed [] (byPldm false)).updateFail ≠ none ∧ base.boot.wait ≠ .power ∧ base.eventReceiver = none := by
  refine ⟨by decide +kernel, by decide +kernel, by decide +kernel, by decide +kernel, by decide +kernel, by decide +kernel, by decide +kernel, by decide +kernel, by decide +kernel, ⟨_, rfl, by decide +kernel⟩, by decide +kernel, by decide +kernel, by decide +kernel⟩
theorem test_requestUpdate : (after (exec (.requestUpdate 8) base)).update = some { who := .pldm, len := 8 } := by decide +kernel
theorem test_requestFirmwareData : (after (exec (.requestFirmwareData 4 [7]) (mailed [] (byPldm false)))).update.map (·.next) = some 5 := by decide +kernel
theorem test_verifyComplete : (after (exec .verifyComplete (mailed [] (byPldm false)))).out = [.pldm 0x17 [4]] := by decide +kernel
theorem test_applyComplete : (after (exec .applyComplete (mailed [] (byPldm true)))).update = none ∧ (after (exec .applyComplete (mailed [] (byPldm false)))).out = [.pldm 0x18 [3]] := by decide +kernel
theorem test_cancelUpdate : (after (exec .cancelUpdate (mailed [] (byPldm true)))).update = none := by decide +kernel
theorem test_activateFirmware : (after (exec .activateFirmware base)).out = [.pldm 0x1A [1]] := by decide +kernel
theorem test_setEventReceiver : (after (exec (.setEventReceiver 9) base)).eventReceiver = some 9 := by decide +kernel
theorem test_setEndpointId : (after (exec (.setEndpointId 9) base)).eid = 9 := by decide +kernel
theorem test_entdaa : (after (exec (.entdaa 9) base)).i3cAddr = 9 := by decide +kernel
theorem test_sensorRefresh : (after (exec .sensorRefresh base)).sensors.length = 17 := by decide +kernel

/- ---- heat, power and rails ---- -/

/-- Die 30 (four sensors) at 25 °C with one sensor 9 °C off; die 0 at 100 °C. -/
def warm : State := { base with therm := [(0, { temp := 800 }), (30, { readings := [200, 200, 200, 272] })] }
theorem wit_TemperatureIsFollowed : base.Calm ∧ warm.Calm ∧ base.held = [] ∧ (∀ c ∈ base.cmds, c.writes = []) ∧ base.inbox = [] ∧ base.frames = [] ∧
    logicUp 200 ≠ 4 ∧ (coldS .arrayCold 200 8).boot.st ≠ .ready ∧ (coldS .arrayCold 200 8).boot.st ≠ .recovery ∧ base.boot.wait ≠ .power ∧ [200, 201, 202, 203].length = logicSensors 30 ∧ base.boot.st = .ready ∧ (base.logicTherm 30).st ≠ 4 ∧
    logicUp 920 = 4 ∧ (base.ev hd1Die).waiting.length < 16 ∧ (base.arrayTherm 3).temp < 920 ∧ sensorCount false 30 = some 4 ∧ (warm.logicTherm 30).off 0 = false ∧
    (warm.logicTherm 30).off 3 = true ∧ ({ base with boot := { wait := .coolDown } } : State).cooled = true := by decide +kernel
/-- R513: the largest reading; R517: 115 °C shuts the module down. -/
theorem test_sensorSample : ((after (exec (.sensorSample false 30 [200, 210, 205, 201]) base)).logicTherm 30).temp = 210 ∧
    (after (exec (.sensorSample false 30 [920, 920, 920, 920]) base)).boot.wait = .coolDown := by decide +kernel
theorem test_sensorFail : ((after (exec (.sensorFail false 30 3) warm)).logicTherm 30).failed = [3] ∧ ((after (exec (.sensorFail false 30 0) warm)).logicTherm 30).failed = [] := by decide +kernel
theorem test_sensorFail_degraded : let t := after (exec (.sensorFail false 30 3) { base with therm := [(30, { readings := [200, 200, 200, 400], failed := [0, 1] })] })
    ((t.logicTherm 30).st, (t.ev hd1Die).waiting.map (·.2.2)) = (2, [(0x0201, 30, 3), (0x0202, 30, 1), (0x0203, 30 + 512, 800)]) := by decide +kernel
theorem test_coolDownEnd : (after (exec .coolDownEnd { base with boot := { wait := .coolDown }, board := some board })).boot.st = .recovery := by decide +kernel
/-- R516: at 100 °C the allowance falls by one. -/
theorem test_thermalAllowanceUpdate : ((after (exec .thermalAllowanceUpdate warm)).die 0).atherm = 15 := by decide +kernel

/-- A write of port 0 held for array die 0 of stack 0, one of module 1, a finished command's, and a paused task. -/
def heldBy (w : Holder) : State := { linked with held := [⟨0, 0, 0x40, [1], w, []⟩], atherm := hot.atherm }
def heldFin : Cmd := { finished okEnd with writes := [(0x40, 1)] }
def pausedC : Cmd := { fillC with work := .doc { planned := [0], tasks := [{ stack := 0, bank := 3, st := .active, items := [.elems [0]], paused := true }] } }
/-- A command, alone, whose writes wait for the same die. -/
def waitsFor (c : Cmd) : State := { oneCmd c with atherm := hot.atherm }
def heldDma (st : Stage) : Cmd := { dmaC 1 .bf16 with stage := st, writes := [(0x40, 1)] }
def heldDoc : Cmd := { fillC with writes := [(0x40, 1)] }
/-- A command's write, and one of the host that arrived after it. -/
def both : State := { waitsFor heldFin with held := [⟨0, 0, 0x40, [2], .host 0, [heldFin.id]⟩] }
theorem wit_PowerAndHeldWrites_first : both.Calm ∧ both.heldCmd 0 0 = some heldFin ∧ both.cmd heldFin.id = some heldFin ∧
    (both.held.find? fun w => w.stack == 0 && w.adie == 0) = some ⟨0, 0, 0x40, [2], .host 0, [heldFin.id]⟩ := by decide +kernel
theorem wit_PowerAndHeldWrites : ((heldBy (.host 0)).held.find? fun w => w.stack == 0 && w.adie == 0) = some ⟨0, 0, 0x40, [1], .host 0, []⟩ ∧
    ((heldBy (.remote 0 1 9 2)).held.find? fun w => w.stack == 0 && w.adie == 0) = some ⟨0, 0, 0x40, [1], .remote 0 1 9 2, []⟩ ∧ base.held = [] ∧
    (waitsFor heldFin).Calm ∧ (waitsFor heldFin).heldCmd 0 0 = some heldFin ∧ (waitsFor heldFin).cmd heldFin.id = some heldFin ∧ heldFin.stage = .finished ∧ heldFin.open_ = true ∧
    (waitsFor (heldDma .running)).heldCmd 0 0 = some (heldDma .running) ∧ (heldDma .running).ending = none ∧ cls (heldDma .running).raw ≠ 4 ∧
    (waitsFor (heldDma .killing)).heldCmd 0 0 = some (heldDma .killing) ∧ (waitsFor heldDoc).heldCmd 0 0 = some heldDoc ∧ cls heldDoc.raw = 4 ∧
    heldDoc.stage = .running ∧ base.heldCmd 0 0 = none ∧ (docS pausedC).pausedCmd 0 3 = some pausedC.id ∧ base.pausedCmd 0 3 = none := by decide +kernel
theorem test_powerAllowanceUpdate : ((after (exec (.powerAllowanceUpdate 0 60000) base)).die 0).apower = 15 := by decide +kernel
theorem test_powerCalibration : (after (exec (.powerCalibration 5 70000) base)).cdMaxW = 0xFFFF := by decide +kernel
theorem test_refreshOperation : (after (exec (.refreshOperation 0 3) { base with refreshOp := [(3, 8191)], acts := [(65536 * 3 + 5, 9)] })).acts = [] := by decide +kernel
theorem test_targetedRefresh : Assoc.get 0 (after (exec (.targetedRefresh 0 3 5) base)).acts (65536 * 3 + 5) = 1 := by decide +kernel
theorem test_heldWriteExpiry : (after (exec (.heldWriteExpiry 0 0) (heldBy (.host 0)))).held = [] ∧
    (after (exec (.heldWriteExpiry 0 0) { oneCmd heldFin with atherm := hot.atherm })).cmds.map (fun c => c.ending.map (·.status)) = [some .writeHeldTimeout] := by decide +kernel
/-- R521: held writes to one byte are performed in the order in which they arrived. -/
theorem test_performHeld : (({ both with atherm := [] } : State).performHeld).mem.cells = [(0x40, 2)] ∧
    (({ both with atherm := [], held := [⟨0, 0, 0x40, [2], .host 0, []⟩] } : State).performHeld).mem.cells = [(0x40, 1)] := by decide +kernel
theorem test_docentPauseExpiry : (after (exec (.docentPauseExpiry 0 3) (docS pausedC))).cmds.map (fun c => c.ending.map (·.status)) = [some .writeHeldTimeout] := by decide +kernel

/-- Rail 1 (6400 eighths of a millivolt, 800 mV) below its warning level of 760 mV. -/
def dipping : State := { base with rails := [(1, { mv := 755, warn := true, least := 755 })], asupply := 8 }
theorem gMax_eq : gMax = 19 := by unfold gMax vBase; omega
theorem wit_RailsAndAgeing : base.Calm ∧ dipping.Calm ∧ base.inbox = [] ∧ base.frames = [] ∧ (holding readPk).inbox ≠ [] ∧ base.boot.wait ≠ .power ∧ base.below 1 755 5 = true ∧ (dipping.rail 1).warn = true ∧ dipping.below 1 790 5 = false ∧ (∀ r ∈ base.rails, r.2.warn = false) ∧
    base.below 1 700 10 = true ∧ base.below 5 1500 10 = true ∧ base.below 1 600 20 = true ∧ base.persistBusy = false ∧ ({ base with persistBusy := true } : State).persistBusy = true ∧
    (0, 1, (80 : Int)) ∈ [(0, 0, 90), (0, 1, (80 : Int))] ∧ (∀ x ∈ [(0, 0, 90), (0, 1, (80 : Int))], x ≠ (0, 1, 80) → (80 : Int) < x.2.2) ∧
    (0 : Int) ≤ 80 - 64 ∧ (10 : Int) - 64 < 0 ∧ base.patina.g < gMax ∧ gMax ≤ ({ g := 19 } : Patina).g ∧ base.patina.k < 8 ∧ 8 ≤ ({ k := 8 } : Patina).k := by
  rw [gMax_eq]; decide +kernel
theorem test_railWarningCross : let t := after (exec (.railWarningCross 1 755) base)
    (t.asupply, (t.rail 1).least, (t.rail 1).low) = (8, 755, true) := by decide +kernel
theorem test_railWarningReturn : let t := after (exec (.railWarningReturn 1 790) dipping)
    (t.dips, (t.rail 1).warn) = (1, false) := by decide +kernel
theorem test_supplyRecovery : (after (exec .supplyRecovery { base with asupply := 8 })).asupply = 16 := by decide +kernel
theorem test_railResetCross : (after (exec (.railResetCross 1 700) { base with board := some board })).resetCause = 5 := by decide +kernel
theorem test_railPowerLoss : (after (exec (.railPowerLoss 1 600) base)).boot.wait = .power := by decide +kernel
theorem test_patinaMeasurement : (after (exec (.patinaMeasurement [(0, 0, 90), (0, 1, 80)] []) base)).patina.margin = 16 := by decide +kernel
theorem test_patinaHeaderSave : (after (exec .patinaHeaderSave base)).persistBusy = true := by decide +kernel

/- ---- low power, crossings, ticks and events ---- -/

/-- Every kind of domain may be switched off; one is of each kind: tessera group 0, die 0's cache, docents of stack 0, port 0. -/
def idle : State := { base with lpCtl := 7 }
theorem wit_LowPowerCrossingsAndEvents_resync : let s (k : Nat) : State := { linked with cross := [(k, { near := true })], snapBusy := [3], evd := [(3, { waiting := [(9, 0, 0x0105, 1, 2)] })] }
    (s (netCrossing 3)).Calm ∧ (s (netCrossing 3)).resyncing (netCrossing 3) = true ∧ (s (portCrossing 0)).resyncing (netCrossing 3) = false ∧
    (s (returnCrossing 3)).resyncing (returnCrossing 3) = true ∧ (s 0).resyncing (returnCrossing 3) = false ∧ crossKey ⟨blockOfDie 0, 1⟩ = some 1 ∧
    (s (portCrossing 0)).portGroup 0 = some 0 ∧ (s (portCrossing 0)).groupUp 0 = true ∧ ((s (portCrossing 0)).crossing (portCrossing 0)).near = true ∧
    ((s 0).crossing (portCrossing 0)).near = false ∧ 3 ∈ (s 0).snapBusy := by decide +kernel
theorem wit_LowPowerCrossingsAndEvents : idle.Calm ∧ ({ base with lpCtl := 0 } : State).g2May 0 = false ∧ idle.g2May 0 = true ∧ idle.g2May 32 = true ∧ idle.g2May 282 = true ∧ idle.g2May 376 = true ∧ domainOf 0 = .tessGroup 0 0 ∧ domainOf 32 = .cache 0 ∧
    domainOf 282 = .docents 0 0 ∧ domainOf 376 = .port 0 ∧ base.pkg ≠ .s2 ∧ base.regsOpen 0 = true ∧ isPf 0 = true ∧ base.regsOpen 64 = true ∧ bit 0x80000000 31 = true ∧ base.snapBusy = [] ∧
    ({ base with pkg := .s2 } : State).pkg = .s2 ∧ 3 ∈ ({ base with snapBusy := [3] } : State).snapBusy ∧ (base.ev 3).waiting = [] ∧ base.boot.wait ≠ .power ∧ isPf 1 = false ∧
    ({ base with hports := [(0, { numVf := 1 })] } : State).regsOpen 1 = true := by decide +kernel
theorem test_g2Entry : (after (exec (.g2Entry 32) { idle with dcache := [(5, some [])] })).dcache = [] := by decide +kernel
theorem test_g2Wake : let t := after (exec (.g2Wake 376) { idle with offDom := [376] })
    (t.offDom, (t.port 0).st) = ([], .training) := by decide +kernel
theorem test_scLpCtlWrite : let t := after (exec (.scLpCtlWrite 0 6) { idle with offDom := [0, 32] })
    (t.lpCtl, t.offDom) = (6, [32]) := by decide +kernel
theorem test_tickSnapshot : (after (exec (.tickSnapshot 0 0x80000000) base)).snapBusy = List.range 31 := by decide +kernel
theorem test_snapshotMessage : let t := after (exec (.snapshotMessage 3) { base with snapBusy := [3], evd := [(3, { tick := 77 })] })
    (t.snapBusy, (t.ev 3).snap) = ([], 77) := by decide +kernel
theorem test_eventRecord : ((after (exec (.eventRecord 3 0x0105 1 2) base)).ev 3).waiting = [(0, 0, 0x0105, 1, 2)] := by decide +kernel
theorem test_eventStore : (after (exec (.eventStore 3) { base with evd := [(3, { waiting := [(9, 0, 0x0105, 1, 2)] })] })).logSlot 0 = some ⟨9, 0, 0x0105, 3, 1, 2, 0, 0⟩ := by decide +kernel
theorem test_evtSlotRead : (after (exec (.evtSlotRead 0 0) { base with evlog := [(0, some ⟨9, 0, 0x0105, 3, 1, 2, 0, 0⟩)] })).out = [.regRead 0 0x00210000 4 9] := by decide +kernel
theorem test_boundaryScan : (after (exec (.boundaryScanInstruction 2) base)).out = [.jtag 2] := by decide +kernel

/- ---- which commands are well formed ---- -/

def goodFrame (ty : Nat) : Frame := { copy1 with type := ty }
def goodFlit : Flit := fit (readFlit 0)
/-- One ill-formed command for each check of `Instr.wf` and of the predicates it uses. -/
def illFormed : List Instr :=
  [.ctxOpen 128 0, .ctxOpen 0 256, .ctxTeardown 0 256, .ctxRelease 128 0, .drainComplete 256, .hiCtxCfgWrite 0 0 (2 ^ 32), .qDisableComplete 0 16, .qDisableComplete 256 0,
   .registerWrite 0 4 3 0, .registerWrite 0 6 4 0, .registerWrite 0 (2 ^ 26) 4 0, .registerWrite 0 0 4 (2 ^ 32), .rcRead 128 0 4, .rcRead 0 4 8, .bar0BadsizeAccess 0 0 4 false,
   .bar0BadsizeAccess 0 0 0 false, .bar0BadsizeAccess 0 (2 ^ 26) 1 false, .pairLowRead 0 4, .pairHighRead 0 8, .pairLowWrite 0 0 (2 ^ 32), .pairHighWrite 0 0 0, .qEnable 0 0 0 5, .qEnable 0 0 16 (2 ^ 31),
   .qDisable 0 0 0 (2 ^ 31), .tailDoorbell 0 0 0 0, .tailDoorbell 0 (2 ^ 24) 4 0, .tailDoorbell 0 0 4 (2 ^ 32), .headDoorbell 0 (2 ^ 24) 4 0, .commandAccept 0 0 (.ok []) {}, .commandAccept 0 16 (.failed 0) {},
   .engineChoose (.dma 8) {}, .engineChoose (.pinned 0 128) {}, .engineChoose (.registrar 16) {}, .engineChoose (.courier 6) {}, .engineChoose (.hostCtl 2) {}, .killComplete ⟨256, 0, 0⟩, .waitTimeout ⟨0, 16, 0⟩,
   .commandCommit 256 0 {}, .semWrite ⟨256, 0, 0⟩, .allocSet ⟨256, 0, 0⟩, .descCreate ⟨256, 0, 0⟩ {}, .scrub ⟨256, 0, 0⟩ {}, .runGrid ⟨256, 0, 0⟩ {}, .itemClaim 8 0 {}, .nop 0 128 true, .vsfu 8 0,
   .transferComplete 0 0 32 {}, .tdSparseCtlClear 0 8, .attnFwd 0 16 {}, .attnUnitTake 8 0, .gemv 16 0 {}, .fill 0 1024 {}, .docentTaskStart 0 16 {}, .broadcastSlice 16, .tdDocCtlClear 0 16, .copyFrame 6 (goodFrame 1),
   .copyFrame 0 (goodFrame 2), .verdict 0 { goodFrame 2 with reason := 8 }, .result 0 { goodFrame 3 with omod := 64 }, .resultAck 0 { goodFrame 4 with ledger := 65536 }, .returnF 0 { goodFrame 5 with expert := 4096 },
   .verdict 0 { goodFrame 2 with old := 8 }, .verdict 0 { goodFrame 2 with gen := 65536 }, .verdict 0 { goodFrame 2 with rrow := 65536 }, .verdict 0 { goodFrame 2 with step := 2 ^ 32 }, .verdict 0 { goodFrame 2 with binref := 2 ^ 32 },
   .verdict 0 { goodFrame 2 with fmt := 256 }, .copyFrame 0 (goodFrame 256), .holdExpiry 6 0, .resultResend 0 (2 ^ 32), .ldCrCtlClear 0 6, .hiCtxRootWrite 0 0 (2 ^ 64), .bar4Read 2 0 1 {}, .bar4Read 0 0 0 {}, .bar4Read 0 (2 ^ 41) 1 {},
   .bar4Write 0 0 [] {}, .bar4Write 0 (2 ^ 41) [0] {}, .msixVectorUnmask 0 2048 true true, .d3hotEntry 2, .portTrained 48 0 0 0, .portTrained 0 64 0 0, .portTrained 0 0 64 0, .portTrained 0 0 0 256,
   .flitReceive 48 goodFlit, .flitReceive 0 { goodFlit with payload := [] }, .flitReceive 0 { goodFlit with ftype := 8 }, .flitReceive 0 { goodFlit with vc := 4 }, .flitReceive 0 { goodFlit with seq := 4096 },
   .flitReceive 0 { goodFlit with ackseq := 4096 }, .flitReceive 0 { goodFlit with crvc := 4 }, .flitReceive 0 { goodFlit with credits := 32 }, .flitReceive 0 { goodFlit with lepoch := 256 },
   .flitReceive 0 { goodFlit with vlen := 256 }, .flitReceive 0 { goodFlit with reserved := 256 }, .gapTimeout 48, .ackTimeout 48, .readReq 6 readPk {}, .readReq 0 sigPk {}, .readReq 0 { readPk with dmod := 64 } {},
   .readReq 0 { readPk with smod := 64 } {}, .readReq 0 { readPk with hops := 256 } {}, .readReq 0 { readPk with pepoch := 65536 } {}, .readReq 0 { readPk with tag := 65536 } {}, .readReq 0 { readPk with lenw := 514 } {},
   .readReq 0 { readPk with status := 256 } {}, .readReq 0 { readPk with addr := 2 ^ 34 } {}, .writeReq 0 { writePk with payload := [] } {}, .heartbeatTimeout 64, .fenceExpiry 0 4096, .powerOn { straps := 2 ^ 17, flash := [] },
   .deviceResetRequest 0 (2 ^ 32), .overlaySwitchRequest 128 0, .remapRequest 0 16 0, .remapApply 0 (2 ^ 32), .getInfo 0 8192, .requestUpdate (2 ^ 32), .requestFirmwareData (2 ^ 32) [], .setEventReceiver 256, .setEndpointId 256,
   .entdaa 128, .sensorSample true 0 [], .sensorSample true 256 [0, 0, 0, 0], .sensorSample false 32 [], .sensorFail true 0 4, .sensorFail false 0 24, .powerAllowanceUpdate 8 0, .powerAllowanceUpdate 0 65536,
   .powerCalibration 65536 0, .powerCalibration 0 65536, .heldWriteExpiry 0 16, .targetedRefresh 0 0 49152, .railWarningCross 7 0, .railWarningCross 0 65536, .railResetCross 7 0, .railPowerLoss 7 0, .railWarningReturn 7 0,
   .patinaMeasurement [(32, 0, 0)] [], .patinaMeasurement [] [(32, 0, 0)], .g2Entry 442, .g2Wake 442, .scLpCtlWrite 0 (2 ^ 32), .resyncRequest ⟨0, 32⟩ true, .tickSnapshot 0 (2 ^ 32), .snapshotMessage 32, .eventRecord 32 0 0 0,
   .eventRecord 0 65536 0 0, .eventRecord 0 0 (2 ^ 32) 0, .eventRecord 0 0 0 (2 ^ 32), .eventStore 32, .evtSlotRead 0 4096, .tdEccCtlClear 0 (2 ^ 26), .hostLinkUp 0 6 1 true, .hostLinkUp 0 0 0 true, .hostLinkUp 0 0 17 true,
   .vfEnableSet 0 64, .atsInvalidation 0 1 0, .completionTimeout 0 16 none, .busMasterEnableWrite 0 ⟨true, { cto := 16 }⟩, .busMasterEnableWrite 0 ⟨true, { mps := 10 }⟩, .busMasterEnableWrite 0 ⟨true, { mrrs := 6 }⟩,
   .busMasterEnableWrite 0 ⟨true, { bar4 := 42 }⟩, .busMasterEnableWrite 128 ⟨true, {}⟩, .shareAccountCrossing (.attn 8) 0]
theorem wf_refuses_each : illFormed.map (fun i => i.wf) = List.replicate illFormed.length false := by decide +kernel
theorem wf_accepts : ([.ctxOpen 127 255, .registerWrite 0 8 8 (2 ^ 64 - 1), .rcRead 0 (2 ^ 26 - 4) 4, .bar0BadsizeAccess 0 2 4 true, .pairHighRead 0 4, .qEnable 0 0 15 (2 ^ 31), .qDisable 0 0 0 0, .commandAccept 0 0 (.failed 0) {},
    .engineChoose (.pinned 7 127) {}, .transferComplete 7 127 31 {}, .copyFrame 5 (goodFrame 1), .flitReceive 47 goodFlit, .readReq 5 readPk {}, .writeReq 0 writePk {}, .g2Entry 441, .boundaryScanInstruction 9] : List Instr).map (fun i => i.wf) =
    List.replicate 16 true := by decide +kernel
/-- The table gives no command bits: no word spells one, and a queue takes none from it. -/
theorem no_word_spells_a_command : decodeTableWord 64 0 = none ∧ (base.withFetchWord 64 0) = base := by decide +kernel

theorem test_clears : ((after (exec (.tdApCtlClear 0 0) { base with dies := [(0, { apBlocks := 5 })] })).die 0).apBlocks = 0 ∧
    ((after (exec (.tdDocCtlClear 0 0) { base with stackTab := [(0, { tasks := 5 })] })).stack 0).tasks = 0 ∧
    ((after (exec (.sbCacheCtlClear 0 0) { base with stackTab := [(0, { descCnt := 5 })] })).stack 0).descCnt = 0 ∧
    ((after (exec (.ldCrCtlClear 0 0) { base with couriers := [(0, { sent := 5 })] })).courier 0).sent = 0 ∧
    ((after (exec (.ldPkCtlClear 0 0) { base with couriers := [(0, { pkHop := 5 })] })).courier 0).pkHop = 0 ∧
    ((after (exec (.ldWpCtlClear 0 0) { base with ports := [(0, { replay := 5 })] })).port 0).replay = 0 ∧
    ((after (exec (.tdEccCtlClear 0 (blockOfDie 0)) { base with ecc := [(blockOfDie 0, { corr := 5 })] })).eccBlock (blockOfDie 0)).corr = 0 := by decide +kernel
/-- R61, R62: a request of one side, and the acknowledgement that serves both. -/
theorem test_resync : let t := after (exec (.resyncRequest ⟨blockOfDie 0, 1⟩ false) base)
    let u := after (exec (.resyncAck ⟨blockOfDie 0, 1⟩) t)
    (crossKey ⟨blockOfDie 0, 1⟩, (t.crossing 1).near, (u.crossing 1).near, (u.crossing 1).resyncs) = (some 1, true, false, 1) := by decide +kernel

end Sys2Proof.Tests
end

namespace Sys2Proof.Machine

/-! Accesses of BAR0 (R10 to R16, R442): which states they leave calm, what one word read and one word written do, where pairs
stand, and the effect of the registers whose access types O9 to O11 speak of. -/

/- ---- calm states ---- -/

theorem Assoc.mem_of_mem_set {α : Type} [DecidableEq α] {d : α} {l : List (Nat × α)} {n : Nat} {x : α} {e : Nat × α}
    (h : e ∈ Assoc.set d l n x) : e = (n, x) ∨ e ∈ l := by
  unfold Assoc.set at h
  split at h
  · exact .inr (Assoc.mem_erase.1 h).1
  · exact (Assoc.mem_put.1 h).imp_right fun he => (Assoc.mem_erase.1 he).1

/-- A key that is listed reads an entry of the list, and one that is not reads the default. -/
theorem Assoc.get_default_or_mem {α : Type} (d : α) (l : List (Nat × α)) (n : Nat) :
    Assoc.get d l n = d ∨ (n, Assoc.get d l n) ∈ l := by
  induction l with
  | nil => exact .inl rfl
  | cons e r ih =>
    obtain ⟨k, v⟩ := e
    by_cases hk : k = n
    · simp [Assoc.get, hk]
    · simpa [Assoc.get, hk] using ih.imp_right .inr

/-- Where no mailbox works, that of one port does not. -/
theorem State.Calm.hport_idle {s : State} (h : s.Calm) (k : Nat) : (s.hport k).mbBusy = false := by
  obtain ⟨_, _, hm, _, _⟩ := h
  rcases Assoc.get_default_or_mem {} s.hports k with hd | hmem
  · rw [State.hport, hd]
  · exact Bool.eq_false_iff.2 (List.any_eq_false.1 hm _ hmem)

/-- A change of a port's registers that leaves its mailbox alone keeps a calm state calm. -/
theorem State.Calm.modHport {s : State} (h : s.Calm) (k : Nat) {f : HPort → HPort} (hf : ∀ p, (f p).mbBusy = p.mbBusy) :
    (s.modHport k f).Calm := by
  have hk := h.hport_idle k
  obtain ⟨h1, h2, hm, h4, h5⟩ := h
  refine ⟨h1, h2, List.any_eq_false.2 fun e he => ?_, h4, h5⟩
  rcases Assoc.mem_of_mem_set he with rfl | hl
  · rw [hf]; exact Bool.eq_false_iff.1 hk
  · exact List.any_eq_false.1 hm e hl

/-- Reading an error counter leaves the mailbox alone. -/
theorem HPort.clearError_mbBusy (h : HPort) (i : Nat) : (h.clearError i).mbBusy = h.mbBusy := by
  unfold HPort.clearError; split <;> rfl

theorem State.Calm.dieRc {s : State} (h : s.Calm) (d o : Nat) : (s.dieRc d o).Calm := by
  unfold State.dieRc
  split
  · exact h
  · split <;> exact h

theorem State.Calm.readClears {s : State} (h : s.Calm) (off : Nat) : (s.readClears off).Calm := by
  unfold State.readClears
  split
  · split
    · exact h.modHport _ fun p => p.clearError_mbBusy _
    · split
      · exact h
      · split
        · exact h.dieRc ..
        · exact h
  · split
    · exact h
    · exact h.dieRc ..
  · exact h.dieRc ..
  · exact h.dieRc ..
  · exact h.dieRc ..
  · exact h

theorem State.Calm.readPool {s : State} (h : s.Calm) (fn k o : Nat) : (s.readPool fn k o).2.Calm := by
  unfold State.readPool; dsimp only; split <;> exact h

theorem State.Calm.readSlot {s : State} (h : s.Calm) (fn slot w : Nat) : (s.readSlot fn slot w).2.Calm := by
  unfold State.readSlot State.readSlot0
  repeat' split
  all_goals exact h

theorem State.Calm.read32 {s : State} (h : s.Calm) (fn off : Nat) : (s.read32 fn off).2.Calm := by
  unfold State.read32
  split
  · exact h
  · split
    · exact h
    · split
      · split <;> exact h
      · split
        · split
          · exact h.readPool ..
          · exact h.readClears _
        · split
          · exact h.readSlot ..
          · exact h.readClears _
        · exact h.readClears _

theorem State.Calm.read64 {s : State} (h : s.Calm) (fn off : Nat) : (s.read64 fn off).2.Calm := by
  unfold State.read64
  split
  · split <;> exact h
  · exact (h.read32 ..).read32 ..

/-- A read and its reply keep a calm state calm. -/
theorem State.Calm.barRead {s : State} (h : s.Calm) (fn off size : Nat) : (s.barRead fn off size).Calm := by
  unfold State.barRead
  split
  · exact h.read32 ..
  · exact h.read64 ..

/- ---- where pairs stand ---- -/

theorem inSpan_in {o base stride n : Nat} (h1 : base ≤ o) (h2 : o < base + stride * n) : inSpan o base stride n = true := by
  simp [inSpan, h1, h2]
theorem inSpan_above {o base stride n : Nat} (h : base + stride * n ≤ o) : inSpan o base stride n = false := by
  simp [inSpan]; omega

/-- A word is no half of a pair. -/
def NoHalf (off : Nat) : Prop := isPair off = false ∧ ¬(off % 8 = 4 ∧ isPair (off - 4) = true)

theorem isPair_aligned {off : Nat} (h : isPair off = true) : off % 8 = 0 := by
  simp only [isPair, Bool.and_eq_true, beq_iff_eq] at h; exact h.1

/-- The high half of a pair is not the low half of another. -/
theorem isPair_high {off : Nat} (h8 : off % 8 = 4) : isPair off = false := by
  refine Bool.eq_false_iff.2 fun hp => ?_
  have := isPair_aligned hp
  omega

theorem isPair_hi {off o : Nat} (h : blockAt off = (.hi, o)) : isPair off = (off % 8 == 0 &&
    (inSpan o 0x10 8 2 || inSpan o 0x6000 8 256 || inSpan o 0x6800 8 256 ||
      (inSpan o 0x8000 0x200 256 && (o % 0x20 == 0 || o % 0x20 == 8)) || o == 0x8D000 || o == 0x8D010)) := by
  simp only [isPair, h]

theorem isPair_sc {off o : Nat} (h : blockAt off = (.sc, o)) : isPair off = (off % 8 == 0 &&
    (o == 0x900 || o == 0xD000 || o == 0xD010 || inSpan o 0xE008 8 5)) := by
  simp only [isPair, h]

theorem isPair_none {off : Nat} (h : blockAt off = (.none, 0)) : isPair off = false := by simp [isPair, h]

/-- Between the ports' windows and the contexts' roots the host block holds no pair. -/
theorem noHalf_hi {o : Nat} (h1 : 0x100 ≤ o) (h2 : o < 0x6000) : NoHalf (hiBase + o) := by
  refine ⟨?_, fun ⟨_, hp⟩ => ?_⟩
  · rw [isPair_hi (blockAt_hi (by omega))]; simp [inSpan]; omega
  · rw [Nat.add_sub_assoc (by omega), isPair_hi (blockAt_hi (by omega))] at hp
    simp [inSpan] at hp; omega

/-- Below SC_EVT_TOTAL the system block holds no pair. -/
theorem noHalf_sc {o : Nat} (h1 : 4 ≤ o) (h2 : o < 0x900) : NoHalf (scBase + o) := by
  refine ⟨?_, fun ⟨_, hp⟩ => ?_⟩
  · rw [isPair_sc (blockAt_sc (by omega))]; simp [inSpan]; omega
  · rw [Nat.add_sub_assoc (by omega), isPair_sc (blockAt_sc (by omega))] at hp
    simp [inSpan] at hp; omega

/-- Below the counters of sparsity a compute die's one pair is TD_SNAP_BASE. -/
theorem noHalf_td {d o : Nat} (hd : d < 8) (h1 : 4 ≤ o) (h2 : o < 0x6008) (h3 : o < 0x3018 ∨ 0x3020 ≤ o) : NoHalf (tdBase d + o) := by
  refine ⟨?_, fun ⟨h8, hp⟩ => ?_⟩
  · rw [isPair_td (blockAt_td hd (by omega))]; simp [inSpan]; omega
  · have h8' : o % 8 = 4 := by unfold tdBase at h8; omega
    rw [Nat.add_sub_assoc (by omega), isPair_td (blockAt_td hd (by omega))] at hp
    simp [inSpan] at hp; omega

/-- The pairs of the queues (R448): SQ_BASE. -/
theorem isPair_sqBase {n : Nat} (hn : n < 4096) : isPair (hiBase + 0x8000 + 0x20 * n) = true := by
  rw [Nat.add_assoc, isPair_hi (blockAt_hi (by omega))]
  simp [inSpan, hiBase]; omega

/- ---- one word read ---- -/

/-- A register whose read captures others beside R15's: the pools of a stack and the slots of the event log (R308, R555). -/
def capturesOthers : Blk × Nat → Bool
  | (.sb _, o) => inSpan o 0x3008 4 3
  | (.sc, o) => inSpan o 0x10000 32 4096
  | _ => false

theorem State.read32_unseen {s : State} {fn off : Nat} (h : s.sees fn off = false) : s.read32 fn off = (0, s) := by
  simp [State.read32, h]

theorem State.read32_low {s : State} {fn off : Nat} (h : s.sees fn off = true) (hp : isPair off = true) :
    s.read32 fn off = (s.word off, s.setCapture fn off (some (s.word (off + 4)))) := by
  simp [State.read32, h, hp]

/-- The value read from a high half is the captured one, where there is one (R15). -/
theorem State.read32_high_value {s : State} {fn off : Nat} (h : s.sees fn off = true) (h8 : off % 8 = 4) (hp : isPair (off - 4) = true) :
    (s.read32 fn off).1 = (s.captured fn (off - 4)).getD (s.word off) := by
  cases hc : s.captured fn (off - 4) <;> simp [State.read32, h, isPair_high h8, h8, hp, hc]

/-- A read of a high half takes the capture, where there is one (R15). -/
theorem State.read32_high_state {s : State} {fn off : Nat} (h : s.sees fn off = true) (h8 : off % 8 = 4) (hp : isPair (off - 4) = true) :
    (s.read32 fn off).2 = if s.captured fn (off - 4) = none then s else s.setCapture fn (off - 4) none := by
  cases hc : s.captured fn (off - 4) <;> simp [State.read32, h, isPair_high h8, h8, hp, hc]

/-- Any other word reads as it is, and its read-to-clear fields clear (R11). -/
theorem State.read32_word {s : State} {fn off : Nat} (h : s.sees fn off = true) (hp : NoHalf off)
    (hc : capturesOthers (blockAt off) = false) : s.read32 fn off = (s.word off, s.readClears off) := by
  obtain ⟨hlow, hhigh⟩ := hp
  unfold State.read32
  rw [if_neg (by simp [h]), if_neg (by simp [hlow]), if_neg hhigh]
  generalize hb : blockAt off = x at hc
  obtain ⟨b, o⟩ := x
  cases b with
  | sb k => exact if_neg (Bool.eq_false_iff.1 hc)
  | sc => exact if_neg (Bool.eq_false_iff.1 hc)
  | gl | hi | td | ld | none => rfl

theorem State.captured_setCapture_self (s : State) (fn off : Nat) (v : Option Nat) : (s.setCapture fn off v).captured fn off = v := by
  simp [State.captured, State.setCapture]

theorem State.pairRead_setCapture_ne (s : State) {fn off k : Nat} (v : Option Nat) (h : k ≠ pairKey fn off) :
    Assoc.get none (s.setCapture fn off v).pairRead k = Assoc.get none s.pairRead k :=
  Assoc.get_set_ne none s.pairRead v h

/-- After a read of a high half no capture of its pair is left. -/
theorem State.read32_high_captured {s : State} {fn off : Nat} (h : s.sees fn off = true) (h8 : off % 8 = 4) (hp : isPair (off - 4) = true) :
    (s.read32 fn off).2.captured fn (off - 4) = none := by
  rw [State.read32_high_state h h8 hp]
  split
  · assumption
  · exact State.captured_setCapture_self ..

/-- A read of a high half changes no other capture, and nothing but captures. -/
theorem State.read32_high_keeps {s : State} {fn off : Nat} (h : s.sees fn off = true) (h8 : off % 8 = 4) (hp : isPair (off - 4) = true) :
    (s.read32 fn off).2 = { s with pairRead := (s.read32 fn off).2.pairRead } ∧
    ∀ k, k ≠ pairKey fn (off - 4) → Assoc.get none (s.read32 fn off).2.pairRead k = Assoc.get none s.pairRead k := by
  rw [State.read32_high_state h h8 hp]
  split
  · exact ⟨rfl, fun _ _ => rfl⟩
  · exact ⟨rfl, fun _ hk => State.pairRead_setCapture_ne s none hk⟩

/- ---- the reads ---- -/

theorem State.barRead_word (s : State) (fn off : Nat) :
    s.barRead fn off 4 = (s.read32 fn off).2.emit (.regRead fn off 4 (s.read32 fn off).1) := rfl

theorem exec_rcRead {s : State} {fn off size : Nat} (h : s.Calm) (hb : s.barOpen fn = true) (ha : barAccess off size = true) :
    exec (.rcRead fn off size) s = .next (s.barRead fn off size).refresh := by
  show execRcRead fn off size s = _
  rw [execRcRead, if_pos (by simp [hb, ha]), done_calm (h.barRead ..)]

theorem exec_pairLowRead {s : State} {fn off : Nat} (h : s.Calm) (hb : s.barOpen fn = true) (hp : isPair off = true) :
    exec (.pairLowRead fn off) s = .next (s.barRead fn off 4).refresh := by
  show execPairLowRead fn off s = _
  rw [execPairLowRead, if_pos (by simp [hb, hp]), done_calm (h.barRead ..)]

theorem exec_pairHighRead {s : State} {fn off : Nat} (h : s.Calm) (hb : s.barOpen fn = true) (h8 : off % 8 = 4)
    (hp : isPair (off - 4) = true) : exec (.pairHighRead fn off) s = .next (s.barRead fn off 4).refresh := by
  show execPairHighRead fn off s = _
  rw [execPairHighRead, if_pos (by simp [hb, h8, hp]), done_calm (h.barRead ..)]

theorem State.barRead_unseen {s : State} {fn off : Nat} (h : s.sees fn off = false) :
    s.barRead fn off 4 = s.emit (.regRead fn off 4 0) := by
  rw [State.barRead_word, State.read32_unseen h]

/-- A read of one word answers it and clears its read-to-clear fields (R11, R12). -/
theorem State.barRead_clears {s : State} {fn off : Nat} (h : s.sees fn off = true) (hp : NoHalf off)
    (hc : capturesOthers (blockAt off) = false) :
    s.barRead fn off 4 = (s.readClears off).emit (.regRead fn off 4 (s.word off)) := by
  rw [State.barRead_word, State.read32_word h hp hc]

/-- Whatever is read, only read-to-clear fields and captures change. -/
theorem State.readFrame_access (s : State) (fn off size : Nat) :
    ReadFrame s (if size = 4 then s.read32 fn off else s.read64 fn off).2 := by
  split
  · exact State.readFrame_read32 ..
  · exact State.readFrame_read64 ..

/-- A read sends its one reply (R14). -/
theorem State.barRead_out (s : State) (fn off size : Nat) : (s.barRead fn off size).out =
    s.out ++ [.regRead fn off size (if size = 4 then (s.read32 fn off).1 else (s.read64 fn off).1)] := by
  obtain ⟨hf, _⟩ := State.readFrame_access s fn off size
  show (if size = 4 then s.read32 fn off else s.read64 fn off).2.out ++ _ = _
  rw [hf, apply_ite Prod.fst]

/-- A read changes, beside its reply, only read-to-clear fields and captures (R12, R15). -/
theorem State.barRead_frame (s : State) (fn off size : Nat) :
    s.barRead fn off size = { s with
      out := (s.barRead fn off size).out, hports := (s.barRead fn off size).hports, ctxs := (s.barRead fn off size).ctxs,
      evd := (s.barRead fn off size).evd, cross := (s.barRead fn off size).cross, dips := (s.barRead fn off size).dips,
      pairRead := (s.barRead fn off size).pairRead, cacheCap := (s.barRead fn off size).cacheCap,
      slotCap := (s.barRead fn off size).slotCap } ∧
    ∀ c, (s.barRead fn off size).ctx c = s.ctx c ∨ (s.barRead fn off size).ctx c = { s.ctx c with kills := 0 } := by
  obtain ⟨hf, hk⟩ := State.readFrame_access s fn off size
  refine ⟨?_, hk⟩
  unfold State.barRead
  generalize (if size = 4 then s.read32 fn off else s.read64 fn off) = x at hf ⊢
  dsimp only
  rw [hf]; rfl

/- ---- the read-to-clear registers of O9 ---- -/

/-- The error counters of a port (R459). -/
theorem State.word_portError (s : State) {p i : Nat} (hp : p < 2) (hi : i < 9) :
    s.word (hiBase + (0x100 + 0x40 * p + 4 * i)) = (s.hport p).errors.getD i 0 := by
  have h1 : (0x100 + 0x40 * p + 4 * i - 0x100) / 0x40 = p := by omega
  have h2 : (0x100 + 0x40 * p + 4 * i) % 0x40 / 4 = i := by omega
  simp only [State.word, blockAt_hi (show 0x100 + 0x40 * p + 4 * i < 0x100000 by omega), State.hiWord]
  simp (disch := omega) only [inSpan_above, inSpan_in, h1, h2, if_true, Bool.false_eq_true, if_false]

theorem State.readClears_portError (s : State) {p i : Nat} (hp : p < 2) (hi : i < 9) :
    s.readClears (hiBase + (0x100 + 0x40 * p + 4 * i)) = s.modHport p fun h => h.clearError i := by
  have h1 : (0x100 + 0x40 * p + 4 * i - 0x100) / 0x40 = p := by omega
  have h2 : (0x100 + 0x40 * p + 4 * i) % 0x40 / 4 = i := by omega
  simp only [State.readClears, blockAt_hi (show 0x100 + 0x40 * p + 4 * i < 0x100000 by omega)]
  simp (disch := omega) only [inSpan_in, h1, h2, if_true]

/-- Clearing one error counter zeroes that one and keeps the others. -/
theorem HPort.errors_clearError (h : HPort) {i : Nat} (hi : i < 9) : (h.clearError i).errors = h.errors.set i 0 := by
  match i, hi with
  | 0, _ | 1, _ | 2, _ | 3, _ | 4, _ | 5, _ | 6, _ | 7, _ | 8, _ => rfl

/-- A context's KILLS (R371). -/
theorem State.word_kills (s : State) {c : Nat} (hc : c < 256) : s.word (hiBase + (0x5000 + 4 * c)) = (s.ctx c).kills := by
  have h1 : (0x5000 + 4 * c - 0x5000) / 4 = c := by omega
  simp only [State.word, blockAt_hi (show 0x5000 + 4 * c < 0x100000 by omega), State.hiWord]
  simp (disch := omega) only [inSpan_above, inSpan_in, h1, if_true, Bool.false_eq_true, if_false]

theorem State.readClears_kills (s : State) {c : Nat} (hc : c < 256) :
    s.readClears (hiBase + (0x5000 + 4 * c)) = s.modCtx c fun x => { x with kills := 0 } := by
  have h1 : (0x5000 + 4 * c - 0x5000) / 4 = c := by omega
  simp only [State.readClears, blockAt_hi (show 0x5000 + 4 * c < 0x100000 by omega)]
  simp (disch := omega) only [inSpan_above, inSpan_in, h1, if_true, Bool.false_eq_true, if_false]

theorem blockAt_sb {k o : Nat} (hk : k < 16) (h : o < 0x100000) : blockAt (sbBase k + o) = (.sb k, o) := by
  unfold blockAt sbBase
  rw [if_neg (by omega), if_neg (by omega), if_neg (by omega), if_neg (by omega), if_neg (by omega), if_pos (by omega)]
  refine Prod.ext (congrArg Blk.sb ?_) ?_
  · omega
  · show (_ : Nat) = _; omega

theorem blockAt_ld {l o : Nat} (hl : l < 6) (h : o < 0x100000) : blockAt (ldBase l + o) = (.ld l, o) := by
  unfold blockAt ldBase
  rw [if_neg (by omega), if_neg (by omega), if_neg (by omega), if_neg (by omega), if_neg (by omega), if_neg (by omega), if_pos (by omega)]
  refine Prod.ext (congrArg Blk.ld ?_) ?_
  · omega
  · show (_ : Nat) = _; omega

/-- The logic die whose common registers a block of BAR0 holds at offset 0xD000 (R441, R514). -/
def Blk.die : Blk → Option Nat
  | .td d => some (cdDie d)
  | .sb k => some (sbDie k)
  | .ld l => some (ldDie l)
  | .sc => some hd1Die
  | _ => Option.none

/-- Every logic die but HD0 has its common registers at one offset of its own block. -/
theorem blockAt_blockOfDie {d : Nat} (hd : d < 32) (h30 : d ≠ 30) :
    ∃ b : Blk, b.die = some d ∧ ∀ o, o < 0x100000 → blockAt (blockOfDie d + o) = (b, o) := by
  unfold blockOfDie
  by_cases h8 : d < 8
  · exact ⟨.td d, rfl, fun o ho => by rw [if_pos h8, blockAt_td h8 (by omega)]⟩
  · rw [if_neg h8]
    by_cases h24 : d < 24
    · exact ⟨.sb (d - 8), by simp [Blk.die, sbDie]; omega, fun o ho => by rw [if_pos h24, blockAt_sb (by omega) ho]⟩
    · rw [if_neg h24]
      by_cases h6 : d < 30
      · exact ⟨.ld (d - 24), by simp [Blk.die, ldDie]; omega, fun o ho => by rw [if_pos h6, blockAt_ld (by omega) ho]⟩
      · exact ⟨.sc, by simp [Blk.die, hd1Die]; omega, fun o ho => by rw [if_neg h6, if_neg h30, blockAt_sc ho]⟩

/-- What a read of a read-to-clear register turns on: the word is no half of a pair and captures nothing, it reads v, and the read
leaves u. -/
def ReadToClear (s : State) (off v : Nat) (u : State) : Prop :=
  NoHalf off ∧ capturesOthers (blockAt off) = false ∧ s.word off = v ∧ s.readClears off = u

/-- A read of a read-to-clear register answers the value and leaves the cleared state (R11). -/
theorem ReadToClear.barRead {s u : State} {off v fn : Nat} (h : ReadToClear s off v u) (hs : s.sees fn off = true) :
    s.barRead fn off 4 = u.emit (.regRead fn off 4 v) := by
  obtain ⟨hp, hc, hv, hu⟩ := h
  rw [State.barRead_clears hs hp hc, hv, hu]

theorem readToClear_portError (s : State) {p i : Nat} (hp : p < 2) (hi : i < 9) :
    ReadToClear s (hiBase + 0x100 + 0x40 * p + 4 * i) ((s.hport p).errors.getD i 0) (s.modHport p fun h => h.clearError i) := by
  rw [Nat.add_assoc hiBase, Nat.add_assoc hiBase]
  exact ⟨noHalf_hi (by omega) (by omega), by rw [blockAt_hi (by omega)]; rfl, s.word_portError hp hi, s.readClears_portError hp hi⟩

theorem readToClear_kills (s : State) {c : Nat} (hc : c < 256) :
    ReadToClear s (hiBase + 0x5000 + 4 * c) (s.ctx c).kills (s.modCtx c fun x => { x with kills := 0 }) := by
  rw [Nat.add_assoc]
  exact ⟨noHalf_hi (by omega) (by omega), by rw [blockAt_hi (by omega)]; rfl, s.word_kills hc, s.readClears_kills hc⟩

/-- The count of supply dips (R531). -/
theorem readToClear_dips (s : State) : ReadToClear s (scBase + 0x620) s.dips { s with dips := 0 } :=
  ⟨noHalf_sc (by omega) (by omega), rfl, rfl, rfl⟩

/-- EVT_DROP (R552) in any block that holds a die's common registers. -/
theorem readToClear_evtDrop_of_block (s : State) {off d : Nat} {b : Blk} (hb : b.die = some d)
    (h : blockAt off = (b, 0xD00C)) (hlow : blockAt (off - 4) = (b, 0xD008)) :
    ReadToClear s off (s.ev d).drop (s.modEv d fun e => { e with drop := 0 }) := by
  cases b <;> cases hb
  all_goals exact ⟨⟨by simp [isPair, h, inSpan], by simp [isPair, hlow, inSpan]⟩, by rw [h]; rfl, by rw [State.word, h]; rfl,
    by rw [State.readClears, h]; rfl⟩

/-- EVT_DROP of a die (R552). -/
theorem readToClear_evtDrop (s : State) {d : Nat} (hd : d < 32) (h30 : d ≠ 30) :
    ReadToClear s (blockOfDie d + 0xD00C) (s.ev d).drop (s.modEv d fun e => { e with drop := 0 }) := by
  obtain ⟨b, hb, hat⟩ := blockAt_blockOfDie hd h30
  exact readToClear_evtDrop_of_block s hb (hat _ (by omega)) (hat 0xD008 (by omega))

/-- Settles O9: a read is one reply and clears at most read-to-clear fields; the four named registers read their count and clear it. -/
theorem registerReadAnswersAndClears : Obligations.RegisterReadAnswersAndClears := by
  intro s fn off size h hb ha
  refine ⟨_, exec_rcRead h hb ha, ?_⟩
  obtain ⟨hframe, hkills⟩ := State.barRead_frame s fn off size
  simp only [State.refresh_keeps]
  refine ⟨s.barRead_out fn off size, congrArg State.refresh hframe, hkills, ?_, ?_, ?_, ?_, ?_⟩
  all_goals clear hframe hkills
  · rintro hs rfl
    rw [State.barRead_unseen hs]; rfl
  · rintro p i hp hi rfl rfl hs
    rw [(readToClear_portError s hp hi).barRead hs]
    refine ⟨rfl, ?_, fun j hj => ?_, fun k hk => ?_⟩
    · have hlen : i < (s.hport p).errors.length := hi
      simp [HPort.errors_clearError _ hi, hlen]
    · simp [HPort.errors_clearError _ hi, List.getElem?_set_ne hj.symm]
    · simp [State.hport_modHport, hk]
  · rintro c hc rfl rfl hs
    rw [(readToClear_kills s hc).barRead hs]
    exact ⟨rfl, by simp, fun k hk => by simp [State.ctx_modCtx, hk]⟩
  · rintro d hd h30 rfl rfl hs
    rw [(readToClear_evtDrop s hd h30).barRead hs]
    exact ⟨rfl, by simp, fun k hk => by simp [State.ev_modEv, hk]⟩
  · rintro rfl rfl hs
    rw [(readToClear_dips s).barRead hs]
    exact ⟨rfl, rfl⟩

end Sys2Proof.Machine

namespace Sys2Proof.Machine

/-! Register writes of BAR0 (R11, R14, R15, R442) and accesses of a bad size (R16). -/

/- ---- one word written ---- -/

theorem State.write32_barred {s : State} {fn off : Nat} (v : Nat) (h : s.mayWrite fn off = false) : s.write32 fn off v = s := by
  simp [State.write32, h]

theorem State.write32_low {s : State} {fn off : Nat} (v : Nat) (h : s.mayWrite fn off = true) (hp : isPair off = true) :
    s.write32 fn off v = s.holdLow fn off (some (v % 2 ^ 32)) := by
  simp [State.write32, h, hp]

/-- A high half takes effect with the held low half, or with the low half that stands (R15). -/
theorem State.write32_high {s : State} {fn off : Nat} (v : Nat) (h : s.mayWrite fn off = true) (h8 : off % 8 = 4)
    (hp : isPair (off - 4) = true) : s.write32 fn off v =
      (s.holdLow fn (off - 4) none).writePair fn (off - 4)
        ((s.heldLow fn (off - 4)).getD (s.word (off - 4)) + 2 ^ 32 * (v % 2 ^ 32)) := by
  simp [State.write32, h, isPair_high h8, h8, hp]

theorem State.write32_word {s : State} {fn off : Nat} (v : Nat) (h : s.mayWrite fn off = true) (hp : NoHalf off) :
    s.write32 fn off v = s.writeWord fn off v := by
  obtain ⟨hlow, hhigh⟩ := hp
  simp [State.write32, h, hlow, hhigh]

/-- Where there is no register, a write changes nothing (R13). -/
theorem State.write32_none {s : State} {fn off : Nat} (v : Nat) (h : blockAt off = (.none, 0)) : s.write32 fn off v = s := by
  cases hw : s.mayWrite fn off with
  | false => exact State.write32_barred v hw
  | true =>
    have hp : NoHalf off := ⟨isPair_none h, fun ⟨h8, hp⟩ => by simp [isPair_none (blockAt_none_low h h8)] at hp⟩
    rw [State.write32_word v hw hp]
    simp [State.writeWord, h]

theorem State.heldLow_holdLow_self (s : State) (fn off : Nat) (v : Option Nat) : (s.holdLow fn off v).heldLow fn off = v := by
  simp [State.heldLow, State.holdLow]

theorem State.pairWrite_holdLow_ne (s : State) {fn off k : Nat} (v : Option Nat) (h : k ≠ pairKey fn off) :
    Assoc.get none (s.holdLow fn off v).pairWrite k = Assoc.get none s.pairWrite k :=
  Assoc.get_set_ne none s.pairWrite v h

/- ---- the registers of O10 and O11 ---- -/

theorem State.hiWrite_itemCycles (s : State) (fn v : Nat) {c : Nat} (hc : c < 256) :
    s.hiWrite fn (0x4C00 + 4 * c) v = s.modCtx c fun x => { x with itemCycles := bits v 23 0 } := by
  have h1 : (0x4C00 + 4 * c - 0x4C00) / 4 = c := by omega
  unfold State.hiWrite
  simp (disch := omega) only [inSpan_above, inSpan_in, h1, if_true, Bool.false_eq_true, if_false]

theorem State.hiWrite_shareRefused (s : State) (fn v : Nat) {c : Nat} (hc : c < 256) :
    s.hiWrite fn (0x4400 + 4 * c) v = s.modCtx c fun x => { x with shareRefused := x.shareRefused && !bit v 31 } := by
  have h1 : (0x4400 + 4 * c - 0x4400) / 4 = c := by omega
  unfold State.hiWrite
  simp (disch := omega) only [inSpan_above, inSpan_in, h1, if_true, Bool.false_eq_true, if_false]

theorem State.scWrite_rail (s : State) (fn v : Nat) {r : Nat} (hr : r < 7) :
    s.scWrite fn (0x600 + 4 * r) v = s.modRail r fun x => { x with low := x.low && !bit v 30 } := by
  have h1 : (0x600 + 4 * r - 0x600) / 4 = r := by omega
  unfold State.scWrite
  split
  · omega
  · omega
  · simp (disch := omega) only [inSpan_in, h1, if_true]

/-- A queue's SQ_BASE is written while the queue is off (R448, R449). -/
theorem State.writePair_sqBase {s : State} {fn n : Nat} (v : Nat) (hn : n < 4096) (hm : s.mayConfigure fn (n / 16) = true)
    (he : (s.queue n).enable = false) (hd : (s.queue n).disabling = false) :
    s.writePair fn (hiBase + 0x8000 + 0x20 * n) v = s.modQueue n fun q => { q with sqBase := bits v 63 12 * 2 ^ 12 } := by
  have h1 : (0x8000 + 0x20 * n - 0x8000) / 0x20 = n := by omega
  have h2 : (0x8000 + 0x20 * n) % 0x20 = 0 := by omega
  simp only [State.writePair, Nat.add_assoc hiBase, blockAt_hi (show 0x8000 + 0x20 * n < 0x100000 by omega)]
  simp (disch := omega) only [inSpan_above, inSpan_in, h1, h2, if_true, Bool.false_eq_true, if_false]
  simp [State.writeBase, hm, he, hd]

/- ---- the writes ---- -/

theorem exec_registerWrite {s : State} {fn off size : Nat} (v : Nat) (hb : s.barOpen fn = true) (ha : barAccess off size = true) :
    exec (.registerWrite fn off size v) s = done (s.barWrite fn off size v) := by
  show execRegisterWrite fn off size v s = _
  rw [execRegisterWrite, if_pos (by simp [hb, ha])]

theorem exec_pairLowWrite {s : State} {fn off : Nat} (v : Nat) (hb : s.barOpen fn = true) (hp : isPair off = true) :
    exec (.pairLowWrite fn off v) s = done (s.write32 fn off (v % 2 ^ 32)) := by
  show execPairLowWrite fn off v s = _
  rw [execPairLowWrite, if_pos (by simp [hb, hp])]; rfl

theorem exec_pairHighWrite {s : State} {fn off : Nat} (v : Nat) (hb : s.barOpen fn = true) (h8 : off % 8 = 4)
    (hp : isPair (off - 4) = true) : exec (.pairHighWrite fn off v) s = done (s.write32 fn off (v % 2 ^ 32)) := by
  show execPairHighWrite fn off v s = _
  rw [execPairHighWrite, if_pos (by simp [hb, h8, hp])]; rfl

/-- An aligned word below the end of BAR0 is an access (R14). -/
theorem barAccess_word {off : Nat} (h4 : off % 4 = 0) (hlt : off + 4 ≤ 2 ^ 26) : barAccess off 4 = true := by
  simp [barAccess, h4]; omega

/-- A write of a register that is no half of a pair has the register's own effect (R11). -/
theorem exec_registerWrite_word {s u : State} {fn off v : Nat} (hb : s.barOpen fn = true) (ha : barAccess off 4 = true)
    (hw : s.mayWrite fn off = true) (hp : NoHalf off) (hu : s.writeWord fn off (v % 2 ^ 32) = u) (hc : u.Calm) :
    exec (.registerWrite fn off 4 v) s = .next u.refresh := by
  rw [exec_registerWrite v hb ha, ← done_calm hc, ← hu, ← State.write32_word _ hw hp]; rfl

/-- A write that its register does not take, for whatever reason, leaves all as it was. -/
theorem exec_registerWrite_ignored {s : State} {fn off : Nat} (v : Nat) (h : s.Calm) (hb : s.barOpen fn = true)
    (ha : barAccess off 4 = true) (hi : s.write32 fn off (v % 2 ^ 32) = s) :
    exec (.registerWrite fn off 4 v) s = .next s.refresh := by
  rw [exec_registerWrite v hb ha, ← done_calm h]
  exact congrArg done hi

/-- A write of a register of the host block below the contexts' roots. -/
theorem exec_registerWrite_hi {s u : State} {fn o v : Nat} (hb : s.barOpen fn = true) (hw : s.mayWrite fn (hiBase + o) = true)
    (h4 : o % 4 = 0) (h1 : 0x100 ≤ o) (h2 : o < 0x6000) (hu : s.hiWrite fn o (v % 2 ^ 32) = u) (hc : u.Calm) :
    exec (.registerWrite fn (hiBase + o) 4 v) s = .next u.refresh :=
  exec_registerWrite_word hb (barAccess_word (by unfold hiBase; omega) (by unfold hiBase; omega)) hw (noHalf_hi h1 h2)
    ((s.writeWord_hi (blockAt_hi (by omega))).trans hu) hc

/-- A write of a register of the system block below SC_EVT_TOTAL. -/
theorem exec_registerWrite_sc {s u : State} {fn o v : Nat} (hb : s.barOpen fn = true) (hw : s.mayWrite fn (scBase + o) = true)
    (h4 : o % 4 = 0) (h1 : 4 ≤ o) (h2 : o < 0x900) (hu : s.scWrite fn o (v % 2 ^ 32) = u) (hc : u.Calm) :
    exec (.registerWrite fn (scBase + o) 4 v) s = .next u.refresh :=
  exec_registerWrite_word hb (barAccess_word (by unfold scBase; omega) (by unfold scBase; omega)) hw (noHalf_sc h1 h2)
    ((s.writeWord_sc (blockAt_sc (by omega))).trans hu) hc

/-- A write of a register of a compute die below its counters and beside TD_SNAP_BASE. -/
theorem exec_registerWrite_td {s u : State} {fn d o v : Nat} (hb : s.barOpen fn = true) (hw : s.mayWrite fn (tdBase d + o) = true)
    (hd : d < 8) (h4 : o % 4 = 0) (h1 : 4 ≤ o) (h2 : o < 0x6008) (h3 : o < 0x3018 ∨ 0x3020 ≤ o)
    (hu : s.tdWrite d o (v % 2 ^ 32) = u) (hc : u.Calm) : exec (.registerWrite fn (tdBase d + o) 4 v) s = .next u.refresh :=
  exec_registerWrite_word hb (barAccess_word (by unfold tdBase; omega) (by unfold tdBase; omega)) hw (noHalf_td hd h1 h2 h3)
    ((s.writeWord_td (blockAt_td hd (by omega))).trans hu) hc

/-- Settles O10: each register's own write, and the writes that no register takes. -/
theorem registerWriteByAccessType : Obligations.RegisterWriteByAccessType := by
  intro s fn v h hb
  refine ⟨fun c hc hw => ?_, fun c hc hw => ?_, fun r hr hw => ?_, fun d hd hw => ?_, fun d n hd ht hn hv hw => ?_,
    fun off ha hn => ?_, fun off ha hw => ?_, fun off ha hp => ?_⟩
  · rw [Nat.add_assoc] at hw ⊢
    refine ⟨_, exec_registerWrite_hi hb hw (by omega) (by omega) (by omega) (s.hiWrite_itemCycles fn _ hc) h, rfl, ?_, fun k hk => ?_⟩
    · simp [bits]
    · simp [State.ctx_modCtx, hk]
  · rw [Nat.add_assoc] at hw ⊢
    refine ⟨_, exec_registerWrite_hi hb hw (by omega) (by omega) (by omega) (s.hiWrite_shareRefused fn _ hc) h, rfl, ?_, fun k hk => ?_⟩
    · simp
    · simp [State.ctx_modCtx, hk]
  · rw [Nat.add_assoc] at hw ⊢
    refine ⟨_, exec_registerWrite_sc hb hw (by omega) (by omega) (by omega) (s.scWrite_rail fn _ hr) h, rfl, ?_, fun k hk => ?_⟩
    · simp
    · simp [State.rail_modRail, hk]
  · have hu := s.tdWrite_budX d (v % 2 ^ 32)
    cases hl : s.locked with
    | true =>
      rw [hl, if_pos rfl] at hu
      exact ⟨_, exec_registerWrite_td hb hw hd (by omega) (by omega) (by omega) (by omega) hu h, rfl, by simp, fun k _ => by simp⟩
    | false =>
      rw [hl, if_neg Bool.false_ne_true] at hu
      exact ⟨_, exec_registerWrite_td hb hw hd (by omega) (by omega) (by omega) (by omega) hu h, rfl, by simp,
        fun k hk => by simp [State.die_modDie, hk]⟩
  · rw [Nat.add_assoc] at hw ⊢
    refine ⟨_, exec_registerWrite_td hb hw hd (by omega) (by omega) (by omega) (by omega) (s.tdWrite_halt hn ht hv) h, rfl, ?_,
      fun k hk => ?_⟩
    · simp
    · simp [State.halt_modHalt, hk]
  · exact exec_registerWrite_ignored v h hb ha (State.write32_none _ hn)
  · exact exec_registerWrite_ignored v h hb ha (State.write32_barred _ hw)
  · refine ⟨_, exec_registerWrite v hb ha, ?_⟩
    show (s.write64 fn off v).settle = _
    simp [State.write64, hp]

/- ---- halves of pairs and accesses of a bad size ---- -/

/-- An access of a bad size is counted in its port's BADSIZE, and a read of that kind answers zero (R16). -/
theorem exec_bar0BadsizeAccess {s : State} {fn off size : Nat} (w : Bool) (h : s.Calm) (hb : s.barOpen fn = true) (h0 : 0 < size)
    (hlt : off + size ≤ 2 ^ 26) (hbad : size < 4 ∨ off % size ≠ 0) : exec (.bar0BadsizeAccess fn off size w) s =
      .next (if w then s.modHport (fn / 64) fun p => { p with badsize := satAdd 0xFFFFFFFF p.badsize 1 }
        else (s.modHport (fn / 64) fun p => { p with badsize := satAdd 0xFFFFFFFF p.badsize 1 }).emit (.regRead fn off size 0)).refresh := by
  have hc : (s.modHport (fn / 64) fun p => { p with badsize := satAdd 0xFFFFFFFF p.badsize 1 }).Calm := h.modHport _ fun _ => rfl
  show execBar0BadsizeAccess fn off size w s = _
  rw [execBar0BadsizeAccess, if_pos (by simp [hb, h0, hbad]; exact hlt)]
  cases w
  · exact done_calm hc
  · exact done_calm hc

/-- A read of a low half captures the high half (R15). -/
theorem pairLowRead_captures {s : State} {fn off : Nat} (h : s.Calm) (hb : s.barOpen fn = true) (hp : isPair off = true)
    (hs : s.sees fn off = true) : ∃ t, exec (.pairLowRead fn off) s = .next t ∧
      t = ({ s with out := s.out ++ [.regRead fn off 4 (s.word off)], pairRead := t.pairRead } : State).refresh ∧
      t.captured fn off = some (s.word (off + 4)) ∧
      ∀ k, k ≠ pairKey fn off → Assoc.get none t.pairRead k = Assoc.get none s.pairRead k := by
  refine ⟨_, exec_pairLowRead h hb hp, ?_⟩
  rw [State.barRead_word, State.read32_low hs hp]
  exact ⟨rfl, s.captured_setCapture_self fn off (some (s.word (off + 4))), fun k hk => s.pairRead_setCapture_ne (some (s.word (off + 4))) hk⟩

/-- A read of a high half takes the captured value, and without one the value that stands (R15). -/
theorem pairHighRead_takes {s : State} {fn off : Nat} (h : s.Calm) (hb : s.barOpen fn = true) (h8 : off % 8 = 4)
    (hp : isPair (off - 4) = true) (hs : s.sees fn off = true) : ∃ t, exec (.pairHighRead fn off) s = .next t ∧
      t = ({ s with out := s.out ++ [.regRead fn off 4 ((s.captured fn (off - 4)).getD (s.word off))],
                    pairRead := t.pairRead } : State).refresh ∧ t.captured fn (off - 4) = none ∧
      ∀ k, k ≠ pairKey fn (off - 4) → Assoc.get none t.pairRead k = Assoc.get none s.pairRead k := by
  obtain ⟨hstate, hothers⟩ := State.read32_high_keeps hs h8 hp
  refine ⟨_, exec_pairHighRead h hb h8 hp, ?_⟩
  rw [State.barRead_word, State.read32_high_value hs h8 hp]
  refine ⟨?_, State.read32_high_captured hs h8 hp, hothers⟩
  generalize (s.read32 fn off).2 = u at hstate
  rw [hstate]; rfl

/-- A write of a low half is held (R15). -/
theorem pairLowWrite_holds {s : State} {fn off : Nat} (v : Nat) (h : s.Calm) (hb : s.barOpen fn = true) (hp : isPair off = true)
    (hw : s.mayWrite fn off = true) : ∃ t, exec (.pairLowWrite fn off v) s = .next t ∧
      t = ({ s with pairWrite := t.pairWrite } : State).refresh ∧ t.heldLow fn off = some (v % 2 ^ 32) ∧
      ∀ k, k ≠ pairKey fn off → Assoc.get none t.pairWrite k = Assoc.get none s.pairWrite k := by
  rw [exec_pairLowWrite v hb hp, State.write32_low _ hw hp, Nat.mod_mod]
  exact ⟨_, done_calm h, rfl, s.heldLow_holdLow_self fn off (some (v % 2 ^ 32)), fun k hk => s.pairWrite_holdLow_ne (some (v % 2 ^ 32)) hk⟩

/-- A write of SQ_BASE's high half takes effect with the held low half, or with the one that stands (R15, R448). -/
theorem pairHighWrite_sqBase {s : State} {fn n : Nat} (v : Nat) (h : s.Calm) (hb : s.barOpen fn = true) (hn : n < 4096)
    (hw : s.mayWrite fn (hiBase + 0x8004 + 0x20 * n) = true) (hm : s.mayConfigure fn (n / 16) = true)
    (he : (s.queue n).enable = false) (hd : (s.queue n).disabling = false) :
    exec (.pairHighWrite fn (hiBase + 0x8004 + 0x20 * n) v) s =
      .next ((s.holdLow fn (hiBase + 0x8000 + 0x20 * n) none).modQueue n fun q => { q with
        sqBase := bits ((s.heldLow fn (hiBase + 0x8000 + 0x20 * n)).getD (s.word (hiBase + 0x8000 + 0x20 * n)) + 2 ^ 32 * (v % 2 ^ 32))
          63 12 * 2 ^ 12 }).refresh := by
  have h8 : (hiBase + 0x8004 + 0x20 * n) % 8 = 4 := by unfold hiBase; omega
  have hlow : hiBase + 0x8004 + 0x20 * n - 4 = hiBase + 0x8000 + 0x20 * n := by unfold hiBase; omega
  have hp : isPair (hiBase + 0x8004 + 0x20 * n - 4) = true := by rw [hlow]; exact isPair_sqBase hn
  rw [exec_pairHighWrite v hb h8 hp, State.write32_high _ hw h8 hp, hlow, Nat.mod_mod,
    State.writePair_sqBase (s := s.holdLow fn (hiBase + 0x8000 + 0x20 * n) none) _ hn hm he hd]
  exact done_calm h

/-- Settles O11: each half of a pair read and written, SQ_BASE written by its halves, and the accesses of a bad size. -/
theorem pairsAreCapturedAndBadSizesCounted : Obligations.PairsAreCapturedAndBadSizesCounted := by
  refine ⟨fun s fn off v h hb => ⟨fun hp => ⟨pairLowRead_captures h hb hp, fun hs => ?_, pairLowWrite_holds v h hb hp, fun hw => ?_⟩,
    fun hp h8 => ⟨pairHighRead_takes h hb h8 hp, fun hs => ?_, fun hw => ?_⟩, fun n hn hw hm he hd => ?_⟩,
    fun s fn off size w h hb h0 hlt hbad => ?_⟩
  · rw [exec_pairLowRead h hb hp, State.barRead_unseen hs]
  · rw [exec_pairLowWrite v hb hp, State.write32_barred _ hw, done_calm h]
  · rw [exec_pairHighRead h hb h8 hp, State.barRead_unseen hs]
  · rw [exec_pairHighWrite v hb h8 hp, State.write32_barred _ hw, done_calm h]
  · refine ⟨_, pairHighWrite_sqBase v h hb hn hw hm he hd, rfl, s.heldLow_holdLow_self fn (hiBase + 0x8000 + 0x20 * n) none, ?_, fun k hk => ?_⟩
    · simp only [State.refresh_keeps, State.queue_modQueue_self]; rfl
    · simp only [State.refresh_keeps, State.queue_modQueue, if_neg hk]; rfl
  · refine ⟨_, exec_bar0BadsizeAccess w h hb h0 hlt hbad, ?_, ?_, fun k hk => ?_⟩
    · cases w <;> rfl
    · cases w <;> simp [satAdd]
    · cases w <;> simp [State.hport_modHport, hk]

end Sys2Proof.Machine
